-- ==== Sys2Proof/Word.lean ====
section
/-! DEFINITION. Word.lean: the byte of the control link and of both memories, and the numbers that name the part's objects
(spec 0.6.3). The arithmetic of the part's rules stands in Machine/Arith.lean. -/
namespace Sys2Proof

/-- A byte of the control link, of the profile memory or of the delay memory. -/
abbrev Byte := BitVec 8

/-- An input or output lane, 0 to 7. -/
abbrev LaneId := Fin 8

/-- A slot of a lane, 0 to 7. -/
abbrev SlotId := Fin 8

/-- A programme, 0 to 15. -/
abbrev ProgId := Fin 16

/-- A watch, 0 to 31. -/
abbrev WatchId := Fin 32

/-- A delay page, 0 to 2047. -/
abbrev PageId := Fin 2048

/-- The 32 bit periods of one slot, bit period 0 the most significant bit (R197). -/
abbrev SlotWord := BitVec 32

end Sys2Proof
end

