-- ==== Sys2Proof/Syntax.lean ====
section
/-! DEFINITION. Syntax.lean: the part's commands, one constructor for each row of spec/opcode_table.json. -/
namespace Sys2Proof

/-- What an input lane carried between two frame markers (R2): how many bit periods, and, when they are exactly 256, the eight
slots they form. With any other length `slots` is not read. -/
structure LaneFrame where
  bitPeriods : Nat
  slots : List SlotWord
  deriving DecidableEq, Repr

/-- A command. A request command carries no operand: it is the taking of the oldest request not yet taken, whose body stands in
the request queue (R177). -/
inductive Instr where
  /-- Power returns with link rate straps 1 and 0 at these levels, high as `true` (R173, R189). -/
  | powerOn (strap1 strap0 : Bool)
  | restart
  | restartTakesEffect
  /-- These bytes arrive on the control link, each with its stop bit high and no long gap among them. -/
  | frameReceived (bytes : List Byte)
  | interByteTimeout
  | unknownKindRequest
  | txFrameEnd
  | status
  | credit
  | laneQuery
  | laneSet
  | laneReset
  | progDefine
  | progUndefine
  | progQuery
  | progReset
  | delaySet
  | videoLatency
  | loudSet
  | loudPause
  | loudResume
  | loudQuery
  | reportSet
  | watchSet
  | watchQuery
  | alarmList
  | alarmAck
  | freeze
  | monitorSet
  | profileStore
  | profileInfo
  | outputFrameBoundary
  | gainRampComplete (p : ProgId)
  /-- A strobe arrives, at this phase error in units of 1/64 frame (R23). -/
  | refStrobe (phase : Int)
  | presenceCountReached
  | silenceCountReached
  | laneActivity (l : LaneId)
  /-- A frame marker arrives on the lane, after these bit periods since the marker before it. -/
  | laneFrameClosed (l : LaneId) (f : LaneFrame)
  | gateExpiry (l : LaneId)
  | laneFadeFadedPoint (l : LaneId)
  | laneFadeComplete (l : LaneId)
  | glideComplete (p : ProgId)
  | jumpFadedPoint (p : ProgId)
  | fillingEnd (p : ProgId)
  | fadeInComplete (p : ProgId)
  | releaseFadeComplete (p : ProgId)
  | subBlockComplete (p : ProgId)
  | profileLoadEnd
  | profileTransferAck
  /-- The profile memory has not acknowledged for 10 ms. `whole` says how far it had come: in a store, whether it had
  acknowledged every byte of the transfer, so that the transfer is committed; in the load, whether the header had been read whole. -/
  | profileAckTimeout (whole : Bool)
  | characterError
  /-- These bytes arrive on the control link, the last of them the second length byte of a frame whose length exceeds 1024. -/
  | lengthFieldExceeds1024 (bytes : List Byte)
  | powerLoss
  deriving DecidableEq, Repr

end Sys2Proof
end

