-- ==== Sys2Proof/Decode.lean ====
section
/-! DEFINITION. Decode.lean: the command that a word of spec/opcode_table.json spells. The table gives no row any bits: its 53
rows are events and requests, not encoded words, so no word spells a command. The bytes of requests are read by
Machine/Operands.lean. -/
namespace Sys2Proof

/-- No row of the table has bits, so no word spells a command. -/
def decodeTableWord (_nbits _w : Nat) : Option Instr := none

end Sys2Proof
end

