-- ==== Sys2Proof/Weighting.lean ====
section
/-! DEFINITION. Weighting.lean: what R104 states of the weighting filter, and that a filter of which it holds exists, so that the
free value of Config.lean can be taken among such filters. The filter shown here is not the part's: nothing rests on it but that
existence. -/
namespace Sys2Proof.Config

/-- What R104 states of the weighting filter, whose response to a unit sample is h: its magnitude response blocks a constant input,
takes the table's values to the tenth of a decibel given, changes monotonically between them (so it rises from 0 Hz to 10 kHz),
and lies within 0.5 dB of +4.0 dB from 10 kHz to 24 kHz; and its output, rounded to 2^-30, stays below 4 for every input of
magnitude at most 1 (log 10). It bounds no tail: that z is 0 within four sub-blocks of the last sound sample (R110) is read of the
last weighted sample that is not 0 (the model's choice, log 53). -/
def WeightingLaw (h : Nat → Rat) : Prop :=
  Summable (fun k => |(h k : ℝ)|) ∧ ∑' k : ℕ, |(h k : ℝ)| < 4 - 1 / 2 ^ 31
    ∧ ∀ response decibels : ℝ → ℝ,
      (∀ f : ℝ, response f = ‖∑' k : ℕ, ((h k : ℝ) : ℂ) * Complex.exp (-(2 * Real.pi * f * k / 48000) * Complex.I)‖) →
      (∀ f : ℝ, decibels f = 20 * Real.logb 10 (response f)) →
      response 0 = 0
        ∧ (∀ point ∈ [((20 : ℝ), (-13 : ℝ)), (60, -3), (100, -1.2), (1000, 0), (2000, 2.5), (5000, 3.8), (10000, 4)],
            0 < response point.1 ∧ |decibels point.1 - point.2| ≤ 1 / 20)
        ∧ MonotoneOn response (Set.Icc 0 10000)
        ∧ ∀ f ∈ Set.Icc (10000 : ℝ) 24000, 0 < response f ∧ |decibels f - 4| ≤ 1 / 2

end Sys2Proof.Config

namespace Sys2Proof.Weighting
open Sys2Proof.Config

/-! ## A filter of which it holds: a pass-all less binomial low-passes, of response 1.5794 less a sum of powers of cos² -/

/-- The middle of the filter. -/
def mid : Nat := 524288

/-- The row of binomial weights (1/4)^n C(2n, ·), centred on `mid`. -/
def bell (n k : Nat) : Rat := if mid - n ≤ k then ((2 * n).choose (k - (mid - n)) : Nat) / 4 ^ n else 0

/-- A weighted sum of such rows. -/
def mix : List (Nat × Rat) → Nat → Rat
  | [], _ => 0
  | t :: rest, k => t.2 * bell t.1 k + mix rest k

/-- The polynomial that the sum's response is. -/
def mixAt (c : ℝ) : List (Nat × Rat) → ℝ
  | [] => 0
  | t :: rest => t.2 * c ^ t.1 + mixAt c rest

/-- A row's sum at z. -/
theorem bell_hasSum (n : ℕ) (z : ℂ) :
    HasSum (fun k => ((bell n k : ℝ) : ℂ) * z ^ k) (z ^ (mid - n) * ((1 + z) ^ 2 / 4) ^ n) := by
  have inj : Function.Injective (fun j : ℕ => j + (mid - n)) := add_left_injective _
  refine (inj.hasSum_iff ?_).1 ?_
  · intro k hk
    have : ¬ mid - n ≤ k := fun h => hk ⟨k - (mid - n), Nat.sub_add_cancel h⟩
    simp [bell, this]
  · have total : z ^ (mid - n) * ((1 + z) ^ 2 / 4) ^ n =
        ∑ j ∈ Finset.range (2 * n + 1), ((((2 * n).choose j : ℚ) / 4 ^ n : ℚ) : ℂ) * z ^ (j + (mid - n)) := by
      rw [div_pow, ← pow_mul, add_comm 1 z, add_pow, Finset.sum_div, Finset.mul_sum]
      refine Finset.sum_congr rfl fun j _ => ?_
      push_cast
      rw [one_pow, pow_add]
      ring
    rw [total]
    have rest : ∀ j ∉ Finset.range (2 * n + 1),
        ((((2 * n).choose j : ℚ) / 4 ^ n : ℚ) : ℂ) * z ^ (j + (mid - n)) = 0 := by
      intro j hj
      have : (2 * n).choose j = 0 := Nat.choose_eq_zero_of_lt (by simpa [Nat.lt_succ_iff] using hj)
      simp [this]
    have shifted : (fun k => ((bell n k : ℝ) : ℂ) * z ^ k) ∘ (fun j : ℕ => j + (mid - n)) =
        fun j => ((((2 * n).choose j : ℚ) / 4 ^ n : ℚ) : ℂ) * z ^ (j + (mid - n)) := by
      funext j
      have : mid - n ≤ j + (mid - n) := Nat.le_add_left _ _
      simp only [Function.comp_apply, bell, if_pos this, Nat.add_sub_cancel]
      push_cast
      rfl
    rw [shifted]
    exact hasSum_sum_of_ne_finset_zero rest

theorem bell_nonneg (n k : ℕ) : 0 ≤ bell n k := by unfold bell; split <;> positivity

theorem bell_hasSum_one (n : ℕ) : HasSum (fun k => (bell n k : ℝ)) 1 := by
  have h := bell_hasSum n 1
  simp only [one_pow, mul_one] at h
  rw [show 1 * ((1 + 1 : ℂ) ^ 2 / 4) ^ n = ((1 : ℝ) : ℂ) by norm_num] at h
  exact Complex.hasSum_ofReal.1 h

/-- The sum's value at z, where (1 + z)²/4 is z times c. -/
theorem mix_hasSum (z : ℂ) (c : ℝ) (hz : (1 + z) ^ 2 / 4 = z * c) :
    ∀ ts : List (ℕ × ℚ), (∀ t ∈ ts, t.1 ≤ mid) →
      HasSum (fun k => ((mix ts k : ℝ) : ℂ) * z ^ k) (z ^ mid * (mixAt c ts : ℝ)) := by
  intro ts
  induction ts with
  | nil => intro _; simp [mix, mixAt]
  | cons t ts ih =>
    intro h
    have ht := h t (by simp)
    have h1 := (bell_hasSum t.1 z).mul_left ((t.2 : ℝ) : ℂ)
    have h2 := h1.add (ih fun s hs => h s (by simp [hs]))
    have terms : (fun k => ((mix (t :: ts) k : ℝ) : ℂ) * z ^ k) =
        fun k => ((t.2 : ℝ) : ℂ) * (((bell t.1 k : ℝ) : ℂ) * z ^ k) + ((mix ts k : ℝ) : ℂ) * z ^ k := by
      funext k; simp only [mix]; push_cast; ring
    have total : z ^ mid * ((mixAt c (t :: ts) : ℝ) : ℂ) =
        ((t.2 : ℝ) : ℂ) * (z ^ (mid - t.1) * ((1 + z) ^ 2 / 4) ^ t.1) + z ^ mid * ((mixAt c ts : ℝ) : ℂ) := by
      have : z ^ mid = z ^ (mid - t.1) * z ^ t.1 := by rw [← pow_add, Nat.sub_add_cancel ht]
      rw [hz, mul_pow]
      simp only [mixAt]
      push_cast
      rw [this]
      ring
    rw [terms, total]
    exact h2

/-- The magnitudes of a weighted sum are at most the sum of the magnitudes. -/
theorem mix_abs_le (ts : List (ℕ × ℚ)) (k : ℕ) : |mix ts k| ≤ mix (ts.map fun t => (t.1, |t.2|)) k := by
  induction ts with
  | nil => simp [mix]
  | cons t ts ih =>
    simp only [mix, List.map_cons]
    refine (abs_add_le _ _).trans (add_le_add ?_ ih)
    rw [abs_mul, abs_of_nonneg (bell_nonneg _ _)]

theorem mix_sum (ts : List (ℕ × ℚ)) : HasSum (fun k => (mix ts k : ℝ)) (((ts.map (·.2)).sum : ℚ) : ℝ) := by
  induction ts with
  | nil => simp [mix]
  | cons t ts ih =>
    have h1 := ((bell_hasSum_one t.1).mul_left (t.2 : ℝ)).add ih
    have terms : (fun k => (mix (t :: ts) k : ℝ)) = fun k => (t.2 : ℝ) * (bell t.1 k : ℝ) + (mix ts k : ℝ) := by
      funext k; simp only [mix]; push_cast; ring
    have total : ((((t :: ts).map (·.2)).sum : ℚ) : ℝ) = (t.2 : ℝ) * 1 + (((ts.map (·.2)).sum : ℚ) : ℝ) := by simp
    rw [terms, total]
    exact h1

/-- The rows and weights of the filter. -/
def rows : List (Nat × Rat) :=
  [(0, 15794 / 10000), (8, -443 / 10000), (32, -1812 / 10000), (64, -920 / 10000), (128, -7412 / 10000), (256, 3706 / 10000),
   (65536, -3871 / 10000), (131072, -2989 / 10000), (524288, -2053 / 10000)]

theorem rows_short : ∀ t ∈ rows, t.1 ≤ mid := by decide

theorem mixAt_rows (c : ℝ) : mixAt c rows = 1.5794 - 0.0443 * c ^ 8 - 0.1812 * c ^ 32 - 0.092 * c ^ 64
    - 0.3706 * (1 - (1 - c ^ 128) ^ 2) - 0.3871 * c ^ 65536 - 0.2989 * c ^ 131072 - 0.2053 * c ^ 524288 := by
  have sq : c ^ 256 = (c ^ 128) ^ 2 := by rw [← pow_mul]
  simp only [mixAt, rows, pow_zero, sq]
  generalize c ^ 128 = a, c ^ 65536 = b, c ^ 131072 = d, c ^ 524288 = e
  push_cast
  ring

/-- The polynomial falls as c rises. -/
theorem mixAt_antitone {c d : ℝ} (h0 : 0 ≤ c) (h : c ≤ d) (h1 : d ≤ 1) : mixAt d rows ≤ mixAt c rows := by
  have up (n : ℕ) : c ^ n ≤ d ^ n := pow_le_pow_left₀ h0 h n
  have sq : (1 - d ^ 128) ^ 2 ≤ (1 - c ^ 128) ^ 2 :=
    pow_le_pow_left₀ (sub_nonneg.2 (pow_le_one₀ (h0.trans h) h1)) (sub_le_sub_left (up 128) 1) 2
  rw [mixAt_rows, mixAt_rows]
  linarith only [up 8, up 32, up 64, sq, up 65536, up 131072, up 524288]

theorem mixAt_one : mixAt 1 rows = 0 := by rw [mixAt_rows]; norm_num
theorem mixAt_zero : mixAt 0 rows = 1.5794 := by rw [mixAt_rows]; norm_num

/-- The response is the polynomial at the squared cosine of half the angle. -/
theorem response_eq (f : ℝ) :
    ‖∑' k : ℕ, ((mix rows k : ℝ) : ℂ) * Complex.exp (-(2 * Real.pi * f * k / 48000) * Complex.I)‖ =
      mixAt (Real.cos (Real.pi * f / 48000) ^ 2) rows := by
  set x : ℝ := Real.pi * f / 48000 with hx
  set w : ℂ := Complex.exp (-x * Complex.I) with hw
  have each (k : ℕ) : Complex.exp (-(2 * Real.pi * f * k / 48000) * Complex.I) = (w ^ 2) ^ k := by
    rw [hw, ← pow_mul, ← Complex.exp_nat_mul]
    congr 1
    rw [hx]
    push_cast
    ring
  have norm_w : ‖w‖ = 1 := by
    rw [hw, show -(x : ℂ) * Complex.I = ((-x : ℝ) : ℂ) * Complex.I by push_cast; ring]
    exact Complex.norm_exp_ofReal_mul_I _
  have half : 1 + w ^ 2 = 2 * w * (Real.cos x : ℂ) := by
    have inv : w * Complex.exp (x * Complex.I) = 1 := by rw [hw, ← Complex.exp_add]; simp
    have cos2 : 2 * (Real.cos x : ℂ) = Complex.exp (x * Complex.I) + w := by
      rw [Complex.ofReal_cos, Complex.two_cos]
    calc 1 + w ^ 2 = w * Complex.exp (x * Complex.I) + w ^ 2 := by rw [inv]
      _ = w * (2 * (Real.cos x : ℂ)) := by rw [cos2]; ring
      _ = _ := by ring
  have square : (1 + w ^ 2) ^ 2 / 4 = w ^ 2 * ((Real.cos x ^ 2 : ℝ) : ℂ) := by rw [half]; push_cast; ring
  simp only [each]
  rw [(mix_hasSum (w ^ 2) _ square rows rows_short).tsum_eq, norm_mul, norm_pow, norm_pow, norm_w, one_pow, one_pow, one_mul,
    Complex.norm_real, Real.norm_eq_abs]
  refine abs_of_nonneg (mixAt_one ▸ mixAt_antitone (sq_nonneg _) ?_ le_rfl)
  exact Real.cos_sq_le_one x

/-! ## Powers by repeated squaring, in units of 10^-15 -/

/-- What one unit stands for is 1 / unit. -/
def unit : Nat := 10 ^ 15

/-- The power of exponent 2^j, rounded down at each squaring. -/
def squaresDown : Nat → Nat → Nat
  | 0, x => x
  | j + 1, x => squaresDown j (x * x / unit)

/-- The power of exponent 2^j, rounded up at each squaring. -/
def squaresUp : Nat → Nat → Nat
  | 0, x => x
  | j + 1, x => squaresUp j (x * x / unit + 1)

theorem squaresDown_le (j : ℕ) : ∀ (x : ℕ) (c : ℝ), (x : ℝ) / unit ≤ c → (squaresDown j x : ℝ) / unit ≤ c ^ 2 ^ j := by
  induction j with
  | zero => intro x c h; simpa [squaresDown] using h
  | succ j ih =>
    intro x c h
    have pos : (0 : ℝ) < unit := by norm_num [unit]
    have step : ((x * x / unit : ℕ) : ℝ) / unit ≤ c ^ 2 := by
      have h1 : ((x * x / unit : ℕ) : ℝ) ≤ (x * x : ℕ) / unit := Nat.cast_div_le
      have h2 : ((x : ℝ) / unit) ^ 2 ≤ c ^ 2 := pow_le_pow_left₀ (by positivity) h 2
      refine le_trans ?_ h2
      rw [div_le_iff₀ pos]
      refine h1.trans (le_of_eq ?_)
      push_cast
      field_simp
    have := ih _ _ step
    rwa [← pow_mul, ← pow_succ'] at this

theorem le_squaresUp (j : ℕ) : ∀ (x : ℕ) (c : ℝ), 0 ≤ c → c ≤ (x : ℝ) / unit → c ^ 2 ^ j ≤ (squaresUp j x : ℝ) / unit := by
  induction j with
  | zero => intro x c _ h; simpa [squaresUp] using h
  | succ j ih =>
    intro x c h0 h
    have pos : (0 : ℝ) < unit := by norm_num [unit]
    have step : c ^ 2 ≤ ((x * x / unit + 1 : ℕ) : ℝ) / unit := by
      have h1 : ((x * x : ℕ) : ℝ) / unit ≤ ((x * x / unit + 1 : ℕ) : ℝ) := by
        rw [div_le_iff₀ pos]
        have := Nat.lt_div_mul_add (a := x * x) (b := unit) (by norm_num [unit])
        have e : (x * x / unit + 1) * unit = x * x / unit * unit + unit := by ring
        rw [← e] at this
        exact_mod_cast this.le
      have h2 : c ^ 2 ≤ ((x : ℝ) / unit) ^ 2 := pow_le_pow_left₀ h0 h 2
      refine h2.trans ?_
      rw [le_div_iff₀ pos]
      refine le_trans (le_of_eq ?_) h1
      push_cast
      field_simp
    have := ih _ _ (by positivity) step
    rwa [← pow_mul, ← pow_succ'] at this

/-- The polynomial, from the powers of its argument that `power` gives. -/
def valueBy (power : Nat → Nat) : Rat :=
  let p (j : Nat) : Rat := power j / unit
  15794 / 10000 - 443 / 10000 * p 3 - 1812 / 10000 * p 5 - 920 / 10000 * p 6 - 3706 / 10000 * (1 - (1 - p 7) ^ 2)
    - 3871 / 10000 * p 16 - 2989 / 10000 * p 17 - 2053 / 10000 * p 19

/-- The polynomial is at most its value from powers rounded down. -/
theorem mixAt_le {c : ℝ} {x : ℕ} (h1 : c ≤ 1) (h0 : 0 ≤ c) (h : (x : ℝ) / unit ≤ c) :
    mixAt c rows ≤ (valueBy (squaresDown · x) : ℝ) := by
  have p (j : ℕ) : (squaresDown j x : ℝ) / unit ≤ c ^ 2 ^ j := squaresDown_le j x c h
  have sq : (1 - c ^ 2 ^ 7) ^ 2 ≤ (1 - (squaresDown 7 x : ℝ) / unit) ^ 2 :=
    pow_le_pow_left₀ (sub_nonneg.2 (pow_le_one₀ h0 h1)) (sub_le_sub_left (p 7) 1) 2
  rw [mixAt_rows]
  have e3 := p 3; have e5 := p 5; have e6 := p 6; have e16 := p 16; have e17 := p 17; have e19 := p 19
  norm_num only at e3 e5 e6 e16 e17 e19 sq
  unfold valueBy
  push_cast
  linarith only [e3, e5, e6, e16, e17, e19, sq]

/-- The polynomial is at least its value from powers rounded up. -/
theorem le_mixAt {c : ℝ} {x : ℕ} (h0 : 0 ≤ c) (h : c ≤ (x : ℝ) / unit) (hx : squaresUp 7 x ≤ unit) :
    (valueBy (squaresUp · x) : ℝ) ≤ mixAt c rows := by
  have p (j : ℕ) : c ^ 2 ^ j ≤ (squaresUp j x : ℝ) / unit := le_squaresUp j x c h0 h
  have small : (squaresUp 7 x : ℝ) / unit ≤ 1 := by
    rw [div_le_one (by norm_num [unit])]
    exact_mod_cast hx
  have sq : (1 - (squaresUp 7 x : ℝ) / unit) ^ 2 ≤ (1 - c ^ 2 ^ 7) ^ 2 :=
    pow_le_pow_left₀ (sub_nonneg.2 small) (sub_le_sub_left (p 7) 1) 2
  rw [mixAt_rows]
  have e3 := p 3; have e5 := p 5; have e6 := p 6; have e16 := p 16; have e17 := p 17; have e19 := p 19
  norm_num only at e3 e5 e6 e16 e17 e19 sq
  unfold valueBy
  push_cast
  linarith only [e3, e5, e6, e16, e17, e19, sq]

theorem logb_pow_400 (y : ℝ) : 20 * Real.logb 10 y = Real.logb 10 (y ^ 400) / 20 := by
  rw [Real.logb_pow]
  push_cast
  ring

/-- A point of the table: the response lies within 1/20 dB of e/20 dB. -/
theorem point {c : ℝ} {lo hi : ℕ} {e : ℤ} (h0 : 0 ≤ c) (h1 : c ≤ 1) (hlo : (lo : ℝ) / unit ≤ c) (hhi : c ≤ (hi : ℝ) / unit)
    (small : squaresUp 7 hi ≤ unit) (pos : 0 < valueBy (squaresUp · hi))
    (below : (10 : ℚ) ^ (e - 1) ≤ valueBy (squaresUp · hi) ^ 400) (above : valueBy (squaresDown · lo) ^ 400 ≤ (10 : ℚ) ^ (e + 1)) :
    0 < mixAt c rows ∧ |20 * Real.logb 10 (mixAt c rows) - e / 20| ≤ 1 / 20 := by
  have upper := mixAt_le h1 h0 hlo
  have lower := le_mixAt h0 hhi small
  have pos' : (0 : ℝ) < (valueBy (squaresUp · hi) : ℝ) := by exact_mod_cast pos
  have hp : 0 < mixAt c rows := pos'.trans_le lower
  refine ⟨hp, ?_⟩
  have b : (10 : ℝ) ^ (e - 1) ≤ mixAt c rows ^ 400 :=
    le_trans (by have := (Rat.cast_le (K := ℝ)).2 below; push_cast at this; exact this) (pow_le_pow_left₀ pos'.le lower 400)
  have a : mixAt c rows ^ 400 ≤ (10 : ℝ) ^ (e + 1) :=
    le_trans (pow_le_pow_left₀ hp.le upper 400) (by have := (Rat.cast_le (K := ℝ)).2 above; push_cast at this; exact this)
  have ten : (1 : ℝ) < 10 := by norm_num
  have lb := Real.logb_le_logb_of_le ten (by positivity) b
  have la := Real.logb_le_logb_of_le ten (by positivity) a
  have tens (m : ℤ) : Real.logb 10 ((10 : ℝ) ^ m) = m := by
    rw [Real.logb, Real.log_zpow, mul_div_assoc, div_self (Real.log_pos ten).ne', mul_one]
  rw [tens] at lb la
  push_cast at lb la
  rw [logb_pow_400, abs_le]
  constructor <;> linarith

/-! ## The squared cosines at the table's frequencies -/

/-- The squared cosine of a small angle. -/
theorem cos_sq_between {x a b : ℝ} (ha : 0 < a) (hx : a ≤ x) (hb : x ≤ b) :
    1 - b ^ 2 ≤ Real.cos x ^ 2 ∧ Real.cos x ^ 2 ≤ 1 - (a - b ^ 3 / 6) ^ 2 ∨ a < b ^ 3 / 6 := by
  by_cases h : a < b ^ 3 / 6
  · exact .inr h
  refine .inl ?_
  have hx0 : 0 < x := ha.trans_le hx
  have lower := Real.sin_gt_sub_cube hx0
  have upper := Real.sin_lt hx0
  have cube : x ^ 3 ≤ b ^ 3 := pow_le_pow_left₀ hx0.le hb 3
  have s0 : 0 ≤ a - b ^ 3 / 6 := by linarith
  have s1 : a - b ^ 3 / 6 ≤ Real.sin x := by linarith
  have e := Real.sin_sq_add_cos_sq x
  have u : Real.sin x ^ 2 ≤ b ^ 2 := pow_le_pow_left₀ (s0.trans s1) (upper.le.trans hb) 2
  have l : (a - b ^ 3 / 6) ^ 2 ≤ Real.sin x ^ 2 := pow_le_pow_left₀ s0 s1 2
  constructor <;> linarith

theorem between_of_sq {y lo hi : ℝ} (hy : 0 ≤ y) (h0 : 0 ≤ lo) (h1 : 0 ≤ hi) (hl : lo ^ 2 ≤ y ^ 2) (hh : y ^ 2 ≤ hi ^ 2) :
    lo ≤ y ∧ y ≤ hi := ⟨(sq_le_sq₀ h0 hy).1 hl, (sq_le_sq₀ hy h1).1 hh⟩

theorem cos_nonneg_of {x : ℝ} (h0 : 0 ≤ x) (h : x ≤ Real.pi / 2) : 0 ≤ Real.cos x :=
  Real.cos_nonneg_of_mem_Icc ⟨by linarith [Real.pi_pos], h⟩

/-- The exact cosines, to 10^-15. -/
theorem exact_cosines :
    (0.965925826289067 ≤ Real.cos (Real.pi / 12) ∧ Real.cos (Real.pi / 12) ≤ 0.96592582628907)
    ∧ (0.99144486137381 ≤ Real.cos (Real.pi / 24) ∧ Real.cos (Real.pi / 24) ≤ 0.991444861373812)
    ∧ (0.258819045102519 ≤ Real.cos (5 * Real.pi / 12) ∧ Real.cos (5 * Real.pi / 12) ≤ 0.258819045102522)
    ∧ (0.793353340291234 ≤ Real.cos (5 * Real.pi / 24) ∧ Real.cos (5 * Real.pi / 24) ≤ 0.793353340291237) := by
  have pi := Real.pi_pos
  have s0 : 0 ≤ √3 := Real.sqrt_nonneg 3
  have root : √3 ^ 2 = 3 := Real.sq_sqrt (by norm_num)
  obtain ⟨r1, r2⟩ : 1.732050807568877 ≤ √3 ∧ √3 ≤ 1.732050807568878 :=
    between_of_sq s0 (by norm_num) (by norm_num) (by rw [root]; norm_num) (by rw [root]; norm_num)
  have a : 0.965925826289067 ≤ Real.cos (Real.pi / 12) ∧ Real.cos (Real.pi / 12) ≤ 0.96592582628907 := by
    have e : Real.cos (Real.pi / 12) ^ 2 = 1 / 2 + √3 / 2 / 2 := by
      rw [Real.cos_sq, show 2 * (Real.pi / 12) = Real.pi / 6 by ring, Real.cos_pi_div_six]
    exact between_of_sq (cos_nonneg_of (by linarith) (by linarith)) (by norm_num) (by norm_num) (by rw [e]; norm_num; linarith)
      (by rw [e]; norm_num; linarith)
  have c : 0.258819045102519 ≤ Real.cos (5 * Real.pi / 12) ∧ Real.cos (5 * Real.pi / 12) ≤ 0.258819045102522 := by
    have e : Real.cos (5 * Real.pi / 12) ^ 2 = 1 / 2 - √3 / 2 / 2 := by
      rw [Real.cos_sq, show 2 * (5 * Real.pi / 12) = Real.pi - Real.pi / 6 by ring, Real.cos_pi_sub, Real.cos_pi_div_six]
      ring
    exact between_of_sq (cos_nonneg_of (by linarith) (by linarith)) (by norm_num) (by norm_num) (by rw [e]; norm_num; linarith)
      (by rw [e]; norm_num; linarith)
  refine ⟨a, ?_, c, ?_⟩
  · have e : Real.cos (Real.pi / 24) ^ 2 = 1 / 2 + Real.cos (Real.pi / 12) / 2 := by
      rw [Real.cos_sq, show 2 * (Real.pi / 24) = Real.pi / 12 by ring]
    exact between_of_sq (cos_nonneg_of (by linarith) (by linarith)) (by norm_num) (by norm_num) (by rw [e]; norm_num; linarith)
      (by rw [e]; norm_num; linarith)
  · have e : Real.cos (5 * Real.pi / 24) ^ 2 = 1 / 2 + Real.cos (5 * Real.pi / 12) / 2 := by
      rw [Real.cos_sq, show 2 * (5 * Real.pi / 24) = 5 * Real.pi / 12 by ring]
    exact between_of_sq (cos_nonneg_of (by linarith) (by linarith)) (by norm_num) (by norm_num) (by rw [e]; norm_num; linarith)
      (by rw [e]; norm_num; linarith)

theorem response_20 : let y := mixAt (Real.cos (Real.pi * 20 / 48000) ^ 2) rows
    0 < y ∧ |20 * Real.logb 10 y - (-260 : ℤ) / 20| ≤ 1 / 20 := by
  have l := Real.pi_gt_d20
  have u := Real.pi_lt_d20
  obtain ⟨h1, h2⟩ := (cos_sq_between (x := Real.pi * 20 / 48000) (a := 3.14159265358979323846 * 20 / 48000)
    (b := 3.14159265358979323847 * 20 / 48000) (by norm_num) (by linarith) (by linarith)).resolve_right (by norm_num)
  refine point (lo := 999998286527012) (hi := 999998286527994) (sq_nonneg _) (Real.cos_sq_le_one _) ?_ ?_ (by decide +kernel) (by decide +kernel)
    (by decide +kernel) (by decide +kernel)
  · norm_num [unit] at h1 h2 ⊢; linarith
  · norm_num [unit] at h1 h2 ⊢; linarith

theorem response_60 : let y := mixAt (Real.cos (Real.pi * 60 / 48000) ^ 2) rows
    0 < y ∧ |20 * Real.logb 10 y - (-60 : ℤ) / 20| ≤ 1 / 20 := by
  have l := Real.pi_gt_d20
  have u := Real.pi_lt_d20
  obtain ⟨h1, h2⟩ := (cos_sq_between (x := Real.pi * 60 / 48000) (a := 3.14159265358979323846 * 60 / 48000)
    (b := 3.14159265358979323847 * 60 / 48000) (by norm_num) (by linarith) (by linarith)).resolve_right (by norm_num)
  refine point (lo := 999984578743122) (hi := 999984578822396) (sq_nonneg _) (Real.cos_sq_le_one _) ?_ ?_ (by decide +kernel) (by decide +kernel)
    (by decide +kernel) (by decide +kernel)
  · norm_num [unit] at h1 h2 ⊢; linarith
  · norm_num [unit] at h1 h2 ⊢; linarith

theorem response_100 : let y := mixAt (Real.cos (Real.pi * 100 / 48000) ^ 2) rows
    0 < y ∧ |20 * Real.logb 10 y - (-24 : ℤ) / 20| ≤ 1 / 20 := by
  have l := Real.pi_gt_d20
  have u := Real.pi_lt_d20
  obtain ⟨h1, h2⟩ := (cos_sq_between (x := Real.pi * 100 / 48000) (a := 3.14159265358979323846 * 100 / 48000)
    (b := 3.14159265358979323847 * 100 / 48000) (by norm_num) (by linarith) (by linarith)).resolve_right (by norm_num)
  refine point (lo := 999957163175341) (hi := 999957163787006) (sq_nonneg _) (Real.cos_sq_le_one _) ?_ ?_ (by decide +kernel) (by decide +kernel)
    (by decide +kernel) (by decide +kernel)
  · norm_num [unit] at h1 h2 ⊢; linarith
  · norm_num [unit] at h1 h2 ⊢; linarith

theorem response_1000 : let y := mixAt (Real.cos (Real.pi * 1000 / 48000) ^ 2) rows
    0 < y ∧ |20 * Real.logb 10 y - (0 : ℤ) / 20| ≤ 1 / 20 := by
  obtain ⟨l, u⟩ := exact_cosines.2.1
  have e : Real.cos (Real.pi * 1000 / 48000) ^ 2 = 1 / 2 + Real.cos (Real.pi / 24) / 2 := by
    rw [Real.cos_sq, show 2 * (Real.pi * 1000 / 48000) = Real.pi / 24 by ring]
  have h1 : 1 / 2 + Real.cos (Real.pi / 24) / 2 ≤ Real.cos (Real.pi * 1000 / 48000) ^ 2 := e.ge
  have h2 := e.le
  refine point (lo := 995722430686903) (hi := 995722430686908) (sq_nonneg _) (Real.cos_sq_le_one _) ?_ ?_ (by decide +kernel) (by decide +kernel)
    (by decide +kernel) (by decide +kernel)
  · norm_num [unit] at h1 h2 ⊢; linarith
  · norm_num [unit] at h1 h2 ⊢; linarith

theorem response_2000 : let y := mixAt (Real.cos (Real.pi * 2000 / 48000) ^ 2) rows
    0 < y ∧ |20 * Real.logb 10 y - (50 : ℤ) / 20| ≤ 1 / 20 := by
  obtain ⟨l, u⟩ := exact_cosines.1
  have e : Real.cos (Real.pi * 2000 / 48000) ^ 2 = 1 / 2 + Real.cos (Real.pi / 12) / 2 := by
    rw [Real.cos_sq, show 2 * (Real.pi * 2000 / 48000) = Real.pi / 12 by ring]
  have h1 : 1 / 2 + Real.cos (Real.pi / 12) / 2 ≤ Real.cos (Real.pi * 2000 / 48000) ^ 2 := e.ge
  have h2 := e.le
  refine point (lo := 982962913144532) (hi := 982962913144537) (sq_nonneg _) (Real.cos_sq_le_one _) ?_ ?_ (by decide +kernel) (by decide +kernel)
    (by decide +kernel) (by decide +kernel)
  · norm_num [unit] at h1 h2 ⊢; linarith
  · norm_num [unit] at h1 h2 ⊢; linarith

theorem response_5000 : let y := mixAt (Real.cos (Real.pi * 5000 / 48000) ^ 2) rows
    0 < y ∧ |20 * Real.logb 10 y - (76 : ℤ) / 20| ≤ 1 / 20 := by
  obtain ⟨l, u⟩ := exact_cosines.2.2.2
  have e : Real.cos (Real.pi * 5000 / 48000) ^ 2 = 1 / 2 + Real.cos (5 * Real.pi / 24) / 2 := by
    rw [Real.cos_sq, show 2 * (Real.pi * 5000 / 48000) = 5 * Real.pi / 24 by ring]
  have h1 : 1 / 2 + Real.cos (5 * Real.pi / 24) / 2 ≤ Real.cos (Real.pi * 5000 / 48000) ^ 2 := e.ge
  have h2 := e.le
  refine point (lo := 896676670145615) (hi := 896676670145620) (sq_nonneg _) (Real.cos_sq_le_one _) ?_ ?_ (by decide +kernel) (by decide +kernel)
    (by decide +kernel) (by decide +kernel)
  · norm_num [unit] at h1 h2 ⊢; linarith
  · norm_num [unit] at h1 h2 ⊢; linarith

theorem response_10000 : let y := mixAt (Real.cos (Real.pi * 10000 / 48000) ^ 2) rows
    0 < y ∧ |20 * Real.logb 10 y - (80 : ℤ) / 20| ≤ 1 / 20 := by
  obtain ⟨l, u⟩ := exact_cosines.2.2.1
  have e : Real.cos (Real.pi * 10000 / 48000) ^ 2 = 1 / 2 + Real.cos (5 * Real.pi / 12) / 2 := by
    rw [Real.cos_sq, show 2 * (Real.pi * 10000 / 48000) = 5 * Real.pi / 12 by ring]
  have h1 : 1 / 2 + Real.cos (5 * Real.pi / 12) / 2 ≤ Real.cos (Real.pi * 10000 / 48000) ^ 2 := e.ge
  have h2 := e.le
  refine point (lo := 629409522551258) (hi := 629409522551263) (sq_nonneg _) (Real.cos_sq_le_one _) ?_ ?_ (by decide +kernel) (by decide +kernel)
    (by decide +kernel) (by decide +kernel)
  · norm_num [unit] at h1 h2 ⊢; linarith
  · norm_num [unit] at h1 h2 ⊢; linarith

/-- The filter satisfies the law. -/
theorem mix_rows_law : WeightingLaw (mix rows) := by
  have sum := mix_sum (rows.map fun t => (t.1, |t.2|))
  have le (k : ℕ) : |(mix rows k : ℝ)| ≤ (mix (rows.map fun t => (t.1, |t.2|)) k : ℝ) := by exact_mod_cast mix_abs_le rows k
  have summable : Summable fun k => |(mix rows k : ℝ)| := .of_nonneg_of_le (fun _ => abs_nonneg _) le sum.summable
  refine ⟨summable, ?_, fun response decibels hr hd => ?_⟩
  · refine lt_of_le_of_lt ((summable.tsum_le_tsum le sum.summable).trans_eq sum.tsum_eq) ?_
    have total : ((rows.map fun t => (t.1, |t.2|)).map (·.2)).sum = 39 / 10 := by decide +kernel
    rw [total]
    norm_num
  have value (f : ℝ) : response f = mixAt (Real.cos (Real.pi * f / 48000) ^ 2) rows := by rw [hr, response_eq]
  have square (f : ℝ) : 0 ≤ Real.cos (Real.pi * f / 48000) ^ 2 ∧ Real.cos (Real.pi * f / 48000) ^ 2 ≤ 1 :=
    ⟨sq_nonneg _, Real.cos_sq_le_one _⟩
  have pi := Real.pi_pos
  have rising {f g : ℝ} (hf : 0 ≤ f) (h : f ≤ g) (hg : g ≤ 24000) : response f ≤ response g := by
    rw [value, value]
    refine mixAt_antitone (square g).1 ?_ (square f).2
    have order : Real.pi * f / 48000 ≤ Real.pi * g / 48000 := by gcongr
    have start : 0 ≤ Real.pi * f / 48000 := by positivity
    have stop : Real.pi * g / 48000 ≤ Real.pi / 2 := by
      rw [div_le_div_iff₀ (by norm_num) (by norm_num)]
      nlinarith
    exact pow_le_pow_left₀ (cos_nonneg_of (start.trans order) stop)
      (Real.cos_le_cos_of_nonneg_of_le_pi start (by linarith) order) 2
  have at_ {f d : ℝ} {e : ℤ} (h : let y := mixAt (Real.cos (Real.pi * f / 48000) ^ 2) rows
      0 < y ∧ |20 * Real.logb 10 y - e / 20| ≤ 1 / 20) (he : (e : ℝ) / 20 = d) : 0 < response f ∧ |decibels f - d| ≤ 1 / 20 := by
    rw [hd, value, ← he]
    exact h
  refine ⟨?_, ?_, ?_, ?_⟩
  · rw [value]
    simpa using mixAt_one
  · simp only [List.forall_mem_cons, List.not_mem_nil, false_implies, implies_true, and_true]
    exact ⟨at_ response_20 (by norm_num), at_ response_60 (by norm_num), at_ response_100 (by norm_num),
      at_ response_1000 (by norm_num), at_ response_2000 (by norm_num), at_ response_5000 (by norm_num),
      at_ response_10000 (by norm_num)⟩
  · exact fun f hf g hg h => rising hf.1 h (hg.2.trans (by norm_num))
  · intro f hf
    obtain ⟨pos, low⟩ : 0 < response 10000 ∧ |decibels 10000 - 4| ≤ 1 / 20 := at_ response_10000 (by norm_num)
    have lower := rising (by norm_num) hf.1 hf.2
    have upper : response f ≤ 1.5794 := by
      rw [value, ← mixAt_zero]
      exact mixAt_antitone le_rfl (square f).1 (square f).2
    have hp := pos.trans_le lower
    have ten : (1 : ℝ) < 10 := by norm_num
    have l := Real.logb_le_logb_of_le ten pos lower
    have u : 20 * Real.logb 10 (response f) ≤ 4.5 := by
      have a : response f ^ 40 ≤ (10 : ℝ) ^ 9 := (pow_le_pow_left₀ hp.le upper 40).trans (by norm_num)
      have b := Real.logb_le_logb_of_le ten (by positivity) a
      rw [Real.logb_pow, Real.logb_pow, Real.logb_self_eq_one ten] at b
      norm_num at b ⊢
      linarith
    refine ⟨hp, ?_⟩
    rw [hd] at low
    rw [abs_le] at low
    rw [hd, abs_le]
    constructor <;> linarith [low.1]

end Sys2Proof.Weighting
end

