-- ==== Sys2Proof/Config.lean ====
section
/-! DEFINITION. Config.lean: the part's fixed numbers (spec 0.7), and the FREE VALUES: what the spec gives the part without
stating the value. A free value is an opaque constant; nothing can be proved of it beyond its type. -/
namespace Sys2Proof.Config

/-- Tap budget, in channel-taps (R35). -/
def tapBudget : Nat := 2048
/-- A gate and a sub-block last 4800 output frames (0.6.1). -/
def gateFrames : Nat := 4800
/-- One phase of a lane fade, of a jump and of the release fade, and a gain ramp, lasts 480 output frames. -/
def fadeFrames : Nat := 480
/-- Elastic FIFO capacity (2.2). -/
def fifoCapacity : Nat := 256
/-- The FIFO's centre, to which a slip returns it (R30). -/
def fifoCentre : Nat := 128
/-- Smallest and largest programme delay, in output frames (0.7). -/
def minDelay : Nat := 48
def maxDelay : Nat := 96000
/-- Frames in a delay page, and the most pages a channel can hold (0.7). -/
def pageFrames : Nat := 1024
def maxPages : Nat := 94
/-- Bounds of the link's queues (0.7). -/
def requestPlaces : Nat := 8
def noticePlaces : Nat := 64
/-- Frame clock values and stamps run modulo 2^48 (0.6.1). -/
def clockModulus : Nat := 2 ^ 48
/-- Sub-block counts, block indexes and store counts run modulo 2^32. -/
def countModulus : Nat := 2 ^ 32
/-- The ratio 1.0 (0.6.2). -/
def unitRatio : Nat := 2 ^ 24
/-- The gain factor 1.0 (R141). -/
def unitFactor : Nat := 2 ^ 20

/-- FREE VALUE (log 10). The weighting filter of R104 is linear and time-invariant with fixed coefficients that the spec does not
state: this is its response to a single unit sample, some response of which what R104 states holds. (The argument only says that
there is one.) -/
opaque weighting [Inhabited {h : Nat → Rat // WeightingLaw h}] : {h : Nat → Rat // WeightingLaw h}

/-- The weighting filter's response, k frames later, to a single unit sample (R104). -/
def weightTap (k : Nat) : Rat := (@weighting ⟨⟨Weighting.mix Weighting.rows, Weighting.mix_rows_law⟩⟩).val k

theorem weightTap_law : WeightingLaw weightTap :=
  (@weighting ⟨⟨Weighting.mix Weighting.rows, Weighting.mix_rows_law⟩⟩).property

/-- FREE VALUE (log 11). The FULL (`true`) or SHORT (`false`) interpolation filter of R28, whose coefficients the spec does not
state: one channel's output from its samples behind the read position (newest first), those ahead of it, and the read phase. -/
opaque interpolate : Bool → List Int → List Int → Nat → Int

/-- FREE VALUE (log 12). R39 states the factor of a lane fade and no rounding: of the two samples nearest the exact product
`sample * position / 480`, whether the upper is taken. -/
opaque laneFadeRoundsUp : Int → Nat → Bool

/-- FREE VALUE (log 13). R30 copies the frame at the head of the FIFO, and does not say what is copied when the FIFO is empty: one
channel's sample, from the last one removed. -/
opaque emptySlipSample : Int → Int

/-- FREE VALUE (log 14). R192 reports the first address not committed; when the header was committed but not acknowledged again,
every byte of the image is committed and the spec states no address. -/
opaque uncommittedAfterHeader : Nat → BitVec 16

/-- A figure of a reply: its bytes, where chapter 11 says how a figure of its sort is written; the number it is, where chapter 11
states no width for it. -/
inductive ReplyFigure where
  | laid (bytes : List Byte)
  | number (n : Nat)
  deriving DecidableEq, Repr

/-- FREE VALUE (log 29). In the reply to a request of this kind code that carries these figures, the width in bytes of the number that
stands at this place among them, where it is more than the number itself takes. -/
opaque replyWidth : Nat → List ReplyFigure → Nat → Nat

end Sys2Proof.Config
end

