-- ==== Sys2Proof/Machine/Arith.lean ====
section
/-! DEFINITION. Arith.lean: the roundings the rules name (R1), levels of exact energies (R110, R116 to R119), gain factors
(R141), the correlation figure (R120) and parity (R197). Everything is exact: integers and rationals as numerator and
denominator, no approximation. -/
namespace Sys2Proof.Machine

/-- clamp(v, a, b) of R1. -/
def clampInt (v a b : Int) : Int := if v < a then a else if b < v then b else v

/-- clamp on counts. -/
def clampNat (v a b : Nat) : Nat := if v < a then a else if b < v then b else v

/-- A count that rises by one and stays at its largest value. -/
def satSucc (top n : Nat) : Nat := min top (n + 1)

/-- Round-half-up of `num / den` (R1): the nearest integer, ties toward plus infinity. -/
def roundHalfUp (num : Int) (den : Nat) : Int := (2 * num + den) / (2 * den)

/-- `num / den` to the nearest integer, ties away from zero (R93, R100, R104, R142). -/
def roundAway (num : Int) (den : Nat) : Int :=
  if 0 ≤ num then (2 * num + den) / (2 * den) else -((2 * (-num) + den) / (2 * den))

/-- The largest value `lo + m` with `m < 2 ^ n` at which the descending property `p` holds, `lo` if at none above it. -/
def searchUp (p : Int → Bool) : Nat → Int → Int
  | 0, acc => acc
  | n + 1, acc => searchUp p n (if p (acc + 2 ^ n) then acc + 2 ^ n else acc)

/-! ## The level of an exact energy (R110) -/

/-- Whether R(10 log10 z) in tenths is at least k, for z = num / den above 0: whether 10 ^ ((2k - 1) / 200) ≤ z. Both sides are
raised to the 200th power, so the comparison is one of whole numbers. -/
def levelAtLeast (num den : Nat) (k : Int) : Bool :=
  let e := 2 * k - 1
  if 0 ≤ e then decide (10 ^ e.toNat * den ^ 200 ≤ num ^ 200) else decide (den ^ 200 ≤ num ^ 200 * 10 ^ (-e).toNat)

/-- R(10 log10 (num / den)) in tenths where that is -999 to 1047, and -1000 below -999 or when the energy is 0. -/
def energyLevel (num den : Nat) : Int :=
  if num = 0 then -1000 else searchUp (levelAtLeast num den) 11 (-1000)

/-! ## The level of a mean of levels' energies (R116, R117, R119)

Powers of ten with a fractional exponent are irrational, so the comparison is made between whole-number bounds at a precision
that is doubled until the bounds part; log 24 shows that they part within the precisions tried. -/

/-- The largest r below 2 ^ n with r ^ 200 ≤ t, by its bits from the top. -/
def root200 (t : Nat) : Nat → Nat → Nat
  | 0, acc => acc
  | n + 1, acc => root200 t n (if (acc + 2 ^ n) ^ 200 ≤ t then acc + 2 ^ n else acc)

/-- floor(10 ^ (e / 200) * 2 ^ prec), for exponents up to 2300. -/
def tenRoot (prec e : Nat) : Nat := root200 (10 ^ e * 2 ^ (200 * prec)) (prec + 48) 0

/-- Every exponent is shifted by this, so that all are positive; both sides of a comparison are scaled alike. -/
def exponentShift : Int := 2002

/-- The scaled energy of a level of b tenths, rounded down: 10 ^ (b / 100) * 10 ^ (2002 / 200) * 2 ^ prec. -/
def scaledEnergy (prec : Nat) (b : Int) : Nat := tenRoot prec (2 * b + exponentShift).toNat

/-- The sum of the scaled energies of the counted levels, each rounded down; the exact sum exceeds it by less than the count. -/
def scaledSum (prec : Nat) : List (Int × Nat) → Nat
  | [] => 0
  | (b, n) :: rest => n * scaledEnergy prec b + scaledSum prec rest

/-- The number of counted levels. -/
def countTotal : List (Int × Nat) → Nat
  | [] => 0
  | (_, n) :: rest => n + countTotal rest

/-- Whether the level of the mean is at least k, decided at the given precision, or at twice it and so on. -/
def meanAtLeast (bins : List (Int × Nat)) (k : Int) : Nat → Nat → Bool
  | 0, _ => false
  | fuel + 1, prec =>
    let total := countTotal bins
    let sum := scaledSum prec bins
    let bound := total * tenRoot prec (2 * k - 1 + exponentShift).toNat
    if bound + total ≤ sum then true
    else if sum + total ≤ bound then false
    else meanAtLeast bins k fuel (2 * prec)

/-- R(10 log10 (sum of n * 10 ^ (b / 100), over the counted levels, divided by their number)) in tenths, for levels from -1000 to
+100, at least one of them counted. -/
def meanLevel (bins : List (Int × Nat)) : Int := searchUp (fun k => meanAtLeast bins k 9 64) 11 (-1000)

/-! ## Gain factors (R141) -/

/-- Whether k is at most 2 ^ 20 * 10 ^ (a / 200) rounded to the nearest whole number: (2k - 1) / 2 ^ 21 ≤ 10 ^ (a / 200), with both
sides raised to the 200th power. -/
def factorAtLeast (a : Int) (k : Nat) : Bool :=
  decide ((2 * k - 1) ^ 200 * 10 ^ (-a).toNat ≤ 2 ^ (21 * 200) * 10 ^ a.toNat)

/-- The largest k below 2 ^ n above acc with the property, by its bits from the top. -/
def searchFactor (a : Int) : Nat → Nat → Nat
  | 0, acc => acc
  | n + 1, acc => searchFactor a n (if factorAtLeast a (acc + 2 ^ n) then acc + 2 ^ n else acc)

/-- g(A), in units of 2^-20, for a gain of -300 to +200 tenths (R141). -/
def gainFactor (a : Int) : Nat := searchFactor a 24 0

/-! ## Correlation (R120) -/

/-- The largest k of 0 to 100 with k ^ 2 * mL * mR ≤ 10,000 * x ^ 2, counting up to `fuel`. -/
def correlationSize (mL mR : Nat) (x : Nat) : Nat → Nat
  | 0 => 0
  | k + 1 => if (k + 1) ^ 2 * (mL * mR) ≤ 10000 * x ^ 2 then k + 1 else correlationSize mL mR x k

/-- x / sqrt(mL * mR) in hundredths, truncated toward zero; absent when either energy is 0 (R120). -/
def correlation (mL mR : Nat) (x : Int) : Option Int :=
  if mL = 0 ∨ mR = 0 then none
  else
    let size : Int := correlationSize mL mR x.natAbs 100
    some (if 0 ≤ x then size else -size)

/-! ## Samples and slots -/

/-- A sample's bounds, -1 and 1 - 2^-23, in units of 2^-23. -/
def saturateSample (v : Int) : Int := clampInt v (-(2 ^ 23)) (2 ^ 23 - 1)

/-- How many of the lowest n bits are ones. -/
def onesBelow (w : Nat) : Nat → Nat
  | 0 => 0
  | n + 1 => onesBelow w n + (if w.testBit n then 1 else 0)

/-- A slot has correct parity when bit periods 0 to 25 hold an even count of ones (R197). -/
def slotParityCorrect (w : BitVec 32) : Bool := onesBelow (w >>> 6).toNat 26 % 2 == 0

/-- The slot's sample, in units of 2^-23 (R197). -/
def slotSample (w : BitVec 32) : Int := (w.extractLsb' 8 24).toInt

/-- The slot's valid flag (R197). -/
def slotValid (w : BitVec 32) : Bool := w.getLsbD 7

/-- The slot word of a sample and valid flag: correct parity, pad zero (R15, R197). -/
def slotWord (sample : Int) (valid : Bool) : BitVec 32 :=
  let body : BitVec 25 := BitVec.ofInt 24 sample ++ BitVec.ofBool valid
  body ++ BitVec.ofBool (onesBelow body.toNat 25 % 2 == 1) ++ (0 : BitVec 6)

end Sys2Proof.Machine
end

