-- ==== Sys2Proof/Machine/State.lean ====
section
/-! DEFINITION. State.lean: every piece of state the spec gives the part, block by block, as plain data; the reasons a step can
stop; and the machine right after reset. -/
namespace Sys2Proof.Machine

/-- The part never stops with a fault: the spec gives every event an effect (INVENTORY.md, Faults). No constructor, so nothing
raises one. Safe. -/
inductive Fault : Type
  deriving DecidableEq, Repr

/-- Why a command would have no meaning. -/
inductive Refusal where
  /-- Raised only by an arm of `exec` whose command has no meaning yet; no arm is such. Safe. -/
  | notModelled (mnemonic : String)
  deriving DecidableEq, Repr

/-- Bytes by address, in one canonical form: addresses strictly rising, no byte listed that equals what an unlisted address
reads as (log 8). -/
abbrev Memory := List Host.Cell

/-! ## Reference unit (2.1) -/

inductive RefState where
  | free | locked | holdover | relock
  deriving DecidableEq, Repr

/-- The reference unit (R21 to R26). -/
structure Refu where
  state : RefState
  latch : Bool
  /-- The frame clock, counting modulo 2^48. -/
  clock : Nat
  silence : Nat
  presence : Nat
  /-- Whether a strobe has arrived in the output frame in progress (R22). -/
  strobeSeen : Bool
  deriving DecidableEq, Repr

/-! ## Lane interface, rate gauges and conversion engine (chapters 1 and 2) -/

inductive RateClass where
  | unknown | k32 | k44 | k48 | k88 | k96
  deriving DecidableEq, Repr

inductive Grade where
  | none | good | weak | dead
  deriving DecidableEq, Repr

/-- The lane states of section 1.3; `waitingBudget` is the spec's ADMIT. -/
inductive LaneState where
  | absent | detect | sense | rejected | waitingBudget | running | disabled
  deriving DecidableEq, Repr

inductive GaugeMode where
  | timed | opened | closed
  deriving DecidableEq, Repr

inductive Preference where
  | full | short
  deriving DecidableEq, Repr

inductive ConvMode where
  | none | full | short | bypass
  deriving DecidableEq, Repr

inductive Tracking where
  | acquire | track
  deriving DecidableEq, Repr

inductive LaneFade where
  | none | fadeOut | fadeIn
  deriving DecidableEq, Repr

/-- The rate gauge of a lane (R4, R5). `elapsed` is how many output frames of the gate in progress have ended. -/
structure Gauge where
  mode : GaugeMode
  count : BitVec 16
  history : List (BitVec 16)
  elapsed : Nat
  deriving DecidableEq, Repr

/-- One input frame inside the part: a sample for each of the eight slots, in units of 2^-23; a slot that is not active holds 0. -/
abbrev Frame := List Int

/-- What the lane record keeps of the previous SENSE gate (R9). -/
structure SenseGate where
  cls : RateClass
  clean : Bool
  valid : BitVec 8
  deriving DecidableEq, Repr

/-- The five lane settings (R17). -/
structure LaneSettings where
  enabled : Bool
  preference : Preference
  bypassAllowed : Bool
  tolerance : Nat
  openCounting : Bool
  deriving DecidableEq, Repr

/-- A converter record (2.2), but for the lane latency and the settling ratio's owner, which outlive it. -/
structure Converter where
  granted : ConvMode
  effective : ConvMode
  forced : Bool
  tracking : Tracking
  acquisition : Nat
  ratio : Nat
  settling : Option Nat
  fifo : List Frame
  phase : Nat
  slipWanted : Bool
  slipCount : Nat
  slipsInGate : Nat
  gatesSinceSlip : Nat
  fade : LaneFade
  fadePos : Nat
  /-- Frames lately removed from the FIFO, newest first: behind the read position. -/
  past : List Frame
  /-- Frames produced at the last boundaries, newest first: what has not yet emerged under the mode's latency (R28, R32). -/
  produced : List Frame
  /-- The converter's output at the last boundary, after any lane fade factor. -/
  output : Frame
  deriving DecidableEq, Repr

/-- One input lane: its record, gauge, per-gate counts and converter. -/
structure Lane where
  state : LaneState
  settled : RateClass
  active : BitVec 8
  senseGates : Nat
  prevSense : Option SenseGate
  deadRun : Nat
  grade : Grade
  settings : LaneSettings
  gauge : Gauge
  framing : Nat
  invalid : Nat
  activity : Bool
  lastFraming : Nat
  lastInvalid : Nat
  lastActivity : Bool
  /-- A marker has been seen since the lane entered DETECT, so the next marker closes a frame (R2). -/
  frameOpen : Bool
  /-- The gate in progress began while the lane was in SENSE (R9). -/
  gateInSense : Bool
  /-- Slots whose valid flag was set in every sound frame of the gate in progress (R9). -/
  validAll : BitVec 8
  conv : Converter
  /-- The lane latency, which outlives the lane's RUNNING state (R32). -/
  latency : Nat
  deriving DecidableEq, Repr

/-- The eight input lanes with their converters, and the admission queue (R35). -/
structure Front where
  lanes : Vector Lane 8
  admission : List LaneId
  deriving DecidableEq, Repr

/-! ## Programmes (chapters 3 to 7) -/

inductive ProgState where
  | undefined | waiting | running | releasing
  deriving DecidableEq, Repr

inductive Role where
  | l | r | c | lfe | ls | rs | lb | rb | m | x
  deriving DecidableEq, Repr

inductive Weight where
  | none | unity | side
  deriving DecidableEq, Repr

/-- A member as defined (3.1). -/
structure MemberDef where
  lane : LaneId
  slot : SlotId
  role : Role
  weight : Option Weight
  placement : Option (LaneId × SlotId)
  deriving DecidableEq, Repr

/-- A packed energy word with its saturated mark (R107). -/
structure EnergyWord where
  bits : BitVec 16
  saturated : Bool
  deriving DecidableEq, Repr

/-- A channel ring (R64). The chain, closed on itself, is listed in playback order from the write page: the write page, then
`rest`. -/
structure Ring where
  writePage : PageId
  rest : List PageId
  writeOffset : Fin 1024
  historyStart : Int
  deriving DecidableEq, Repr

/-- A member with what the blocks keep of it: its tap in 1/64 frames (R89), its ring, its weighting filter's state as the bus
samples since that was zeroed, newest first, leading silence left out (R104), its energy sum in units of 2^-60 (R105), its
sub-block ring, newest first (R106), and its output sample of the last boundary (R100). -/
structure Member where
  spec : MemberDef
  tap : Int
  ring : Option Ring
  history : List Int
  energy : Nat
  words : List EnergyWord
  out : Int
  deriving DecidableEq, Repr

inductive ChangeMethod where
  | glide | jump | auto
  deriving DecidableEq, Repr

inductive ChangeState where
  | steady | gliding | fadeOut | filling | fadeIn
  deriving DecidableEq, Repr

inductive ChangeKind where
  | glide | jump
  deriving DecidableEq, Repr

/-- The delay record (5.1). The current delay is in units of 1/64 frame. While the programme is WAITING the funded target and
the current delay are none, held as 0. -/
structure DelayRec where
  video : Nat
  trim : Int
  requested : Nat
  pending : Option Nat
  method : ChangeMethod
  glideLimit : Nat
  funded : Nat
  current : Nat
  change : ChangeState
  kind : ChangeKind
  fadePos : Nat
  fill : Nat
  ahead : Bool
  releasePos : Nat
  entryLevel : Nat
  deriving DecidableEq, Repr

/-- One sub-block of the correlation ring (R106): the pair's energy sums and cross sum, in units of 2^-60; the exact quotients
are these divided by 4800. -/
structure CorrEntry where
  mL : Nat
  mR : Nat
  x : Int
  deriving DecidableEq, Repr

/-- The gate figures of a block completion (R116, R117). -/
structure GateFigures where
  lr : Int
  theta : Int
  nTheta : Nat
  deriving DecidableEq, Repr

/-- The results of a block completion (R121). -/
structure BlockResults where
  paused : Bool
  lb : Int
  overload : Bool
  belowGate : Bool
  lst : Option Int
  li : Option Int
  rho : Option Int
  deriving DecidableEq, Repr

/-- The histogram (R113): the bins whose count is not 0, with their counts, levels rising. -/
abbrev Histogram := List (Int × Nat)

/-- The meter record (6.1), but for what stands with each member. The recorded count Nr is the length of `levels`. -/
structure MeterRec where
  window : Nat
  relGate : Int
  minCount : Nat
  frameCount : Nat
  cross : Int
  subBlocks : Nat
  blockIndex : Nat
  /-- How many sub-blocks the sub-block rings hold, 0 to 4 (R106). -/
  ringed : Nat
  corr : List CorrEntry
  levels : List Int
  histogram : Histogram
  gate : Option GateFigures
  results : Option BlockResults
  deriving DecidableEq, Repr

/-- The correction settings (7.2). -/
structure GainSettings where
  target : Int
  gmax : Int
  gmin : Int
  upSlew : Int
  downSlew : Int
  band : Int
  g0 : Int
  deriving DecidableEq, Repr

/-- A queued gain change (R135). -/
structure Cue where
  position : Nat
  gain : Int
  deriving DecidableEq, Repr

/-- The gain record (7.1). Factors are in units of 2^-20. -/
structure GainRec where
  settings : GainSettings
  paused : Bool
  gcur : Option Int
  moving : Bool
  desired : Option Int
  cues : List Cue
  applied : Option Int
  factor : Nat
  rampStart : Nat
  rampEnd : Nat
  rampPos : Nat
  ramping : Bool
  clips : Nat
  deriving DecidableEq, Repr

/-- A content selection of meter reports (9.7). -/
structure Selection where
  li : Bool
  rho : Bool
  words : Bool
  delays : Bool
  deriving DecidableEq, Repr

/-- A programme's report setting (9.7). -/
structure ReportRec where
  period : Nat
  selection : Selection
  counter : Nat
  deriving DecidableEq, Repr

/-- One programme: its record and what the blocks that serve it keep of it. -/
structure Prog where
  state : ProgState
  members : List Member
  inputStamp : Nat
  delay : DelayRec
  meter : MeterRec
  gain : GainRec
  report : ReportRec
  deriving DecidableEq, Repr

/-- The delay memory controller (chapter 4). The page table is the pool seen page by page and is computed (R62). -/
structure Dmc where
  free : List PageId
  wait : List ProgId
  dram : Memory
  deriving DecidableEq, Repr

/-! ## Watch unit (chapter 8) -/

/-- The 75 alarms (R159). -/
inductive AlarmId where
  | watch (w : WatchId)
  | refLost
  | laneLost (l : LaneId)
  | laneRejected (l : LaneId)
  | slip (l : LaneId)
  | delayDeficit (p : ProgId)
  | noticeLoss
  | profileFault
  deriving DecidableEq, Repr

/-- The source of an alarm (R159). -/
inductive Source where
  | programme (p : ProgId)
  | lane (l : LaneId)
  | reference
  | pool
  | link
  | profile
  deriving DecidableEq, Repr

/-- The source object of a watch (8.1). -/
inductive WatchObject where
  | programme (p : ProgId)
  | lane (l : LaneId)
  | reference
  | pool
  deriving DecidableEq, Repr

/-- The measures of section 8.2. -/
inductive Measure where
  | lb | lst | li | gcur | rho | clips | lipSync | belowGate
  | deviation | slips | framing | fill | grade
  | refState
  | freePages
  deriving DecidableEq, Repr

inductive Sense where
  | above | below
  deriving DecidableEq, Repr

inductive WatchMode where
  | level | edge
  deriving DecidableEq, Repr

inductive WatchState where
  | off | quiet | rising | raised | falling
  deriving DecidableEq, Repr

/-- The watch record the host sets (8.1). -/
structure WatchRecord where
  enable : Bool
  object : WatchObject
  measure : Measure
  threshold : Int
  sense : Sense
  mode : WatchMode
  raiseCount : Nat
  clearCount : Nat
  severity : Nat
  freezeEnable : Bool
  deriving DecidableEq, Repr

/-- A watch: its record, state and counts. -/
structure Watch where
  record : WatchRecord
  state : WatchState
  run : Nat
  entries : Nat
  quiet : Nat
  lastQualified : Bool
  lastValue : Option Int
  lastStamp : Option Nat
  deriving DecidableEq, Repr

/-- An entry of the alarm table (R161). -/
structure AlarmEntry where
  id : AlarmId
  severity : Nat
  source : Source
  raised : Nat
  acked : Bool
  observed : Option Int
  deriving DecidableEq, Repr

/-- The watch unit. -/
structure Wch where
  watches : Vector Watch 32
  table : List AlarmEntry
  major : Bool
  minor : Bool
  majorLevel : Nat
  freeze : Bool
  selected : Option ProgId
  follow : Bool
  monitored : Option ProgId
  deriving DecidableEq, Repr

/-! ## Notices, replies and the link controller (chapter 9) -/

inductive AlarmChange where
  | raised | cleared | acknowledged
  deriving DecidableEq, Repr

inductive DoneKind where
  | none | glide | jump
  deriving DecidableEq, Repr

inductive StoreOutcome where
  | none | succeeded | failed
  deriving DecidableEq, Repr

inductive StoreStage where
  | none | body | header
  deriving DecidableEq, Repr

/-- The content of a meter report (R186); a chosen part is `some`. -/
structure MeterReport where
  prog : ProgId
  selection : Selection
  clock : Nat
  blockIndex : Nat
  results : BlockResults
  gcur : Int
  clips : Nat
  nTheta : Option Nat
  words : List (List (BitVec 16))
  current : Nat
  requested : Nat
  funded : Nat
  pending : Option Nat
  lipSync : Int
  deriving DecidableEq, Repr

/-- The content of a notice; its key is computed from it (R182). -/
inductive Notice where
  | alarm (entry : AlarmEntry) (change : AlarmChange) (clock : Nat)
  | ref (new left : RefState) (latch : Bool) (clock : Nat)
  | lane (l : LaneId) (new left : LaneState) (settled : RateClass) (active : BitVec 8) (clock : Nat)
  | doneDelay (p : ProgId) (reached requested funded deficit : Nat) (kind : DoneKind) (clock : Nat)
  | doneStore (outcome : StoreOutcome) (storeCount bodyLength : Nat) (stage : StoreStage) (address : BitVec 16) (clock : Nat)
  | meter (report : MeterReport)
  deriving DecidableEq, Repr

/-- The keys of section 9.6. -/
inductive NoticeKey where
  | alarm (id : AlarmId)
  | meter (p : ProgId)
  | doneDelay (p : ProgId)
  | doneStore
  | lane (l : LaneId)
  | ref
  deriving DecidableEq, Repr

/-- Reply status (R177). -/
inductive Status where
  | ok | clamped | busy | noObject | conflict | state | format
  deriving DecidableEq, Repr

/-- The kinds of conflict of R47, in the order it lists them. -/
inductive ConflictKind where
  | inputRange | outputRange | inputTaken | inputRepeated | outputTaken | outputRepeated
  deriving DecidableEq, Repr

inductive LoadOutcome where
  | loading | valid | noAnswer | checkFailed
  deriving DecidableEq, Repr

/-- STATUS (R179). -/
structure StatusReply where
  lineRate : Nat
  credit : Nat
  loss : Nat
  frameErrors : Nat
  noticeCount : Nat
  requestCount : Nat
  refState : RefState
  latch : Bool
  clock : Nat
  tapsInUse : Nat
  freeTaps : Nat
  admission : List LaneId
  freePages : Nat
  headPage : Option PageId
  wait : List ProgId
  majorLevel : Nat
  freeze : Bool
  major : Bool
  minor : Bool
  alarms : Nat
  unacked : Nat
  highest : Option Nat
  selected : Option ProgId
  follow : Bool
  monitored : Option ProgId
  load : LoadOutcome
  storing : Bool
  deriving DecidableEq, Repr

/-- LANE_QUERY (R19, R43). -/
structure LaneReply where
  state : LaneState
  settled : RateClass
  active : BitVec 8
  grade : Grade
  deadRun : Nat
  senseGates : Nat
  mode : GaugeMode
  gateOpen : Bool
  count : BitVec 16
  history : List (BitVec 16)
  framing : Nat
  invalid : Nat
  activity : Bool
  settings : LaneSettings
  granted : ConvMode
  effective : ConvMode
  forced : Bool
  tracking : Tracking
  acquisition : Nat
  ratio : Nat
  settling : Option Nat
  fill : Nat
  latency : Nat
  slipCount : Nat
  slipsInGate : Nat
  gatesSinceSlip : Nat
  fade : LaneFade
  fadePos : Option Nat
  place : Option Nat
  deriving DecidableEq, Repr

/-- A member in PROG_QUERY (R58, R103). -/
structure MemberReply where
  spec : MemberDef
  weight : Weight
  laneRunning : Bool
  slotActive : Bool
  tap : Option Int
  latency : Nat
  deriving DecidableEq, Repr

/-- PROG_QUERY (R58, R81, R103). -/
structure ProgReply where
  state : ProgState
  members : List MemberReply
  inputStamp : Nat
  outputStamp : Option Int
  video : Nat
  trim : Int
  requested : Nat
  pending : Option Nat
  method : ChangeMethod
  glideLimit : Nat
  funded : Option Nat
  current : Option Nat
  change : ChangeState
  kind : Option ChangeKind
  fadePos : Option Nat
  fill : Option Nat
  ahead : Bool
  lipSync : Option Int
  releasePos : Option Nat
  entryLevel : Option Nat
  pagesPerChannel : Nat
  pagesHeld : Nat
  holding : Option Nat
  place : Option Nat
  outstanding : Nat
  deficit : Nat
  deriving DecidableEq, Repr

/-- The figures of a delay reply (R86, R88). -/
structure DelayReply where
  video : Nat
  trim : Int
  requested : Nat
  change : ChangeState
  funded : Option Nat
  pending : Option Nat
  deriving DecidableEq, Repr

/-- LOUD_SET's reply (R126, R129). -/
structure LoudSetReply where
  window : Nat
  relGate : Int
  minCount : Nat
  settings : GainSettings
  gcur : Option Int
  moving : Option Bool
  deriving DecidableEq, Repr

/-- LOUD_QUERY (R127, R149). -/
structure LoudReply where
  window : Nat
  relGate : Int
  minCount : Nat
  paused : Bool
  subBlocks : Nat
  frameCount : Nat
  blockIndex : Nat
  recorded : Nat
  total : Nat
  gate : Option GateFigures
  results : Option BlockResults
  words : List (List (BitVec 16))
  settings : GainSettings
  gcur : Option Int
  moving : Bool
  desired : Option Int
  applied : Option Int
  factor : Nat
  rampStart : Nat
  rampEnd : Nat
  rampPos : Nat
  cues : List Cue
  clips : Nat
  deriving DecidableEq, Repr

/-- WATCH_QUERY (R171). -/
structure WatchReply where
  watch : Watch
  entry : Option AlarmEntry
  freeze : Bool
  majorLevel : Nat
  deriving DecidableEq, Repr

/-- PROFILE_INFO (R194). -/
structure ProfileReply where
  outcome : LoadOutcome
  bodyLength : Nat
  defined : Nat
  skipped : Nat
  storeCount : Nat
  lastStore : StoreOutcome
  storing : Bool
  deriving DecidableEq, Repr

/-- What follows the reply head: the figures the rule that owns the request lists. Their bytes are in Replies.lean (log 29). -/
inductive ReplyBody where
  | empty
  | status (r : StatusReply)
  | credit (taken count : Nat)
  | lane (r : LaneReply)
  | tolerance (taken : Nat)
  | defined (state : ProgState)
  | conflict (member : Nat) (kind : ConflictKind) (holder : Option ProgId)
  | prog (r : ProgReply)
  | videoLatency (r : DelayReply)
  | delaySet (r : DelayReply) (method : ChangeMethod) (glideLimit : Nat)
  | loudSet (r : LoudSetReply)
  | paused (set : Bool)
  | loud (r : LoudReply)
  | report (period : Nat) (selection : Selection)
  | watchSet (watch : Option (WatchRecord × WatchState)) (majorLevel : Nat)
  | watch (r : WatchReply)
  | alarms (count : Nat) (entries : List AlarmEntry)
  | alarm (entry : AlarmEntry)
  | freeze (set : Bool)
  | monitor (selected : Option ProgId) (follow : Bool) (monitored : Option ProgId)
  | store (bodyLength storeCount : Nat)
  | profile (r : ProfileReply)
  deriving DecidableEq, Repr

/-- A reply: its head (R177) and body, its moment of formation (R178), and whether it is the reply to a taken RESTART (R181). -/
structure Reply where
  tag : Byte
  status : Status
  kind : Byte
  body : ReplyBody
  formed : Nat
  endsTraffic : Bool
  deriving DecidableEq, Repr

/-- An entry of the request queue (R176): the request, and its reply once it has been taken. -/
structure Request where
  kind : Byte
  tag : Byte
  body : List Byte
  reply : Option Reply
  deriving DecidableEq, Repr

/-- The frame the transmitter is sending (R178): what it carries, and its bytes (R174). -/
inductive TxFrame where
  | queueReply (r : Reply) (frame : List Byte)
  | busyReply (r : Reply) (frame : List Byte)
  | notice (n : Notice) (frame : List Byte)
  deriving DecidableEq, Repr

/-- RESTART in progress (R181): taken and its reply not yet sent, or its reply sent so that the restart takes effect. -/
inductive RestartState where
  | none | taken | due
  deriving DecidableEq, Repr

/-- The link controller. -/
structure Lnk where
  lineRate : Nat
  /-- The bytes of the frame being received, from its sync byte; none while hunting (R175). -/
  rx : List Byte
  frameErrors : Nat
  requests : List Request
  busy : List Reply
  /-- How many replies have been formed: the moment of formation of the next (R178). -/
  formed : Nat
  tx : Option TxFrame
  restart : RestartState
  credit : Nat
  /-- The notice queue, in order of joining (R182). -/
  notices : List Notice
  loss : Nat
  deriving DecidableEq, Repr

/-! ## Profile unit (chapter 10) -/

/-- A store in flight (R191, R192): the body bytes not yet committed, the address of the next transfer, the header, and what the
DONE notice will report. -/
structure StoreOp where
  body : List Byte
  address : Nat
  header : List Byte
  storeCount : Nat
  bodyLength : Nat
  deriving DecidableEq, Repr

/-- The profile unit. -/
structure Pfu where
  outcome : LoadOutcome
  bodyLength : Nat
  defined : Nat
  skipped : Nat
  storeCount : Nat
  lastStore : StoreOutcome
  store : Option StoreOp
  /-- Whether the memory has answered every read of the load so far, and whether the header was read whole (R188, R194). -/
  answered : Bool
  headerRead : Bool
  mem : Memory
  deriving DecidableEq, Repr

/-- What the output lanes and the monitor pair carried in the last output frame (R15, R16): word `8 * lane + slot`. -/
structure Outputs where
  slots : List SlotWord
  monitor : List SlotWord
  deriving DecidableEq, Repr

/-- The whole part, and the queue of commands waiting. -/
structure State where
  /-- Commands waiting, first in first out. -/
  pending : List Instr
  /-- Power is present (R193). -/
  powered : Bool
  refu : Refu
  front : Front
  progs : Vector Prog 16
  dmc : Dmc
  wch : Wch
  lnk : Lnk
  pfu : Pfu
  out : Outputs
  deriving DecidableEq, Repr

/-! ## Reset values -/

/-- R26. -/
def Refu.reset : Refu :=
  { state := .free, latch := false, clock := 0, silence := 0, presence := 0, strobeSeen := false }

/-- The factory lane settings (R20). -/
def LaneSettings.factory : LaneSettings :=
  { enabled := true, preference := .full, bypassAllowed := true, tolerance := 5, openCounting := false }

/-- A silent frame. -/
def Frame.silent : Frame := List.replicate 8 0

/-- R44; the items it does not name are the model's choice (log 15). -/
def Converter.reset : Converter :=
  { granted := .none, effective := .none, forced := false, tracking := .acquire, acquisition := 0, ratio := Config.unitRatio,
    settling := none, fifo := [], phase := 0, slipWanted := false, slipCount := 0, slipsInGate := 0, gatesSinceSlip := 0,
    fade := .none, fadePos := 0, past := [], produced := [], output := Frame.silent }

/-- R20, R44. -/
def Lane.reset : Lane :=
  { state := .absent, settled := .unknown, active := 0, senseGates := 0, prevSense := none, deadRun := 0, grade := .none,
    settings := LaneSettings.factory, gauge := { mode := .timed, count := 0, history := [], elapsed := 0 },
    framing := 0, invalid := 0, activity := false, lastFraming := 0, lastInvalid := 0, lastActivity := false,
    frameOpen := false, gateInSense := false, validAll := BitVec.allOnes 8, conv := Converter.reset, latency := 48 }

/-- R83: a new delay record. -/
def DelayRec.fresh : DelayRec :=
  { video := 0, trim := 0, requested := Config.minDelay, pending := none, method := .auto, glideLimit := 2400, funded := 0,
    current := 0, change := .steady, kind := .glide, fadePos := 0, fill := 0, ahead := false, releasePos := 0, entryLevel := 0 }

/-- R122: a new meter record. -/
def MeterRec.fresh : MeterRec :=
  { window := 600, relGate := 100, minCount := 30, frameCount := 0, cross := 0, subBlocks := 0, blockIndex := 0, ringed := 0,
    corr := [], levels := [], histogram := [], gate := none, results := none }

/-- The correction settings' defaults (7.2). -/
def GainSettings.factory : GainSettings :=
  { target := -230, gmax := 100, gmin := -200, upSlew := 1, downSlew := 5, band := 10, g0 := 0 }

/-- R128: a new gain record. -/
def GainRec.fresh : GainRec :=
  { settings := GainSettings.factory, paused := false, gcur := none, moving := false, desired := none, cues := [],
    applied := none, factor := Config.unitFactor, rampStart := Config.unitFactor, rampEnd := Config.unitFactor,
    rampPos := Config.fadeFrames, ramping := false, clips := 0 }

/-- No optional part chosen. -/
def Selection.empty : Selection := { li := false, rho := false, words := false, delays := false }

/-- R185: a new report setting. -/
def ReportRec.fresh : ReportRec := { period := 0, selection := Selection.empty, counter := 0 }

/-- An UNDEFINED programme (R59): no members, no pages, no state of any block. -/
def Prog.undefined : Prog :=
  { state := .undefined, members := [], inputStamp := 0, delay := DelayRec.fresh, meter := MeterRec.fresh,
    gain := GainRec.fresh, report := ReportRec.fresh }

/-- R82: the free list of all pages, in ascending order. -/
def allPages : List PageId := List.finRange 2048

/-- The factory watch record (R150). -/
def WatchRecord.factory : WatchRecord :=
  { enable := false, object := .programme 0, measure := .lb, threshold := 0, sense := .above, mode := .level, raiseCount := 1,
    clearCount := 1, severity := 1, freezeEnable := false }

/-- R150. -/
def Watch.reset : Watch :=
  { record := WatchRecord.factory, state := .off, run := 0, entries := 0, quiet := 0, lastQualified := false,
    lastValue := none, lastStamp := none }

/-- R172. -/
def Wch.reset : Wch :=
  { watches := Vector.replicate 32 Watch.reset, table := [], major := false, minor := false, majorLevel := 5,
    freeze := false, selected := none, follow := false, monitored := none }

/-- R187, at this line rate (R173). -/
def Lnk.reset (lineRate : Nat) : Lnk :=
  { lineRate := lineRate, rx := [], frameErrors := 0, requests := [], busy := [], formed := 0, tx := none, restart := .none,
    credit := 0, notices := [], loss := 0 }

/-- R194, over these profile memory contents. -/
def Pfu.reset (mem : Memory) : Pfu :=
  { outcome := .loading, bodyLength := 0, defined := 0, skipped := 0, storeCount := 0, lastStore := .none, store := none,
    answered := true, headerRead := true, mem := mem }

/-- A slot carrying a zero sample with the valid flag clear (R15). -/
def SlotWord.idle : SlotWord := 0

/-- Every slot idle (R15, R16). -/
def Outputs.idle : Outputs :=
  { slots := List.replicate 64 SlotWord.idle, monitor := List.replicate 2 SlotWord.idle }

/-- Every block in its reset state and the profile load begun (R20, R26, R44, R59, R82, R172, R187, R189, R194), with this line
rate, these delay memory and profile memory contents and these commands waiting, which a reset does not touch. -/
def State.afterReset (lineRate : Nat) (dram profileMem : Memory) (pending : List Instr) : State :=
  { pending := pending, powered := true, refu := Refu.reset,
    front := { lanes := Vector.replicate 8 Lane.reset, admission := [] },
    progs := Vector.replicate 16 Prog.undefined,
    dmc := { free := allPages, wait := [], dram := dram },
    wch := Wch.reset, lnk := Lnk.reset lineRate, pfu := Pfu.reset profileMem, out := Outputs.idle }

/-- The machine right after power-on reset: the line rate of both straps low (log 7), no byte listed in either memory (log 8), no command waiting. -/
def State.reset : State := State.afterReset 115200 [] [] []

end Sys2Proof.Machine
end

