-- ==== Sys2Proof/Machine/Ops.lean ====
section
/-! DEFINITION. Ops.lean: reading and writing the two memories, and the parts of the state a block works on. A block's operations
act on a view that holds only what the block may touch (Panel, LaneSide, ProgSide), so what it leaves alone is plain. -/
namespace Sys2Proof.Machine

/-! ## Memory -/

/-- What an address that no cell lists reads as (log 8). -/
def Memory.unlisted : Byte := 0

/-- The byte at an address. -/
def Memory.read (m : Memory) (a : Nat) : Byte :=
  match m with
  | [] => Memory.unlisted
  | (k, b) :: rest => if k = a then b else Memory.read rest a

/-- A cell put in front of cells of higher addresses, unless it reads as an unlisted one. -/
def Memory.put (a : Nat) (b : Byte) (rest : Memory) : Memory := if b = Memory.unlisted then rest else (a, b) :: rest

/-- Write a byte, keeping the canonical form. -/
def Memory.write (m : Memory) (a : Nat) (b : Byte) : Memory :=
  match m with
  | [] => Memory.put a b []
  | (k, c) :: rest =>
    if a < k then Memory.put a b ((k, c) :: rest)
    else if a = k then Memory.put a b rest
    else (k, c) :: Memory.write rest a b

/-- The canonical form: addresses strictly rising, no byte listed that an unlisted address would read as. -/
abbrev Memory.wf (m : Memory) : Prop := m.Pairwise (fun x y => x.1 < y.1) ∧ ∀ c ∈ m, c.2 ≠ Memory.unlisted

/-- Write bytes at rising addresses from `a`. -/
def Memory.writeBytes (m : Memory) (a : Nat) : List Byte → Memory
  | [] => m
  | b :: rest => Memory.writeBytes (m.write a b) (a + 1) rest

/-- Read `n` bytes from `a`. -/
def Memory.readBytes (m : Memory) (a : Nat) : Nat → List Byte
  | 0 => []
  | n + 1 => m.read a :: Memory.readBytes m (a + 1) n

/-- Write each of these cells. -/
def Memory.writeCells (m : Memory) : Memory → Memory
  | [] => m
  | (a, b) :: rest => Memory.writeCells (m.write a b) rest

/-- Copy `n` bytes from `src` to `dst`, two ranges that do not overlap. -/
def Memory.copy (m : Memory) (src dst n : Nat) : Memory :=
  Memory.writeCells (m.filter fun c => !(decide (dst ≤ c.1) && decide (c.1 < dst + n)))
    ((m.filter fun c => decide (src ≤ c.1) && decide (c.1 < src + n)).map fun c => (c.1 - src + dst, c.2))

/-! ## The delay memory's words (R61) -/

/-- Byte address of position x of page P. -/
def positionAddress (page : PageId) (x : Fin 1024) : Nat := page.val * 4096 + 4 * x.val

/-- Write a sample's word: the sample in the upper 24 bits, the lower 8 zero; the most significant byte first (log 9). -/
def writeSample (m : Memory) (page : PageId) (x : Fin 1024) (sample : Int) : Memory :=
  let w : BitVec 24 := BitVec.ofInt 24 sample
  m.writeBytes (positionAddress page x) [w.extractLsb' 16 8, w.extractLsb' 8 8, w.extractLsb' 0 8, 0]

/-- Read a sample's word; its lower 8 bits are ignored. -/
def readSample (m : Memory) (page : PageId) (x : Fin 1024) : Int :=
  let a := positionAddress page x
  (m.read a ++ m.read (a + 1) ++ m.read (a + 2) : BitVec 24).toInt

/-! ## Views of the state -/

/-- What the watch unit and the link controller work on: the frame clock to stamp with, and both units. -/
structure Panel where
  now : Nat
  wch : Wch
  lnk : Lnk
  deriving DecidableEq, Repr

/-- What the lane interface and the conversion engine work on. -/
structure LaneSide where
  front : Front
  panel : Panel
  deriving DecidableEq, Repr

/-- What the blocks that serve programmes work on: the lane latencies are only read. -/
structure ProgSide where
  latencies : Vector Nat 8
  progs : Vector Prog 16
  dmc : Dmc
  panel : Panel
  deriving DecidableEq, Repr

/-- The panel of a state. -/
def State.panel (s : State) : Panel := { now := s.refu.clock, wch := s.wch, lnk := s.lnk }

/-- Work on the panel alone. -/
def State.onPanel (s : State) (f : Panel → Panel) : State :=
  let r := f s.panel
  { s with wch := r.wch, lnk := r.lnk }

/-- Work on the lanes and the panel. -/
def State.onLanes (s : State) (f : LaneSide → LaneSide) : State :=
  let r := f { front := s.front, panel := s.panel }
  { s with front := r.front, wch := r.panel.wch, lnk := r.panel.lnk }

/-- The lane latencies. -/
def State.latencies (s : State) : Vector Nat 8 := s.front.lanes.map (·.latency)

/-- Work on the programmes, the delay memory and the panel. -/
def State.onProgs (s : State) (f : ProgSide → ProgSide) : State :=
  let r := f { latencies := s.latencies, progs := s.progs, dmc := s.dmc, panel := s.panel }
  { s with progs := r.progs, dmc := r.dmc, wch := r.panel.wch, lnk := r.panel.lnk }

/-- The lane of a number. -/
def LaneSide.lane (v : LaneSide) (l : LaneId) : Lane := v.front.lanes[l]

/-- Change a lane. -/
def LaneSide.modLane (v : LaneSide) (l : LaneId) (f : Lane → Lane) : LaneSide :=
  { v with front := { v.front with lanes := v.front.lanes.set l (f v.front.lanes[l]) } }

/-- Change a lane's converter. -/
def LaneSide.modConv (v : LaneSide) (l : LaneId) (f : Converter → Converter) : LaneSide :=
  v.modLane l fun x => { x with conv := f x.conv }

/-- Work on the panel from the lane side. -/
def LaneSide.onPanel (v : LaneSide) (f : Panel → Panel) : LaneSide := { v with panel := f v.panel }

/-- The programme of a number. -/
def ProgSide.prog (v : ProgSide) (p : ProgId) : Prog := v.progs[p]

/-- Change a programme. -/
def ProgSide.modProg (v : ProgSide) (p : ProgId) (f : Prog → Prog) : ProgSide :=
  { v with progs := v.progs.set p (f v.progs[p]) }

/-- Change a programme's delay record. -/
def ProgSide.modDelay (v : ProgSide) (p : ProgId) (f : DelayRec → DelayRec) : ProgSide :=
  v.modProg p fun x => { x with delay := f x.delay }

/-- Work on the panel from the programme side. -/
def ProgSide.onPanel (v : ProgSide) (f : Panel → Panel) : ProgSide := { v with panel := f v.panel }

/-- The lane of a number. -/
def State.lane (s : State) (l : LaneId) : Lane := s.front.lanes[l]

/-- The programme of a number. -/
def State.prog (s : State) (p : ProgId) : Prog := s.progs[p]

/-- The lanes, 0 to 7. -/
def allLanes : List LaneId := [0, 1, 2, 3, 4, 5, 6, 7]

/-- The programmes, 0 to 15. -/
def allProgs : List ProgId := [0, 1, 2, 3, 4, 5, 6, 7, 8, 9, 10, 11, 12, 13, 14, 15]

/-- The watches, 0 to 31. -/
def allWatches : List WatchId := List.finRange 32

/-! ## Byte fields (R195): most significant byte first, two's complement when signed -/

def bytes1 (v : Int) : List Byte := [BitVec.ofInt 8 v]

def bytes2 (v : Int) : List Byte := [BitVec.ofInt 8 (v / 2 ^ 8), BitVec.ofInt 8 v]

def bytes4 (v : Int) : List Byte :=
  [BitVec.ofInt 8 (v / 2 ^ 24), BitVec.ofInt 8 (v / 2 ^ 16), BitVec.ofInt 8 (v / 2 ^ 8), BitVec.ofInt 8 v]

def bytes6 (v : Int) : List Byte := bytes2 (v / 2 ^ 32) ++ bytes4 v

/-- A bit of a flag or presence byte. -/
def flagBit (set : Bool) (n : Nat) : Nat := if set then 2 ^ n else 0

/-! ## Figures -/

/-- A figure reported only when it applies. -/
def shown {α : Type} (applies : Bool) (a : α) : Option α := if applies then some a else none

end Sys2Proof.Machine
end

