-- ==== Sys2Proof/Machine/Codes.lean ====
section
/-! DEFINITION. Codes.lean: the code tables of chapter 11, for what is received and for what is sent. -/
namespace Sys2Proof.Machine

/-! ## Codes of requests and records (11.2) -/

def boolOf : Nat → Option Bool
  | 0 => some false | 1 => some true | _ => none

def Preference.ofCode : Nat → Option Preference
  | 0 => some .full | 1 => some .short | _ => none

def Preference.code : Preference → Nat
  | .full => 0 | .short => 1

def Role.ofCode : Nat → Option Role
  | 0 => some .l | 1 => some .r | 2 => some .c | 3 => some .lfe | 4 => some .ls | 5 => some .rs | 6 => some .lb | 7 => some .rb
  | 8 => some .m | 9 => some .x | _ => none

def Role.code : Role → Nat
  | .l => 0 | .r => 1 | .c => 2 | .lfe => 3 | .ls => 4 | .rs => 5 | .lb => 6 | .rb => 7 | .m => 8 | .x => 9

def Weight.ofCode : Nat → Option Weight
  | 0 => some .none | 1 => some .unity | 2 => some .side | _ => none

def Weight.code : Weight → Nat
  | .none => 0 | .unity => 1 | .side => 2

def ChangeMethod.ofCode : Nat → Option ChangeMethod
  | 0 => some .glide | 1 => some .jump | 2 => some .auto | _ => none

def ChangeMethod.code : ChangeMethod → Nat
  | .glide => 0 | .jump => 1 | .auto => 2

def Sense.ofCode : Nat → Option Sense
  | 0 => some .above | 1 => some .below | _ => none

def Sense.code : Sense → Nat
  | .above => 0 | .below => 1

def WatchMode.ofCode : Nat → Option WatchMode
  | 0 => some .level | 1 => some .edge | _ => none

def WatchMode.code : WatchMode → Nat
  | .level => 0 | .edge => 1

/-- The kinds of a watch's source object, by code. -/
inductive ObjectKind where
  | programme | lane | reference | pool
  deriving DecidableEq, Repr

def ObjectKind.ofCode : Nat → Option ObjectKind
  | 0 => some .programme | 1 => some .lane | 2 => some .reference | 3 => some .pool | _ => none

def WatchObject.kind : WatchObject → ObjectKind
  | .programme _ => .programme | .lane _ => .lane | .reference => .reference | .pool => .pool

def ObjectKind.code : ObjectKind → Nat
  | .programme => 0 | .lane => 1 | .reference => 2 | .pool => 3

def WatchObject.number : WatchObject → Nat
  | .programme p => p.val
  | .lane l => l.val
  | _ => 0

/-- The measures of a kind, in order of code. -/
def ObjectKind.measures : ObjectKind → List Measure
  | .programme => [.lb, .lst, .li, .gcur, .rho, .clips, .lipSync, .belowGate]
  | .lane => [.deviation, .slips, .framing, .fill, .grade]
  | .reference => [.refState]
  | .pool => [.freePages]

/-- The measure a code names for a kind; none when it does not belong to the kind (R170). -/
def ObjectKind.measure (k : ObjectKind) (code : Nat) : Option Measure := k.measures[code]?

/-- A measure's code within its kind. -/
def Measure.code : Measure → Nat
  | .lb => 0 | .lst => 1 | .li => 2 | .gcur => 3 | .rho => 4 | .clips => 5 | .lipSync => 6 | .belowGate => 7
  | .deviation => 0 | .slips => 1 | .framing => 2 | .fill => 3 | .grade => 4
  | .refState => 0 | .freePages => 0

/-- A selection byte. Bits 4 to 7, which 11.2 leaves out, are ignored (the model's choice, log 54). -/
def Selection.ofCode (n : Nat) : Selection :=
  { li := n.testBit 0, rho := n.testBit 1, words := n.testBit 2, delays := n.testBit 3 }

/-! ## Codes of notices (11.4, R25) -/

def RefState.code : RefState → Nat
  | .free => 0 | .locked => 1 | .holdover => 2 | .relock => 3

def LaneState.code : LaneState → Nat
  | .absent => 0 | .detect => 1 | .sense => 2 | .rejected => 3 | .waitingBudget => 4 | .running => 5 | .disabled => 6

def RateClass.code : RateClass → Nat
  | .unknown => 0 | .k32 => 1 | .k44 => 2 | .k48 => 3 | .k88 => 4 | .k96 => 5

def Source.kindCode : Source → Nat
  | .programme _ => 0 | .lane _ => 1 | .reference => 2 | .pool => 3 | .link => 4 | .profile => 5

def Source.number : Source → Nat
  | .programme p => p.val
  | .lane l => l.val
  | _ => 0

def AlarmChange.code : AlarmChange → Nat
  | .raised => 1 | .cleared => 2 | .acknowledged => 3

def DoneKind.code : DoneKind → Nat
  | .none => 0 | .glide => 1 | .jump => 2

def StoreOutcome.code : StoreOutcome → Nat
  | .none => 0 | .succeeded => 1 | .failed => 2

def StoreStage.code : StoreStage → Nat
  | .none => 0 | .body => 1 | .header => 2

def Selection.code (s : Selection) : Nat := flagBit s.li 0 + flagBit s.rho 1 + flagBit s.words 2 + flagBit s.delays 3

/-- The alarm id, 0 to 74. -/
def AlarmId.code : AlarmId → Nat
  | .watch w => w.val
  | .refLost => 32
  | .laneLost l => 33 + l.val
  | .laneRejected l => 41 + l.val
  | .slip l => 49 + l.val
  | .delayDeficit p => 57 + p.val
  | .noticeLoss => 73
  | .profileFault => 74

/-- The status code of a reply head (11.1). -/
def Status.code : Status → Nat
  | .ok => 0 | .clamped => 1 | .busy => 2 | .noObject => 3 | .conflict => 4 | .state => 5 | .format => 6

end Sys2Proof.Machine
end

