-- ==== Sys2Proof/Machine/Replies.lean ====
section
/-! DEFINITION. Replies.lean: the figures of every reply body, in the order the rule that owns the request lists them, each written
as chapter 11 writes a figure of its sort (R195), where it says (log 29). -/
namespace Sys2Proof.Machine

/-! ## Values that can be absent (R195) -/

/-- An absent 2-byte level, 1-byte correlation, 2-byte count and 4-byte delay (R195). -/
def levelBytes (v : Option Int) : List Byte := bytes2 (v.getD 0x8000)
def rhoBytes (v : Option Int) : List Byte := bytes1 (v.getD 0x80)
def countBytes (v : Option Nat) : List Byte := bytes2 (v.getD 0xFFFF)
def delayBytes (v : Option Nat) : List Byte := bytes4 (v.getD 0xFFFFFFFF)

/-- An entry of an ALARM_LIST reply: a fixed 15 bytes (11.4). -/
def AlarmEntry.listBytes (e : AlarmEntry) : List Byte :=
  bytes1 e.id.code ++ bytes1 e.severity ++ bytes1 e.source.kindCode ++ bytes1 e.source.number
    ++ bytes1 (flagBit e.acked 0 + flagBit e.observed.isSome 1 : Nat) ++ bytes6 e.raised ++ bytes4 (e.observed.getD 0)

/-! ## Sorts of figures -/

/-- The figures of one value, or of several in their order. -/
abbrev Figures := List Config.ReplyFigure

/-- A code of chapter 11's tables, or an object's number: one byte (11.2, 11.4). -/
def Figures.code (n : Nat) : Figures := [.laid (bytes1 n)]
def Figures.flag (b : Bool) : Figures := [.laid (bytes1 (flagBit b 0))]
/-- A programme, or none as 0xFF (11.2). -/
def Figures.progOrNone (p : Option ProgId) : Figures := [.laid (bytes1 ((p.map (·.val)).getD 0xFF))]
/-- A signed byte: a slew, the band (11.2). -/
def Figures.byte (v : Int) : Figures := [.laid (bytes1 v)]
/-- A setting or a count of 2 bytes (11.2, 11.4). -/
def Figures.half (v : Int) : Figures := [.laid (bytes2 v)]
/-- A level or a gain in tenths, or absent (R195). -/
def Figures.level (v : Option Int) : Figures := [.laid (levelBytes v)]
def Figures.rho (v : Option Int) : Figures := [.laid (rhoBytes v)]
/-- A 2-byte count, or absent (R195). -/
def Figures.count (v : Option Nat) : Figures := [.laid (countBytes v)]
/-- A delay, or absent (R195). -/
def Figures.delay (v : Option Nat) : Figures := [.laid (delayBytes v)]
/-- A number of 4 bytes: a trim, a lip-sync error, a threshold, a block index, a store count (11.2, 11.4). -/
def Figures.full (v : Int) : Figures := [.laid (bytes4 v)]
/-- A frame clock value or a stamp (R195). -/
def Figures.stamp (v : Int) : Figures := [.laid (bytes6 v)]
/-- A number whose width in a reply the spec does not state. -/
def Figures.num (n : Nat) : Figures := [.number n]
/-- An entry of the alarm table (11.4). -/
def Figures.alarmEntry (e : AlarmEntry) : Figures := [.laid e.listBytes]

/-- A value that can be absent and has no absent code is an optional group: a presence byte, and the value when it is present (R195;
that a reply's figure is such a group is log 29's). -/
def Figures.group {α : Type} (write : α → Figures) : Option α → Figures
  | some v => .laid (bytes1 (flagBit true 0)) :: write v
  | none => [.laid (bytes1 (flagBit false 0))]

/-! ## States to which the spec gives no code: numbered in the order the spec names them (log 29) -/

def Grade.number : Grade → Nat
  | .none => 0 | .good => 1 | .weak => 2 | .dead => 3

def GaugeMode.number : GaugeMode → Nat
  | .timed => 0 | .opened => 1 | .closed => 2

def ConvMode.number : ConvMode → Nat
  | .none => 0 | .full => 1 | .short => 2 | .bypass => 3

def LaneFade.number : LaneFade → Nat
  | .none => 0 | .fadeOut => 1 | .fadeIn => 2

def ProgState.number : ProgState → Nat
  | .undefined => 0 | .waiting => 1 | .running => 2 | .releasing => 3

def ChangeState.number : ChangeState → Nat
  | .steady => 0 | .gliding => 1 | .fadeOut => 2 | .filling => 3 | .fadeIn => 4

def ChangeKind.number : ChangeKind → Nat
  | .glide => 1 | .jump => 2

def WatchState.number : WatchState → Nat
  | .off => 0 | .quiet => 1 | .rising => 2 | .raised => 3 | .falling => 4

def LoadOutcome.number : LoadOutcome → Nat
  | .loading => 0 | .valid => 1 | .noAnswer => 2 | .checkFailed => 3

def Tracking.number : Tracking → Nat
  | .acquire => 0 | .track => 1

def ConflictKind.number : ConflictKind → Nat
  | .inputRange => 0 | .outputRange => 1 | .inputTaken => 2 | .inputRepeated => 3 | .outputTaken => 4 | .outputRepeated => 5

/-! ## The figures of each reply -/

open Figures in
/-- R179. -/
def StatusReply.figures (r : StatusReply) : Figures :=
  [num r.lineRate, num r.credit, num r.loss, num r.frameErrors, num r.noticeCount, num r.requestCount,
    code r.refState.code, flag r.latch, stamp r.clock, num r.tapsInUse, num r.freeTaps,
    num r.admission.length, r.admission.flatMap (fun l => code l.val),
    num r.freePages, group num (r.headPage.map (·.val)), num r.wait.length, r.wait.flatMap (fun p => code p.val),
    code r.majorLevel, flag r.freeze, flag r.major, flag r.minor, num r.alarms, num r.unacked, group code r.highest,
    progOrNone r.selected, flag r.follow, progOrNone r.monitored, num r.load.number, flag r.storing].flatten

open Figures in
/-- The five lane settings (R17). -/
def LaneSettings.figures (x : LaneSettings) : Figures :=
  [flag x.enabled, code x.preference.code, flag x.bypassAllowed, half x.tolerance, flag x.openCounting].flatten

open Figures in
/-- R19, R43. The fade position, which is absent while no fade is in flight, is an optional group (the model's choice, log 29). -/
def LaneReply.figures (r : LaneReply) : Figures :=
  [code r.state.code, code r.settled.code, code r.active.toNat, num r.grade.number, num r.deadRun, num r.senseGates,
    num r.mode.number, flag r.gateOpen, num r.count.toNat, num r.history.length, r.history.flatMap (fun c => num c.toNat),
    num r.framing, num r.invalid, flag r.activity, r.settings.figures, num r.granted.number, num r.effective.number,
    flag r.forced, num r.tracking.number, num r.acquisition, num r.ratio, group num r.settling, num r.fill, num r.latency,
    num r.slipCount, num r.slipsInGate, num r.gatesSinceSlip, num r.fade.number, group num r.fadePos,
    group num r.place].flatten

open Figures in
/-- A member in PROG_QUERY (R58, R103). -/
def MemberReply.figures (m : MemberReply) : Figures :=
  [code m.spec.lane.val, code m.spec.slot.val, code m.spec.role.code, code m.weight.code, flag m.spec.weight.isSome,
    group (fun o => code o.1.val ++ code o.2.val) m.spec.placement, flag m.laneRunning, flag m.slotActive,
    group full m.tap, num m.latency].flatten

open Figures in
/-- R58, R81, R103. A current delay and a tap are counts of 1/64 frames. -/
def ProgReply.figures (r : ProgReply) : Figures :=
  [num r.state.number, num r.members.length, r.members.flatMap MemberReply.figures,
    stamp r.inputStamp, group stamp r.outputStamp, delay (some r.video), full r.trim, delay (some r.requested),
    delay r.pending, code r.method.code, half r.glideLimit, delay r.funded, delay r.current, num r.change.number,
    group (fun k => code k.number) r.kind, group num r.fadePos, group num r.fill, flag r.ahead, group full r.lipSync,
    group num r.releasePos, group num r.entryLevel, num r.pagesPerChannel, num r.pagesHeld, delay r.holding,
    group num r.place, num r.outstanding, delay (some r.deficit)].flatten

open Figures in
/-- R86. -/
def DelayReply.figures (r : DelayReply) : Figures :=
  [delay (some r.video), full r.trim, delay (some r.requested), num r.change.number, delay r.funded, delay r.pending].flatten

open Figures in
/-- The correction settings (7.2). -/
def GainSettings.figures (g : GainSettings) : Figures :=
  [half g.target, half g.gmax, half g.gmin, byte g.upSlew, byte g.downSlew, byte g.band, half g.g0].flatten

open Figures in
/-- The meter's settings (6.1). -/
def meterFigures (window : Nat) (relGate : Int) (minCount : Nat) : Figures :=
  [half window, half relGate, half minCount].flatten

open Figures in
/-- R126, R129. -/
def LoudSetReply.figures (r : LoudSetReply) : Figures :=
  [meterFigures r.window r.relGate r.minCount, r.settings.figures, level r.gcur, group flag r.moving].flatten

open Figures in
/-- The gate figures of the last block completion, each absent when there is none (R116, R117). -/
def gateFigures (g : Option GateFigures) : Figures :=
  [level (g.map (·.lr)), level (g.map (·.theta)), count (g.map (·.nTheta))].flatten

open Figures in
/-- The last results (R127): Lb, the two flags, Lst, LI and ρ, each as last computed or absent. The two flags are one byte, at their
bits in METER's flags, and one optional group (the model's choice, log 29). -/
def resultFigures (b : Option BlockResults) : Figures :=
  [level (b.map (·.lb)), group (fun b => code (flagBit b.overload 1 + flagBit b.belowGate 2)) b, level (b.bind (·.lst)),
    level (b.bind (·.li)), rho (b.bind (·.rho))].flatten

open Figures in
/-- R127, R149. A member count precedes the energy words, each member's own count its words, and a length the cues (log 29). -/
def LoudReply.figures (r : LoudReply) : Figures :=
  [meterFigures r.window r.relGate r.minCount, flag r.paused, num r.subBlocks, num r.frameCount, full r.blockIndex,
    num r.recorded, num r.total, gateFigures r.gate, resultFigures r.results,
    num r.words.length, r.words.flatMap (fun ws => num ws.length ++ ws.flatMap fun w => half w.toNat),
    r.settings.figures, level r.gcur, flag r.moving, level r.desired, level r.applied, num r.factor, num r.rampStart,
    num r.rampEnd, num r.rampPos, num r.cues.length, r.cues.flatMap (fun c => stamp c.position ++ level (some c.gain)),
    full r.clips].flatten

open Figures in
/-- A watch record, in record order (11.2). -/
def WatchRecord.figures (r : WatchRecord) : Figures :=
  [flag r.enable, code r.object.kind.code, code r.object.number, code r.measure.code, full r.threshold, code r.sense.code,
    code r.mode.code, half r.raiseCount, half r.clearCount, code r.severity, flag r.freezeEnable].flatten

open Figures in
/-- R171. -/
def WatchReply.figures (r : WatchReply) : Figures :=
  [r.watch.record.figures, num r.watch.state.number, num r.watch.run, num r.watch.entries, num r.watch.quiet,
    flag r.watch.lastQualified, group full r.watch.lastValue, group (fun t : Nat => stamp t) r.watch.lastStamp,
    group alarmEntry r.entry, flag r.freeze, code r.majorLevel].flatten

open Figures in
/-- R194. -/
def ProfileReply.figures (r : ProfileReply) : Figures :=
  [num r.outcome.number, half r.bodyLength, num r.defined, num r.skipped, full r.storeCount, code r.lastStore.code,
    flag r.storing].flatten

open Figures in
/-- The figures of a reply body, none of a reply that carries its head alone. -/
def ReplyBody.figures : ReplyBody → Figures
  | .empty => []
  | .status r => r.figures
  | .credit taken total => num taken ++ num total
  | .lane r => r.figures
  | .tolerance taken => half taken
  | .defined state => num state.number
  | .conflict member kind holder => num member ++ num kind.number ++ progOrNone holder
  | .prog r => r.figures
  | .videoLatency r => r.figures
  | .delaySet r method limit => r.figures ++ code method.code ++ half limit
  | .loudSet r => r.figures
  | .paused set => flag set
  | .loud r => r.figures
  | .report period selection => half period ++ code selection.code
  | .watchSet w major => group (fun w => w.1.figures ++ num w.2.number) w ++ code major
  | .watch r => r.figures
  | .alarms total entries => num total ++ entries.flatMap alarmEntry
  | .alarm e => alarmEntry e
  | .freeze set => flag set
  | .monitor selected follow monitored => progOrNone selected ++ flag follow ++ progOrNone monitored
  | .store bodyLength storeCount => half bodyLength ++ full storeCount
  | .profile r => r.figures

/-! ## The bytes of a reply -/

/-- The longest body of a frame (R174). -/
def frameRoom : Nat := 1024

/-- A number in this many bytes, most significant first (R195). -/
def bytesOf : Nat → Nat → List Byte
  | 0, _ => []
  | k + 1, n => bytesOf k (n / 2 ^ 8) ++ [BitVec.ofNat 8 n]

/-- The widest number of a reply that is padded: 8 bytes hold every count of the part. -/
def widestNumber : Nat := 8

/-- A figure's bytes: a number takes the bytes it needs, one at least, or the width given where that is more (log 29). -/
def figureBytes (width : Nat) : Config.ReplyFigure → List Byte
  | .laid bytes => bytes
  | .number n => bytesOf (max (n.log2 / 8 + 1) (min width widestNumber)) n

/-- The figures of a reply to a request of this kind, each in its bytes, in order. -/
def Figures.bytes (kind : Byte) (fs : Figures) : List Byte :=
  (fs.mapIdx fun place f => figureBytes (Config.replyWidth kind.toNat fs place) f).flatten

/-- A reply's body: the status code, the kind answered, and the owner's body, which is empty where it carries no figure (11.1). -/
def Reply.bodyBytes (r : Reply) : List Byte :=
  (bytes1 r.status.code ++ [r.kind] ++ r.body.figures.bytes r.kind).take frameRoom

end Sys2Proof.Machine
end

