-- ==== Sys2Proof/Machine/Frames.lean ====
section
/-! DEFINITION. Frames.lean: the bytes of the control link: the check, the frame, the notice bodies and the replies (R174, R195, 11.1,
11.4), and the receiver that finds frames among the bytes received (R175). -/
namespace Sys2Proof.Machine

/-! ## The check (R174) -/

/-- One bit of the CRC-16 register, generator x^16 + x^12 + x^5 + 1. -/
def crc16Bit (r : BitVec 16) : BitVec 16 := if r.msb then (r <<< 1) ^^^ 0x1021#16 else r <<< 1

def crc16Bits : Nat → BitVec 16 → BitVec 16
  | 0, r => r
  | n + 1, r => crc16Bits n (crc16Bit r)

/-- CRC-16 over bytes, most significant bit first, from a register value. -/
def crc16From (r : BitVec 16) : List Byte → BitVec 16
  | [] => r
  | b :: rest => crc16From (crc16Bits 8 (r ^^^ (b.setWidth 16 <<< 8))) rest

def crc16 (bytes : List Byte) : BitVec 16 := crc16From 0xFFFF#16 bytes

/-! ## Frames (11.1) -/

def syncByte : Byte := 0x7E

/-- A frame of this kind, tag and body. -/
def frameBytes (kind tag : Byte) (body : List Byte) : List Byte :=
  let covered := bytes2 body.length ++ [kind, tag] ++ body
  syncByte :: covered ++ bytes2 (crc16 covered).toNat

/-! ## Notice bodies (11.4) -/

/-- A METER body. -/
def MeterReport.body (r : MeterReport) : List Byte :=
  bytes1 r.prog.val ++ bytes1 r.selection.code ++ bytes6 r.clock ++ bytes4 r.blockIndex
    ++ bytes1 (flagBit r.results.paused 0 + flagBit r.results.overload 1 + flagBit r.results.belowGate 2 : Nat)
    ++ bytes2 r.results.lb ++ levelBytes r.results.lst ++ bytes2 r.gcur ++ bytes4 r.clips
    ++ (if r.selection.li then levelBytes r.results.li ++ countBytes r.nTheta else [])
    ++ (if r.selection.rho then rhoBytes r.results.rho else [])
    ++ (if r.selection.words then bytes1 r.words.length ++ r.words.flatMap (fun ws => ws.flatMap fun w => bytes2 w.toNat) else [])
    ++ (if r.selection.delays then
          bytes4 r.current ++ bytes4 r.requested ++ bytes4 r.funded ++ delayBytes r.pending ++ bytes4 r.lipSync
        else [])

/-- A notice's kind code. -/
def Notice.kindCode : Notice → Byte
  | .alarm _ _ _ => 0x90
  | .ref _ _ _ _ => 0x91
  | .lane _ _ _ _ _ _ => 0x92
  | .doneDelay _ _ _ _ _ _ _ => 0x93
  | .doneStore _ _ _ _ _ _ => 0x93
  | .meter _ => 0x94

/-- A notice's body. -/
def Notice.body : Notice → List Byte
  | .alarm e change clock =>
    bytes1 e.id.code ++ bytes1 change.code ++ bytes1 e.severity ++ bytes1 e.source.kindCode ++ bytes1 e.source.number
      ++ bytes1 (flagBit e.acked 0 + flagBit e.observed.isSome 1 : Nat) ++ bytes6 e.raised ++ bytes6 clock
      ++ (match e.observed with | some v => bytes4 v | none => [])
  | .ref new left latch clock => bytes1 new.code ++ bytes1 left.code ++ bytes1 (flagBit latch 0) ++ bytes6 clock
  | .lane l new left settled active clock =>
    bytes1 l.val ++ bytes1 new.code ++ bytes1 left.code ++ bytes1 settled.code ++ bytes1 active.toNat ++ bytes6 clock
  | .doneDelay p reached requested funded deficit kind clock =>
    bytes1 0 ++ bytes1 p.val ++ bytes4 reached ++ bytes4 requested ++ bytes4 funded ++ bytes4 deficit ++ bytes1 kind.code
      ++ bytes6 clock
  | .doneStore outcome storeCount bodyLength stage address clock =>
    bytes1 1 ++ bytes1 outcome.code ++ bytes4 storeCount ++ bytes2 bodyLength ++ bytes2 0 ++ bytes1 stage.code ++ bytes1 0
      ++ bytes2 address.toNat ++ bytes4 0 ++ bytes1 0 ++ bytes6 clock
  | .meter r => r.body

/-- A notice's frame, under tag 0 (R195). -/
def Notice.frame (n : Notice) : List Byte := frameBytes n.kindCode 0 n.body

/-! ## Replies (11.1) -/

/-- A reply's kind code. -/
def replyKind : Byte := 0x80

/-- A reply's frame, under the tag of the request it answers (R177, R195). -/
def Reply.frame (r : Reply) : List Byte := frameBytes replyKind r.tag r.bodyBytes

/-! ## The receiver (R175) -/

/-- What stands after a sync byte. -/
inductive FrameAt where
  /-- The frame is not yet whole. -/
  | incomplete
  /-- Its length exceeds 1024 or its check fails: it is dropped. -/
  | bad
  /-- It passes the check; `size` bytes follow the sync byte. -/
  | good (size : Nat) (kind tag : Byte) (body : List Byte)
  deriving DecidableEq, Repr

/-- Judge the bytes after a sync byte: the length when its second byte is there, the check when the frame is whole. -/
def frameAt : List Byte → FrameAt
  | hi :: lo :: rest =>
    let n := hi.toNat * 256 + lo.toNat
    if 1024 < n then .bad
    else
      match rest, (rest.drop (n + 2)).take 2 with
      | kind :: tag :: _, [c1, c0] =>
        if crc16 (hi :: lo :: rest.take (n + 2)) = c1 ++ c0 then .good (n + 6) kind tag ((rest.drop 2).take n) else .bad
      | _, _ => .incomplete
  | _ => .incomplete

/-- What the receiver makes of bytes: the frames received whole, how many were dropped, the frame still in progress. -/
structure Received where
  frames : List Request
  dropped : Nat
  left : List Byte
  deriving DecidableEq, Repr

/-- One more frame dropped before these. -/
def Received.afterDrop (r : Received) : Received := { r with dropped := r.dropped + 1 }

/-- One more frame received whole before these. -/
def Received.afterFrame (r : Received) (f : Request) : Received := { r with frames := f :: r.frames }

/-- Hunt for frames. A dropped frame's bytes after its sync byte are hunted through again. With `gap`, no byte can follow: a frame
in progress is dropped too. The first argument counts bytes of a frame already received whole. -/
def hunt (gap : Bool) : List Byte → Nat → Received
  | [], _ => { frames := [], dropped := 0, left := [] }
  | _ :: rest, n + 1 => hunt gap rest n
  | b :: rest, 0 =>
    if b ≠ syncByte then hunt gap rest 0
    else
      match frameAt rest with
      | .incomplete => if gap then (hunt gap rest 0).afterDrop else { frames := [], dropped := 0, left := b :: rest }
      | .bad => (hunt gap rest 0).afterDrop
      | .good size kind tag body =>
        (hunt gap rest size).afterFrame { kind := kind, tag := tag, body := body, reply := none }

/-- A request received whole joins the queue, or gets a BUSY reply, or is discarded and counted (R176). -/
def Lnk.join (l : Lnk) (r : Request) : Lnk :=
  if l.requests.length < Config.requestPlaces then { l with requests := l.requests ++ [r] }
  else if l.busy.length < Config.requestPlaces then
    { l with
      busy := l.busy ++ [{ tag := r.tag, status := .busy, kind := r.kind, body := .empty, formed := l.formed, endsTraffic := false }]
      formed := l.formed + 1 }
  else { l with frameErrors := satSucc 65535 l.frameErrors }

/-- The receiver takes bytes, or (with `gap`) drops the frame in progress. -/
def Lnk.receive (gap : Bool) (bytes : List Byte) (l : Lnk) : Lnk :=
  let r := hunt gap (l.rx ++ bytes) 0
  r.frames.foldl Lnk.join { l with rx := r.left, frameErrors := min 65535 (l.frameErrors + r.dropped) }

end Sys2Proof.Machine
end

