-- ==== Sys2Proof/Machine/Transmitter.lean ====
section
/-! DEFINITION. Transmitter.lean: keys and classes of notices (9.6), and what the transmitter sends next (R178). -/
namespace Sys2Proof.Machine

/-! ## Keys and classes (R182) -/

/-- A notice's key. -/
def Notice.key : Notice → NoticeKey
  | .alarm e _ _ => .alarm e.id
  | .ref _ _ _ _ => .ref
  | .lane l _ _ _ _ _ => .lane l
  | .doneDelay p _ _ _ _ _ _ => .doneDelay p
  | .doneStore _ _ _ _ _ _ => .doneStore
  | .meter r => .meter r.prog

/-- A notice's priority class: the higher number is sent first (R182). -/
def Notice.rank : Notice → Nat
  | .alarm e _ _ => 3 + e.severity
  | .ref _ _ _ _ => 3
  | .lane _ _ _ _ _ _ => 2
  | .doneDelay _ _ _ _ _ _ _ => 1
  | .doneStore _ _ _ _ _ _ => 1
  | .meter _ => 0

def Notice.isMeter : Notice → Bool
  | .meter _ => true
  | _ => false

/-! ## The transmitter (R178) -/

/-- The first of the highest priority class present: the notice that stands first in send order (R182). -/
def firstInSendOrder : List Notice → Option Notice
  | [] => none
  | n :: rest =>
    match firstInSendOrder rest with
    | none => some n
    | some m => if n.rank < m.rank then some m else some n

/-- The reply of the oldest entry of the request queue, when it has one. -/
def Lnk.queueReply (l : Lnk) : Option Reply := l.requests.head?.bind (·.reply)

/-- What the transmitter begins when it is idle and chooses (R178). -/
def Lnk.choose (l : Lnk) : Lnk :=
  match l.queueReply, l.busy.head? with
  | some r, some b =>
    if b.formed < r.formed then { l with tx := some (.busyReply b b.frame) } else { l with tx := some (.queueReply r r.frame) }
  | some r, none => { l with tx := some (.queueReply r r.frame) }
  | none, some b => { l with tx := some (.busyReply b b.frame) }
  | none, none =>
    match firstInSendOrder l.notices with
    | none => l
    | some n =>
      if l.credit = 0 then l
      else { l with tx := some (.notice n n.frame), credit := l.credit - 1, notices := l.notices.erase n }

/-- An idle transmitter chooses the next frame, but not once the RESTART reply has ended the link's traffic (R178, R181). -/
def Lnk.transmit (l : Lnk) : Lnk := if l.tx.isSome ∨ l.restart = .due then l else l.choose

/-- The frame being sent has ended (R178): a reply leaves its place; the end of the RESTART reply brings the restart (R181). -/
def Lnk.endFrame (l : Lnk) : Lnk :=
  match l.tx with
  | none => l
  | some (.queueReply r _) =>
    { l with tx := none, requests := l.requests.tail, restart := if r.endsTraffic then .due else l.restart }
  | some (.busyReply _ _) => { l with tx := none, busy := l.busy.tail }
  | some (.notice _ _) => { l with tx := none }

end Sys2Proof.Machine
end

