-- ==== Sys2Proof/Machine/Flags.lean ====
section
/-! DEFINITION. Flags.lean: the part's condition flags: the alarm table with the lines and the monitor choice that follow it, the
notice queue every change is reported to, and the watches' judgements (chapter 8, 9.6). -/
namespace Sys2Proof.Machine

/-! ## Alarms (R159) -/

/-- Every alarm, in order of id. -/
def allAlarms : List AlarmId :=
  allWatches.map .watch ++ [.refLost] ++ allLanes.map .laneLost ++ allLanes.map .laneRejected ++ allLanes.map .slip
    ++ allProgs.map .delayDeficit ++ [.noticeLoss, .profileFault]

/-- The alarm of an id, none above 74. -/
def AlarmId.ofCode (n : Nat) : Option AlarmId := allAlarms.find? fun a => a.code == n

/-- The fixed severity of a system alarm (R159); a watch alarm's is its watch's. -/
def AlarmId.systemSeverity : AlarmId → Nat
  | .watch _ => 0
  | .refLost => 7
  | .laneLost _ => 6
  | .laneRejected _ => 5
  | .slip _ => 4
  | .delayDeficit _ => 5
  | .noticeLoss => 2
  | .profileFault => 3

/-- The source of a system alarm (R159); a watch alarm's is its watch's source object. -/
def AlarmId.systemSource : AlarmId → Source
  | .watch _ => .reference
  | .refLost => .reference
  | .laneLost l => .lane l
  | .laneRejected l => .lane l
  | .slip l => .lane l
  | .delayDeficit p => .programme p
  | .noticeLoss => .link
  | .profileFault => .profile

/-- A watch's source object as an alarm's source. -/
def WatchObject.source : WatchObject → Source
  | .programme p => .programme p
  | .lane l => .lane l
  | .reference => .reference
  | .pool => .pool

/-! ## The notice queue (R182 to R184) -/

/-- The lowest priority class of a queue, starting from a bound. -/
def lowestRank (bound : Nat) (q : List Notice) : Nat := q.foldl (fun r n => min r n.rank) bound

/-- A notice offered to the notice queue: the queue after, and whether a notice was discarded (R182, R183). -/
def offerTo (q : List Notice) (n : Notice) : List Notice × Bool :=
  if q.any (fun m => m.key == n.key) then (q.map fun m => if m.key = n.key then n else m, false)
  else if q.length < Config.noticePlaces then (q ++ [n], false)
  else if q.any Notice.isMeter then (q.eraseP Notice.isMeter ++ [n], true)
  else if n.isMeter then (q, true)
  else
    let low := lowestRank n.rank q
    if low < n.rank then (q.eraseP (fun m => m.rank == low) ++ [n], true) else (q, true)

/-- Offer a notice: the queue takes it as it can, and an idle transmitter chooses at once (R178); whether one was discarded. -/
def Panel.enqueue (n : Notice) (v : Panel) : Panel × Bool :=
  let r := offerTo v.lnk.notices n
  ({ v with lnk := ({ v.lnk with notices := r.1 } : Lnk).transmit }, r.2)

/-- The loss count rises by one, to at most 65,535 (R184). -/
def Panel.countLoss (v : Panel) : Panel := { v with lnk := { v.lnk with loss := satSucc 65535 v.lnk.loss } }

/-! ## The alarm table, the lines and the monitor (R160, R161, R165, R168) -/

/-- MAJOR and MINOR as the table and the major level give them (R165). -/
def Wch.settleLines (w : Wch) : Wch :=
  { w with
    major := w.table.any fun e => !e.acked && decide (w.majorLevel ≤ e.severity)
    minor := !w.table.isEmpty }

/-- The programme an entry names for alarm follow, when it qualifies (R168). -/
def AlarmEntry.follows (e : AlarmEntry) : Option ProgId :=
  match e.source with
  | .programme p => if e.acked then none else some p
  | _ => none

/-- Whether the first entry is heard before the second: severity, then the later stamp, then the higher id (R168). -/
def AlarmEntry.heardBefore (a b : AlarmEntry) : Bool :=
  if a.severity ≠ b.severity then decide (b.severity < a.severity)
  else if a.raised ≠ b.raised then decide (b.raised < a.raised)
  else decide (b.id.code < a.id.code)

/-- The qualifying entry that alarm follow takes. -/
def followedEntry (table : List AlarmEntry) : Option AlarmEntry :=
  (table.filter fun e => e.follows.isSome).foldl
    (fun best e => match best with
      | none => some e
      | some b => if e.heardBefore b then some e else some b) none

/-- The monitored programme decided afresh (R168). -/
def Wch.decideMonitor (w : Wch) : Wch :=
  { w with
    monitored :=
      match (if w.follow then followedEntry w.table else none) with
      | some e => e.follows
      | none => w.selected }

/-- The lines and the monitor take a change of the table into account. -/
def Wch.followTable (w : Wch) : Wch := w.settleLines.decideMonitor

/-- Whether an alarm is raised: whether the table holds its entry (R161). -/
def Wch.isRaised (w : Wch) (id : AlarmId) : Bool := w.table.any fun e => e.id == id

/-- The entry of a raised alarm. -/
def Wch.entry? (w : Wch) (id : AlarmId) : Option AlarmEntry := w.table.find? fun e => e.id == id

/-- Replace the table; the lines and the monitor follow. -/
def Panel.setTable (table : List AlarmEntry) (v : Panel) : Panel :=
  { v with wch := ({ v.wch with table := table } : Wch).followTable }

/-- A discard raises the loss count, and NOTICE_LOSS when it is not raised; its notice may itself be discarded, and there the
chain ends (R184). -/
def Panel.noteLoss (v : Panel) : Panel :=
  let v := v.countLoss
  if v.wch.isRaised .noticeLoss then v
  else
    let e : AlarmEntry := { id := .noticeLoss, severity := AlarmId.noticeLoss.systemSeverity, source := .link,
                            raised := v.now, acked := false, observed := none }
    let r := (v.setTable (v.wch.table ++ [e])).enqueue (.alarm e .raised v.now)
    if r.2 then r.1.countLoss else r.1

/-- Offer a notice (R182 to R184). -/
def Panel.offer (n : Notice) (v : Panel) : Panel :=
  let r := v.enqueue n
  if r.2 then r.1.noteLoss else r.1

/-- Create an entry and report it, unless the alarm is raised already (R157, R160). -/
def Panel.raiseEntry (e : AlarmEntry) (v : Panel) : Panel :=
  if v.wch.isRaised e.id then v else (v.setTable (v.wch.table ++ [e])).offer (.alarm e .raised v.now)

/-- Raise a system alarm (R160). -/
def Panel.raise (id : AlarmId) (v : Panel) : Panel :=
  v.raiseEntry { id := id, severity := id.systemSeverity, source := id.systemSource, raised := v.now, acked := false,
                 observed := none }

/-- Clear an alarm: remove its entry and report it with the content it held; nothing when it is not raised (R157, R160). -/
def Panel.clear (id : AlarmId) (v : Panel) : Panel :=
  match v.wch.entry? id with
  | none => v
  | some e => (v.setTable (v.wch.table.filter fun x => !(x.id == id))).offer (.alarm e .cleared v.now)

/-- Set a raised alarm's acknowledged flag and report it (R163). -/
def Panel.acknowledge (id : AlarmId) (v : Panel) : Panel :=
  match v.wch.entry? id with
  | none => v
  | some e =>
    if e.acked then v
    else
      (v.setTable (v.wch.table.map fun x => if x.id = id then { x with acked := true } else x)).offer
        (.alarm { e with acked := true } .acknowledged v.now)

/-! ## Watches (R152 to R158) -/

/-- What a judgement does to a watch's alarm. -/
inductive Verdict where
  | nothing | raise | clear
  deriving DecidableEq, Repr

/-- Whether a value qualifies (R152). -/
def WatchRecord.qualifies (r : WatchRecord) (value : Int) : Bool :=
  match r.sense with
  | .above => decide (r.threshold < value)
  | .below => decide (value < r.threshold)

/-- A LEVEL watch in QUIET or RISING (R153). -/
def Watch.levelRise (w : Watch) (q : Bool) : Watch × Verdict :=
  if q then
    if w.record.raiseCount ≤ w.run + 1 then ({ w with state := .raised, run := 0 }, .raise)
    else ({ w with state := .rising, run := w.run + 1 }, .nothing)
  else ({ w with state := .quiet, run := 0 }, .nothing)

/-- A watch of either mode in RAISED or FALLING (R154, R156). -/
def Watch.fall (w : Watch) (q : Bool) : Watch × Verdict :=
  if q then ({ w with state := .raised, run := 0 }, .nothing)
  else if w.record.clearCount ≤ w.run + 1 then ({ w with state := .quiet, run := 0 }, .clear)
  else ({ w with state := .falling, run := w.run + 1 }, .nothing)

/-- An EDGE watch in QUIET (R155). -/
def Watch.edgeQuiet (w : Watch) (isEntry : Bool) : Watch × Verdict :=
  if isEntry then
    if w.record.raiseCount ≤ 1 then ({ w with state := .raised, entries := 0, quiet := 0 }, .raise)
    else ({ w with state := .rising, entries := 1, quiet := 0 }, .nothing)
  else ({ w with entries := 0, quiet := 0 }, .nothing)

/-- An EDGE watch in RISING (R155, R156). -/
def Watch.edgeRise (w : Watch) (q isEntry : Bool) : Watch × Verdict :=
  if isEntry then
    if w.record.raiseCount ≤ w.entries + 1 then ({ w with state := .raised, entries := 0, quiet := 0 }, .raise)
    else ({ w with entries := w.entries + 1, quiet := 0 }, .nothing)
  else if q then ({ w with quiet := 0 }, .nothing)
  else if w.record.clearCount ≤ w.quiet + 1 then ({ w with state := .quiet, entries := 0, quiet := 0 }, .nothing)
  else ({ w with quiet := w.quiet + 1 }, .nothing)

/-- A watch acts on an observation it takes, by its state and mode (R153 to R156). -/
def Watch.act (w : Watch) (q : Bool) : Watch × Verdict :=
  let isEntry := q && !w.lastQualified
  match w.state, w.record.mode with
  | .off, _ => (w, .nothing)
  | .raised, _ => w.fall q
  | .falling, _ => w.fall q
  | .quiet, .level => ({ w with run := 0 } : Watch).levelRise q
  | .rising, .level => w.levelRise q
  | .quiet, .edge => w.edgeQuiet isEntry
  | .rising, .edge => w.edgeRise q isEntry

/-- A watch judges an observation it takes, and records it (R152). -/
def Watch.judge (w : Watch) (value : Int) (now : Nat) : Watch × Verdict :=
  let q := w.record.qualifies value
  let r := w.act q
  ({ r.1 with lastQualified := q, lastValue := some value, lastStamp := some now }, r.2)

/-- Replace a watch. -/
def Panel.setWatch (w : WatchId) (x : Watch) (v : Panel) : Panel :=
  { v with wch := { v.wch with watches := v.wch.watches.set w x } }

/-- The entry a watch raises (R157). -/
def Watch.entry (w : Watch) (id : WatchId) (value : Int) (now : Nat) : AlarmEntry :=
  { id := .watch id, severity := w.record.severity, source := w.record.object.source, raised := now, acked := false,
    observed := some value }

/-- One watch meets an observation event of an object, which carries these measures: it judges its own measure, unless that is
absent, or the freeze holds it (R151, R152). -/
def Panel.watchObserve (object : WatchObject) (values : Measure → Option Int) (v : Panel) (id : WatchId) : Panel :=
  let w := v.wch.watches[id]
  if w.record.object = object ∧ w.state ≠ .off ∧ ¬(v.wch.freeze ∧ w.record.freezeEnable) then
    match values w.record.measure with
    | none => v
    | some value =>
      let r := w.judge value v.now
      let v := v.setWatch id r.1
      match r.2 with
      | .nothing => v
      | .raise => v.raiseEntry (w.entry id value v.now)
      | .clear => v.clear (.watch id)
  else v

/-- An observation event: every watch on the object judges, each once (R151), in ascending number (the model's choice, log 51). -/
def Panel.observe (object : WatchObject) (values : Measure → Option Int) (v : Panel) : Panel :=
  allWatches.foldl (Panel.watchObserve object values) v

/-- A watch with this record at its start: QUIET when enabled, OFF when not, every count 0 (R150, R158, R170). -/
def WatchRecord.start (r : WatchRecord) : Watch :=
  { record := r, state := if r.enable then .quiet else .off, run := 0, entries := 0, quiet := 0, lastQualified := false,
    lastValue := none, lastStamp := none }

/-- Restart a watch with a record: its alarm is cleared when raised, under the entry it held (R158, R170). -/
def Panel.restartWatch (id : WatchId) (r : WatchRecord) (v : Panel) : Panel := (v.clear (.watch id)).setWatch id r.start

/-- A programme has become UNDEFINED: its enabled watches are restarted (R158), in ascending number (the model's choice, log 45). -/
def Panel.restartWatches (p : ProgId) (v : Panel) : Panel :=
  allWatches.foldl
    (fun v id =>
      let r := v.wch.watches[id].record
      if r.enable ∧ r.object = .programme p then v.restartWatch id r else v) v

end Sys2Proof.Machine
end

