-- ==== Sys2Proof/Machine/Operands.lean ====
section
/-! DEFINITION. Operands.lean: the operand forms: every request body (R196, 11.2) and every record of the profile image (11.6), read
from bytes, and the records written back as bytes. -/
namespace Sys2Proof.Machine

/-! ## Readers -/

/-- Reads a value from the front of some bytes and leaves the rest; none when they do not hold one. -/
abbrev Reader (α : Type) := List Byte → Option (α × List Byte)

def Reader.pure {α : Type} (a : α) : Reader α := fun bs => some (a, bs)

def Reader.fail {α : Type} : Reader α := fun _ => none

/-- One reader, then another that may look at what the first read. -/
def Reader.andThen {α β : Type} (r : Reader α) (f : α → Reader β) : Reader β := fun bs =>
  match r bs with
  | none => none
  | some (a, rest) => f a rest

def Reader.map {α β : Type} (f : α → β) (r : Reader α) : Reader β := r.andThen fun a => Reader.pure (f a)

/-- The bytes hold exactly one value. -/
def Reader.whole {α : Type} (r : Reader α) (bs : List Byte) : Option α :=
  match r bs with
  | some (a, []) => some a
  | _ => none

/-- n values in a row. -/
def Reader.times {α : Type} (r : Reader α) : Nat → Reader (List α)
  | 0 => Reader.pure []
  | n + 1 => r.andThen fun a => (Reader.times r n).map (a :: ·)

/-- A group that follows when its presence bit is set (R195). -/
def Reader.opt {α : Type} (present : Bool) (r : Reader α) : Reader (Option α) :=
  if present then r.map some else Reader.pure none

/-- Only a value that passes. -/
def Reader.check {α : Type} (ok : α → Bool) (r : Reader α) : Reader α := r.andThen fun a => if ok a then Reader.pure a else Reader.fail

def u8 : Reader Nat
  | b :: rest => some (b.toNat, rest)
  | [] => none

def u16 : Reader Nat := u8.andThen fun h => u8.map fun l => h * 256 + l

def u32 : Reader Nat := u16.andThen fun h => u16.map fun l => h * 65536 + l

def s8 : Reader Int := u8.map fun n => (BitVec.ofNat 8 n).toInt

def s16 : Reader Int := u16.map fun n => (BitVec.ofNat 16 n).toInt

def s32 : Reader Int := u32.map fun n => (BitVec.ofNat 32 n).toInt

/-- A code of a table: none for a value the table does not list. -/
def Reader.code {α : Type} (table : Nat → Option α) : Reader α := u8.andThen fun n =>
  match table n with
  | some a => Reader.pure a
  | none => Reader.fail

/-! ## Request bodies (11.2) -/

/-- A body with no byte. -/
def bodyEmpty : List Byte → Option Unit := (Reader.pure ()).whole

/-- A body of one byte: a lane, a programme, a watch, an alarm id, a position, an amount. -/
def bodyNumber : List Byte → Option Nat := u8.whole

/-- A body of one on or off code. -/
def bodyFlag : List Byte → Option Bool := (Reader.code boolOf).whole

/-- LANE_SET: the lane and the settings present. -/
structure LaneSetBody where
  lane : Nat
  enable : Option Bool
  preference : Option Preference
  bypassAllowed : Option Bool
  tolerance : Option Nat
  openCounting : Option Bool
  deriving DecidableEq, Repr

/-- Whether any setting is present; a LANE_SET with none is answered FORMAT (R17), whatever lane it names (the model's choice, log 41). -/
def LaneSetBody.any (b : LaneSetBody) : Bool :=
  b.enable.isSome || b.preference.isSome || b.bypassAllowed.isSome || b.tolerance.isSome || b.openCounting.isSome

def bodyLaneSet : List Byte → Option LaneSetBody :=
  (((u8.andThen fun lane => u8.andThen fun bits =>
      (Reader.opt (bits.testBit 0) (Reader.code boolOf)).andThen fun enable =>
      (Reader.opt (bits.testBit 1) (Reader.code Preference.ofCode)).andThen fun preference =>
      (Reader.opt (bits.testBit 2) (Reader.code boolOf)).andThen fun bypassAllowed =>
      (Reader.opt (bits.testBit 3) u16).andThen fun tolerance =>
      (Reader.opt (bits.testBit 4) (Reader.code boolOf)).map fun openCounting =>
        ({ lane := lane, enable := enable, preference := preference, bypassAllowed := bypassAllowed, tolerance := tolerance,
           openCounting := openCounting } : LaneSetBody)) : Reader LaneSetBody).check LaneSetBody.any).whole

/-- A member as a request or a profile record carries it: its numbers not yet judged (R47). -/
structure MemberBody where
  lane : Nat
  slot : Nat
  role : Role
  weight : Option Weight
  placement : Option (Nat × Nat)
  deriving DecidableEq, Repr

def readMember : Reader MemberBody :=
  u8.andThen fun lane => u8.andThen fun slot => (Reader.code Role.ofCode).andThen fun role => u8.andThen fun bits =>
    (Reader.opt (bits.testBit 0) (Reader.code Weight.ofCode)).andThen fun weight =>
    (Reader.opt (bits.testBit 1) (u8.andThen fun ol => u8.map fun os => (ol, os))).map fun placement =>
      { lane := lane, slot := slot, role := role, weight := weight, placement := placement }

/-- A member count of 1 to 8, and the members (R48). -/
def readMembers : Reader (List MemberBody) :=
  (u8.check fun n => decide (1 ≤ n) && decide (n ≤ 8)).andThen fun n => Reader.times readMember n

def bodyProgDefine : List Byte → Option (Nat × List MemberBody) :=
  Reader.whole (u8.andThen fun p => readMembers.map fun ms => (p, ms))

/-- DELAY_SET: programme and the fields present. -/
structure DelaySetBody where
  prog : Nat
  trim : Option Int
  method : Option ChangeMethod
  glideLimit : Option Nat
  deriving DecidableEq, Repr

/-- Whether any field is present; a DELAY_SET with none is answered FORMAT (R88). -/
def DelaySetBody.any (b : DelaySetBody) : Bool := b.trim.isSome || b.method.isSome || b.glideLimit.isSome

def bodyDelaySet : List Byte → Option DelaySetBody :=
  (((u8.andThen fun p => u8.andThen fun bits =>
      (Reader.opt (bits.testBit 0) s32).andThen fun trim =>
      (Reader.opt (bits.testBit 1) (Reader.code ChangeMethod.ofCode)).andThen fun method =>
      (Reader.opt (bits.testBit 2) u16).map fun glideLimit =>
        ({ prog := p, trim := trim, method := method, glideLimit := glideLimit } : DelaySetBody)) :
      Reader DelaySetBody).check DelaySetBody.any).whole

/-- VIDEO_LATENCY: programme and latency. -/
def bodyVideoLatency : List Byte → Option (Nat × Nat) := Reader.whole (u8.andThen fun p => u32.map fun v => (p, v))

/-- The loudness settings present, the meter's and the gain controller's. -/
structure LoudBody where
  window : Option Int
  relGate : Option Int
  minCount : Option Int
  target : Option Int
  gmax : Option Int
  gmin : Option Int
  upSlew : Option Int
  downSlew : Option Int
  band : Option Int
  g0 : Option Int
  deriving DecidableEq, Repr

/-- Whether any setting is present; a LOUD_SET with none is answered FORMAT (R126). -/
def LoudBody.any (b : LoudBody) : Bool :=
  b.window.isSome || b.relGate.isSome || b.minCount.isSome || b.target.isSome || b.gmax.isSome || b.gmin.isSome
    || b.upSlew.isSome || b.downSlew.isSome || b.band.isSome || b.g0.isSome

/-- The ten settings whose presence bits are set, all signed (11.2). -/
def readLoud (bits : Nat) : Reader LoudBody :=
  (Reader.opt (bits.testBit 0) s16).andThen fun window =>
  (Reader.opt (bits.testBit 1) s16).andThen fun relGate =>
  (Reader.opt (bits.testBit 2) s16).andThen fun minCount =>
  (Reader.opt (bits.testBit 3) s16).andThen fun target =>
  (Reader.opt (bits.testBit 4) s16).andThen fun gmax =>
  (Reader.opt (bits.testBit 5) s16).andThen fun gmin =>
  (Reader.opt (bits.testBit 6) s8).andThen fun upSlew =>
  (Reader.opt (bits.testBit 7) s8).andThen fun downSlew =>
  (Reader.opt (bits.testBit 8) s8).andThen fun band =>
  (Reader.opt (bits.testBit 9) s16).map fun g0 =>
    { window := window, relGate := relGate, minCount := minCount, target := target, gmax := gmax, gmin := gmin,
      upSlew := upSlew, downSlew := downSlew, band := band, g0 := g0 }

def bodyLoudSet : List Byte → Option (Nat × LoudBody) :=
  Reader.whole ((u8.andThen fun p => u16.andThen fun bits => (readLoud bits).map fun b => (p, b)).check fun r => r.2.any)

/-- REPORT_SET: programme, period and selection as present; one with neither is answered FORMAT (R185). -/
def bodyReportSet : List Byte → Option (Nat × Option Nat × Option Selection) :=
  Reader.whole ((u8.andThen fun p => u8.andThen fun bits =>
      (Reader.opt (bits.testBit 0) u16).andThen fun period =>
      (Reader.opt (bits.testBit 1) (u8.map Selection.ofCode)).map fun selection => (p, period, selection)).check
    fun r => r.2.1.isSome || r.2.2.isSome)

/-- The fields of a watch record as present, the source object's number and the measure's code not yet judged (R170). -/
structure WatchBody where
  enable : Option Bool
  object : Option (ObjectKind × Nat)
  measure : Option Nat
  threshold : Option Int
  sense : Option Sense
  mode : Option WatchMode
  raiseCount : Option Nat
  clearCount : Option Nat
  severity : Option Nat
  freezeEnable : Option Bool
  deriving DecidableEq, Repr

/-- The measure codes that some kind lists. -/
def measureListed (n : Nat) : Bool := decide (n < 8)

def readWatch (bits : Nat) : Reader WatchBody :=
  (Reader.opt (bits.testBit 0) (Reader.code boolOf)).andThen fun enable =>
  (Reader.opt (bits.testBit 1) ((Reader.code ObjectKind.ofCode).andThen fun k => u8.map fun n => (k, n))).andThen fun object =>
  (Reader.opt (bits.testBit 2) (u8.check measureListed)).andThen fun measure =>
  (Reader.opt (bits.testBit 3) s32).andThen fun threshold =>
  (Reader.opt (bits.testBit 4) (Reader.code Sense.ofCode)).andThen fun sense =>
  (Reader.opt (bits.testBit 5) (Reader.code WatchMode.ofCode)).andThen fun mode =>
  (Reader.opt (bits.testBit 6) u16).andThen fun raiseCount =>
  (Reader.opt (bits.testBit 7) u16).andThen fun clearCount =>
  (Reader.opt (bits.testBit 8) u8).andThen fun severity =>
  (Reader.opt (bits.testBit 9) (Reader.code boolOf)).map fun freezeEnable =>
    { enable := enable, object := object, measure := measure, threshold := threshold, sense := sense, mode := mode,
      raiseCount := raiseCount, clearCount := clearCount, severity := severity, freezeEnable := freezeEnable }

/-- WATCH_SET: the watch part and the panel part as present. -/
structure WatchSetBody where
  watch : Option (Nat × WatchBody)
  majorLevel : Option Nat
  deriving DecidableEq, Repr

def bodyWatchSet : List Byte → Option WatchSetBody :=
  Reader.whole ((u8.andThen fun bits =>
      (Reader.opt (bits.testBit 0) (u8.andThen fun w => u16.andThen fun fields => (readWatch fields).map fun b => (w, b))).andThen
        fun watch =>
      (Reader.opt (bits.testBit 1) u8).map fun major => ({ watch := watch, majorLevel := major } : WatchSetBody)).check
    fun b => b.watch.isSome || b.majorLevel.isSome)

/-- MONITOR_SET: the selection, 0xFF for none, and the follow setting, as present; one with neither is answered FORMAT (R169). -/
def bodyMonitorSet : List Byte → Option (Option Nat × Option Bool) :=
  Reader.whole ((u8.andThen fun bits =>
      (Reader.opt (bits.testBit 0) u8).andThen fun selected =>
      (Reader.opt (bits.testBit 1) (Reader.code boolOf)).map fun follow => (selected, follow)).check
    fun r => r.1.isSome || r.2.isSome)

/-! ## The profile records (11.6) -/

/-- A lane record. -/
structure LaneRecord where
  enabled : Bool
  preference : Preference
  bypassAllowed : Bool
  tolerance : Nat
  openCounting : Bool
  deriving DecidableEq, Repr

/-- A programme record, its values not yet brought into range. -/
structure ProgRecord where
  prog : Nat
  members : List MemberBody
  video : Nat
  trim : Int
  method : ChangeMethod
  glideLimit : Nat
  loud : LoudBody
  paused : Bool
  period : Nat
  selection : Selection
  deriving DecidableEq, Repr

/-- The settings of a profile image. -/
structure Profile where
  majorLevel : Nat
  lanes : List LaneRecord
  progs : List ProgRecord
  watches : List WatchBody
  deriving DecidableEq, Repr

def readLaneRecord : Reader LaneRecord :=
  (Reader.code boolOf).andThen fun enabled => (Reader.code Preference.ofCode).andThen fun preference =>
  (Reader.code boolOf).andThen fun bypassAllowed => u16.andThen fun tolerance => (Reader.code boolOf).map fun openCounting =>
    { enabled := enabled, preference := preference, bypassAllowed := bypassAllowed, tolerance := tolerance,
      openCounting := openCounting }

def readProgRecord : Reader ProgRecord :=
  u8.andThen fun prog => readMembers.andThen fun members => u32.andThen fun video => s32.andThen fun trim =>
  (Reader.code ChangeMethod.ofCode).andThen fun method => u16.andThen fun glideLimit => (readLoud 0x3FF).andThen fun loud =>
  (Reader.code boolOf).andThen fun paused => u16.andThen fun period => (u8.map Selection.ofCode).map fun selection =>
    { prog := prog, members := members, video := video, trim := trim, method := method, glideLimit := glideLimit, loud := loud,
      paused := paused, period := period, selection := selection }

/-- A watch record in full, whose measure belongs to its source object's kind: every code known (R188). -/
def readWatchRecord : Reader WatchBody :=
  (readWatch 0x3FF).check fun b =>
    match b.object, b.measure with
    | some (k, _), some m => (k.measure m).isSome
    | _, _ => false

/-- Programme numbers strictly ascending and within 0 to 15 (R188). -/
def ascendingBelow16 : List Nat → Bool
  | [] => true
  | [a] => decide (a < 16)
  | a :: b :: rest => decide (a < b) && ascendingBelow16 (b :: rest)

/-- The body of a profile image. -/
def readProfile : List Byte → Option Profile :=
  Reader.whole ((u8.andThen fun major => (Reader.times readLaneRecord 8).andThen fun lanes =>
      (u8.check fun n => decide (n ≤ 16)).andThen fun n => (Reader.times readProgRecord n).andThen fun progs =>
      (Reader.times readWatchRecord 32).map fun watches =>
        ({ majorLevel := major, lanes := lanes, progs := progs, watches := watches } : Profile)).check
    fun p => ascendingBelow16 (p.progs.map (·.prog)))

/-! ## Writing the profile records -/

def flagByte (b : Bool) : List Byte := bytes1 (flagBit b 0)

def writeLaneRecord (s : LaneSettings) : List Byte :=
  flagByte s.enabled ++ bytes1 (s.preference.code) ++ flagByte s.bypassAllowed
    ++ bytes2 s.tolerance ++ flagByte s.openCounting

def writeMember (m : MemberDef) : List Byte :=
  bytes1 m.lane.val ++ bytes1 m.slot.val ++ bytes1 m.role.code
    ++ bytes1 (flagBit m.weight.isSome 0 + flagBit m.placement.isSome 1 : Nat)
    ++ (match m.weight with | some w => bytes1 w.code | none => [])
    ++ (match m.placement with | some (ol, os) => bytes1 ol.val ++ bytes1 os.val | none => [])

def writeProgRecord (p : ProgId) (x : Prog) : List Byte :=
  bytes1 p.val ++ bytes1 x.members.length ++ x.members.flatMap (fun m => writeMember m.spec)
    ++ bytes4 x.delay.video ++ bytes4 x.delay.trim ++ bytes1 x.delay.method.code ++ bytes2 x.delay.glideLimit
    ++ bytes2 x.meter.window ++ bytes2 x.meter.relGate ++ bytes2 x.meter.minCount
    ++ bytes2 x.gain.settings.target ++ bytes2 x.gain.settings.gmax ++ bytes2 x.gain.settings.gmin
    ++ bytes1 x.gain.settings.upSlew ++ bytes1 x.gain.settings.downSlew ++ bytes1 x.gain.settings.band
    ++ bytes2 x.gain.settings.g0 ++ flagByte x.gain.paused ++ bytes2 x.report.period ++ bytes1 x.report.selection.code

def writeWatchRecord (r : WatchRecord) : List Byte :=
  flagByte r.enable ++ bytes1 r.object.kind.code ++ bytes1 r.object.number ++ bytes1 r.measure.code ++ bytes4 r.threshold
    ++ bytes1 r.sense.code ++ bytes1 r.mode.code ++ bytes2 r.raiseCount ++ bytes2 r.clearCount ++ bytes1 r.severity
    ++ flagByte r.freezeEnable

end Sys2Proof.Machine
end

