-- ==== Sys2Proof/Machine/Loudness.lean ====
section
/-! DEFINITION. Loudness.lean: the loudness meter (chapter 6): weighting, sub-blocks, energy words, block results, the level ring
and the histogram, and what starts, stops and resizes them. -/
namespace Sys2Proof.Machine

/-! ## Weights and the correlation pair (R45) -/

/-- The default weight of a role. -/
def Role.defaultWeight : Role → Weight
  | .l => .unity | .r => .unity | .c => .unity | .m => .unity | .x => .unity
  | .ls => .side | .rs => .side | .lb => .side | .rb => .side
  | .lfe => .none

/-- The effective weight of a member. -/
def MemberDef.effectiveWeight (m : MemberDef) : Weight := m.weight.getD m.role.defaultWeight

/-- A weight's value, in units of 1/128. -/
def Weight.value : Weight → Nat
  | .none => 0 | .unity => 128 | .side => 181

/-- The first member of a role. -/
def firstOfRole (role : Role) (ms : List Member) : Option Member := ms.find? fun m => m.spec.role == role

/-- The correlation pair: the first L and the first R. -/
def correlationPair (ms : List Member) : Option (Member × Member) :=
  match firstOfRole .l ms, firstOfRole .r ms with
  | some l, some r => some (l, r)
  | _, _ => none

/-! ## Weighting (R104) -/

/-- The filter's output, exactly, from the samples since its state was zeroed, newest first; k is the age of the first. -/
def weightedSum : List Int → Nat → Rat
  | [], _ => 0
  | x :: rest, k => if x = 0 then weightedSum rest (k + 1) else Config.weightTap k * x + weightedSum rest (k + 1)

/-- A rational to the nearest integer, ties away from zero. -/
def roundRat (q : Rat) : Int := roundAway q.num q.den

/-- The weighted sample, in units of 2^-30, carried without saturation. -/
def weightedSample (history : List Int) : Int := roundRat (128 * weightedSum history 0)

/-- The filter takes a sample; silence before the first sound leaves it as zeroed. -/
def takeSample (x : Int) (history : List Int) : List Int := if x = 0 ∧ history = [] then [] else x :: history

/-- One member's part in a bus frame: its sample weighted, and its square added to the energy sum (R105). -/
def Member.meter (m : Member) (x : Int) : Member :=
  let h := takeSample x m.history
  { m with history := h, energy := m.energy + (weightedSample h).natAbs ^ 2 }

/-- The product added to the cross sum: of the pair's weighted samples (R105). -/
def crossTerm (ms : List Member) : Int :=
  match correlationPair ms with
  | some (l, r) => weightedSample l.history * weightedSample r.history
  | none => 0

/-- A bus frame of a RUNNING programme enters the meter (R105). -/
def Prog.meterFrame (bus : List Int) (x : Prog) : Prog :=
  let ms := List.zipWith Member.meter x.members bus
  { x with members := ms, meter := { x.meter with cross := x.meter.cross + crossTerm ms, frameCount := x.meter.frameCount + 1 } }

/-! ## Energy words (R107, R108) -/

/-- The units of an energy sum in one mean energy of 1.0: 4800 frames of 2^60. -/
def meanUnit : Nat := Config.gateFrames * 2 ^ 60

/-- The packed word of a mean energy, given as the sum of which it is the 4800th part (R107, 11.3). -/
def packEnergy (sum : Nat) : EnergyWord :=
  if 4095 * meanUnit ≤ 2048 * sum then { bits := 0xFFFF, saturated := true }
  else if sum * 2 ^ 30 < meanUnit then
    { bits := BitVec.ofInt 16 (roundHalfUp (sum * 2 ^ 41 : Nat) meanUnit), saturated := false }
  else
    let e := Nat.log2 (sum * 2 ^ 31 / meanUnit)
    let base := meanUnit * 2 ^ e
    { bits := BitVec.ofInt 16 (e * 2048 + roundHalfUp (2048 * ((sum * 2 ^ 31 : Nat) - (base : Int))) base), saturated := false }

/-- The exponent of a word. -/
def EnergyWord.exponent (w : EnergyWord) : Nat := w.bits.toNat / 2048

/-- The fraction of a word. -/
def EnergyWord.fraction (w : EnergyWord) : Nat := w.bits.toNat % 2048

/-- The decoded value of a word, in units of 2^-41 (R108). -/
def EnergyWord.decoded (w : EnergyWord) : Nat :=
  if w.exponent = 0 then w.fraction else (2048 + w.fraction) * 2 ^ (w.exponent - 1)

/-! ## Block energy and level (R109 to R111) -/

/-- A member's part of the block energy, in units of 2^-50: weight, the sum of its words, a quarter. -/
def Member.blockEnergy (m : Member) : Nat := m.spec.effectiveWeight.value * (m.words.map EnergyWord.decoded).sum

/-- The block energy z, in units of 2^-50. -/
def blockEnergy (ms : List Member) : Nat := (ms.map Member.blockEnergy).sum

/-- R of the block energy's level, before the clamp to +100. -/
def exactBlockLevel (ms : List Member) : Int := energyLevel (blockEnergy ms) (2 ^ 50)

/-- The block level Lb (R110). -/
def blockLevel (ms : List Member) : Int := min 100 (exactBlockLevel ms)

/-- The overload flag (R111). -/
def blockOverload (ms : List Member) : Bool :=
  ms.any (fun m => m.words.any EnergyWord.saturated) || decide (100 < exactBlockLevel ms)

/-! ## The histogram and the level ring (R112 to R114) -/

/-- The lowest level the histogram counts. -/
def histogramFloor : Int := -700

/-- One more of a level, when it has a bin. -/
def Histogram.add (b : Int) : Histogram → Histogram
  | [] => if b < histogramFloor then [] else [(b, 1)]
  | (c, n) :: rest =>
    if b < histogramFloor then (c, n) :: rest
    else if b < c then (b, 1) :: (c, n) :: rest
    else if b = c then (c, n + 1) :: rest
    else (c, n) :: Histogram.add b rest

/-- One less of a level, when it has a bin. -/
def Histogram.remove (b : Int) : Histogram → Histogram
  | [] => []
  | (c, n) :: rest =>
    if b = c then (if n ≤ 1 then rest else (c, n - 1) :: rest) else (c, n) :: Histogram.remove b rest

/-- How many recorded levels the level ring holds at most. -/
def levelRingSize : Nat := 3000

/-- A block level is recorded (R112, R113). -/
def MeterRec.record (lb : Int) (m : MeterRec) : MeterRec :=
  let h := match m.levels[m.window - 1]? with
    | some old => Histogram.remove old m.histogram
    | none => m.histogram
  { m with histogram := Histogram.add lb h, levels := (lb :: m.levels).take levelRingSize }

/-- A new window, and the levels it lets go of or takes back (R114). -/
def MeterRec.setWindow (w : Nat) (m : MeterRec) : MeterRec :=
  let leaving := (m.levels.take m.window).drop w
  let entering := (m.levels.take w).drop m.window
  { m with window := w, histogram := entering.foldl (fun h b => Histogram.add b h) (leaving.foldl (fun h b => Histogram.remove b h) m.histogram) }

/-- The histogram total N (R113). -/
def MeterRec.total (m : MeterRec) : Nat := countTotal m.histogram

/-! ## Gates, integrated level, short-term level, correlation (R116 to R120) -/

/-- The counted levels at or above a gate. -/
def binsFrom (theta : Int) (h : Histogram) : Histogram := h.filter fun b => decide (theta ≤ b.1)

/-- The gate figures; absent when the histogram is empty (R116, R117). -/
def MeterRec.gateFigures (m : MeterRec) : Option GateFigures :=
  if m.total = 0 then none
  else
    let lr := meanLevel m.histogram
    let theta := max (lr - m.relGate) histogramFloor
    some { lr := lr, theta := theta, nTheta := countTotal (binsFrom theta m.histogram) }

/-- The integrated level; absent below the minimum count (R117). -/
def MeterRec.integrated (m : MeterRec) : Option Int :=
  match m.gateFigures with
  | none => none
  | some g => if g.nTheta < m.minCount then none else some (meanLevel (binsFrom g.theta m.histogram))

/-- The short-term level; absent when nothing is recorded (R119). -/
def MeterRec.shortTerm (m : MeterRec) : Option Int :=
  if m.levels = [] then none else some (meanLevel ((m.levels.take 30).map fun b => (b, 1)))

/-- The correlation over the ring; absent without a pair (R120). -/
def MeterRec.rho (m : MeterRec) (ms : List Member) : Option Int :=
  match correlationPair ms with
  | none => none
  | some _ => correlation ((m.corr.map (·.mL)).sum) ((m.corr.map (·.mR)).sum) ((m.corr.map (·.x)).sum)

/-! ## Completions (R106, R109, R115, R121) -/

/-- A member packs its sub-block's energy (R106, step 1). -/
def Member.packSubBlock (m : Member) : Member := { m with words := (packEnergy m.energy :: m.words).take 4, energy := 0 }

/-- The correlation ring after a sub-block (R106, step 2). -/
def nextCorr (ms : List Member) (cross : Int) (corr : List CorrEntry) : List CorrEntry :=
  match correlationPair ms with
  | none => corr
  | some (l, r) => ({ mL := l.energy, mR := r.energy, x := cross } :: corr).take 4

/-- A sub-block has run its 4800 bus frames, and its completion has not been taken (R105). -/
def Prog.subBlockDue (x : Prog) : Bool := x.state == .running && decide (Config.gateFrames ≤ x.meter.frameCount)

/-- The rings and counts at a sub-block completion (R106). -/
def Prog.packSubBlock (x : Prog) : Prog :=
  { x with
    members := x.members.map Member.packSubBlock
    meter := { x.meter with
      corr := nextCorr x.members x.meter.cross x.meter.corr, cross := 0, frameCount := 0,
      subBlocks := (x.meter.subBlocks + 1) % Config.countModulus, ringed := satSucc 4 x.meter.ringed } }

/-- The results of a block completion, the level recorded unless paused (R109 to R121). -/
def Prog.blockResults (x : Prog) : Prog :=
  let lb := blockLevel x.members
  let m := { x.meter with blockIndex := (x.meter.blockIndex + 1) % Config.countModulus }
  let m := if x.gain.paused then m else m.record lb
  { x with
    meter := { m with
      gate := m.gateFigures
      results := some
        { paused := x.gain.paused, lb := lb, overload := blockOverload x.members, belowGate := decide (lb < histogramFloor),
          lst := m.shortTerm, li := m.integrated, rho := m.rho x.members } } }

/-! ## Starts and stops (R123, R125) -/

/-- A member's meter state zeroed (R123). -/
def Member.clearMeter (m : Member) : Member := { m with history := [], energy := 0, words := [] }

/-- The meter record at a start or a reset: only the settings stay (R123). -/
def MeterRec.cleared (m : MeterRec) : MeterRec :=
  { MeterRec.fresh with window := m.window, relGate := m.relGate, minCount := m.minCount }

/-- The meter starts, or starts again (R123). -/
def Prog.startMeter (x : Prog) : Prog := { x with members := x.members.map Member.clearMeter, meter := x.meter.cleared }

/-- The meter stops: the sub-block in progress is discarded (R125). -/
def Prog.stopMeter (x : Prog) : Prog :=
  { x with
    members := x.members.map fun m => { m with energy := 0 }
    meter := { x.meter with cross := 0, frameCount := 0 } }

/-- The energy words of the members, oldest first (R121). -/
def memberWords (ms : List Member) : List (List (BitVec 16)) := ms.map fun m => (m.words.map (·.bits)).reverse

/-! ## The meter's settings (R126) -/

/-- A setting present is clamped to its range; one absent keeps its value. -/
def clampSetting (v : Option Int) (lo hi old : Int) : Int := (v.map fun x => clampInt x lo hi).getD old

/-- Whether a setting present lies outside its range. -/
def settingClamped (v : Option Int) (lo hi : Int) : Bool := v.any fun x => decide (x < lo) || decide (hi < x)

/-- The meter's settings stored, a new window at once on the histogram (R114, R126). -/
def MeterRec.set (b : LoudBody) (m : MeterRec) : MeterRec :=
  { m.setWindow (clampSetting b.window 10 3000 m.window).toNat with
    relGate := clampSetting b.relGate 40 200 m.relGate
    minCount := (clampSetting b.minCount 1 3000 m.minCount).toNat }

/-- Whether any meter setting is clamped (R126). -/
def LoudBody.meterClamped (b : LoudBody) : Bool :=
  settingClamped b.window 10 3000 || settingClamped b.relGate 40 200 || settingClamped b.minCount 1 3000

end Sys2Proof.Machine
end

