-- ==== Sys2Proof/Machine/Link.lean ====
section
/-! DEFINITION. Link.lean: how a command is carried out, a request taken and answered (R177). -/
namespace Sys2Proof.Machine

/-! ## Carrying a command out -/

/-- The transmitter chooses, when it is idle. -/
def State.transmit (s : State) : State := { s with lnk := s.lnk.transmit }

/-- How every command is carried out: with power, its effect, and then an idle transmitter chooses (a notice queued or a credit granted
within the effect has let it choose already, log 5); without power, nothing. -/
def State.carry (s : State) (effect : State → State) : Host.Outcome State Fault Refusal :=
  .next (if s.powered then (effect s).transmit else s)

/-! ## Taking requests (R177) -/

/-- A request kind's codes (11.1). -/
def requestKinds : List Byte :=
  [0x01, 0x02, 0x03, 0x10, 0x11, 0x12, 0x20, 0x21, 0x22, 0x23, 0x30, 0x31, 0x40, 0x41, 0x42, 0x43, 0x44, 0x50, 0x51, 0x52, 0x53,
   0x54, 0x55, 0x60, 0x61]

/-- A block's answer: the status, the figures it reports, and the state it leaves. -/
abbrev Answer := Status × ReplyBody × State

/-- The request that is taken next: the oldest not yet taken; none once RESTART has been taken (R177, R181). -/
def State.nextRequest (s : State) : Option Request :=
  if s.lnk.restart = .none then s.lnk.requests.find? fun r => r.reply.isNone else none

/-- The oldest entry without a reply carries this one. -/
def answerFirst (r : Reply) : List Request → List Request
  | [] => []
  | q :: rest => if q.reply.isNone then { q with reply := some r } :: rest else q :: answerFirst r rest

/-- Form the reply to a request, once its block has acted (log 5): it stands in the request's entry until it has been sent. -/
def answerRequest (req : Request) (a : Answer) : State :=
  let s := a.2.2
  let r : Reply := { tag := req.tag, status := a.1, kind := req.kind, body := a.2.1, formed := s.lnk.formed,
                     endsTraffic := s.lnk.restart == .taken }
  { s with lnk := { s.lnk with requests := answerFirst r s.lnk.requests, formed := s.lnk.formed + 1 } }

/-- Take the oldest request, when its kind is one of these: during the profile load it is answered BUSY unless it is one of the
two that are taken then; otherwise its block judges and acts at once (R177, R187). -/
def State.takeRequest (ofKind : Byte → Bool) (inLoad : Bool) (act : List Byte → State → Answer) (s : State) : State :=
  match s.nextRequest with
  | none => s
  | some req =>
    if ofKind req.kind then
      if s.pfu.outcome = .loading ∧ inLoad = false then answerRequest req (.busy, .empty, s)
      else answerRequest req (act req.body s)
    else s

/-- A body its block reads by a layout; FORMAT when it does not fit (R196). -/
def withBody {α : Type} (read : List Byte → Option α) (act : α → State → Answer) (body : List Byte) (s : State) : Answer :=
  match read body with
  | none => (.format, .empty, s)
  | some a => act a s

/-- OK or CLAMPED. -/
def takenStatus (clamped : Bool) : Status := if clamped then .clamped else .ok

end Sys2Proof.Machine
end

