-- ==== Sys2Proof/Machine/Requests.lean ====
section
/-! DEFINITION. Requests.lean: the programme a request names, and whether the programme's state admits the request (R53). -/
namespace Sys2Proof.Machine

/-- The programme of a number, none above 15. -/
def progOf (n : Nat) : Option ProgId := if h : n < 16 then some ⟨n, h⟩ else none

/-- DELAY_SET, VIDEO_LATENCY, LOUD_SET, LOUD_PAUSE, LOUD_RESUME, REPORT_SET and PROG_UNDEFINE: how a state refuses one (R51, R53). -/
def ProgState.refusesSetting : ProgState → Option Status
  | .undefined => some .noObject
  | .waiting => none
  | .running => none
  | .releasing => some .state

/-- PROG_QUERY and LOUD_QUERY: how a state refuses one (R53). -/
def ProgState.refusesQuery : ProgState → Option Status
  | .undefined => some .noObject
  | .waiting => none
  | .running => none
  | .releasing => none

/-- PROG_RESET: how a state refuses one (R53). -/
def ProgState.refusesReset : ProgState → Option Status
  | .undefined => some .noObject
  | .waiting => some .state
  | .running => none
  | .releasing => some .state

/-- PROG_DEFINE: how a state refuses one (R53). -/
def ProgState.refusesDefine : ProgState → Option Status
  | .undefined => none
  | .waiting => some .state
  | .running => some .state
  | .releasing => some .state

/-- Act on the programme a request names: NO_OBJECT above 15, then the programme's state is judged (R53). -/
def onProg (refuses : ProgState → Option Status) (n : Nat) (act : ProgId → State → Answer) (s : State) : Answer :=
  match progOf n with
  | none => (.noObject, .empty, s)
  | some p =>
    match refuses (s.prog p).state with
    | some status => (status, .empty, s)
    | none => act p s

/-- Change one programme's record. -/
def State.modProg (s : State) (p : ProgId) (f : Prog → Prog) : State := s.onProgs fun v => v.modProg p f

end Sys2Proof.Machine
end

