-- ==== Sys2Proof/Machine/Gain.lean ====
section
/-! DEFINITION. Gain.lean: the gain controller (chapter 7): settings, the gain law, the cue queue, ramps and the gain stage; and the
loudness requests (6.10, 7.6). -/
namespace Sys2Proof.Machine

/-! ## Settings (7.2, R129, R130) -/

/-- The correction settings before the clamp of G0. -/
def GainSettings.store (b : LoudBody) (g : GainSettings) : GainSettings :=
  { target := clampSetting b.target (-400) (-100) g.target
    gmax := clampSetting b.gmax 0 200 g.gmax
    gmin := clampSetting b.gmin (-300) 0 g.gmin
    upSlew := clampSetting b.upSlew 1 50 g.upSlew
    downSlew := clampSetting b.downSlew 1 50 g.downSlew
    band := clampSetting b.band 0 100 g.band
    g0 := b.g0.getD g.g0 }

/-- The correction settings stored, G0 brought within the limits (R129). -/
def GainSettings.set (b : LoudBody) (g : GainSettings) : GainSettings :=
  let g := g.store b
  { g with g0 := clampInt g.g0 g.gmin g.gmax }

/-- Whether any correction setting is clamped, or G0 moved (R129). -/
def GainSettings.clamped (b : LoudBody) (g : GainSettings) : Bool :=
  settingClamped b.target (-400) (-100) || settingClamped b.gmax 0 200 || settingClamped b.gmin (-300) 0
    || settingClamped b.upSlew 1 50 || settingClamped b.downSlew 1 50 || settingClamped b.band 0 100
    || decide ((g.store b).g0 ≠ (g.set b).g0)

/-! ## The cue queue (R135, R136) -/

/-- How many cues the queue holds. -/
def cuePlaces : Nat := 32

/-- The gain a new cue is compared with: the tail's, or the applied gain. -/
def GainRec.reference (g : GainRec) : Option Int :=
  match g.cues.getLast? with
  | some c => some c.gain
  | none => g.applied

/-- A cue is offered (R135, R136). -/
def GainRec.offerCue (position : Nat) (gain : Int) (g : GainRec) : GainRec :=
  if g.reference = some gain then g
  else
    match g.cues.getLast? with
    | none => { g with cues := [{ position := position, gain := gain }] }
    | some tail =>
      if tail.position = position ∨ cuePlaces ≤ g.cues.length then
        { g with cues := g.cues.dropLast ++ [{ tail with gain := gain }] }
      else { g with cues := g.cues ++ [{ position := position, gain := gain }] }

/-- New limits clamp the decided gain, and a cue is offered (R130). -/
def GainRec.limit (stamp : Nat) (g : GainRec) : GainRec :=
  match g.gcur with
  | none => g
  | some v =>
    let w := clampInt v g.settings.gmin g.settings.gmax
    if w = v then g else ({ g with gcur := some w } : GainRec).offerCue stamp w

/-! ## The gain law (R131 to R134) -/

/-- The desired gain (R131). -/
def GainRec.desire (r : BlockResults) (gcur : Int) (g : GainRec) : Int :=
  match r.li with
  | none => gcur
  | some li => if r.paused ∨ r.belowGate then gcur else clampInt (g.settings.target - li) g.settings.gmin g.settings.gmax

/-- One step toward the desired gain (R133). -/
def GainSettings.step (g : GainSettings) (gcur gd : Int) : Int :=
  if gcur < gd then min gd (gcur + g.upSlew) else if gd < gcur then max gd (gcur - g.downSlew) else gcur

/-- A programme in MOVING steps (R133). -/
def GainRec.move (stamp : Nat) (gcur gd : Int) (g : GainRec) : GainRec :=
  let next := g.settings.step gcur gd
  let g := { g with gcur := some next, moving := decide (next ≠ gd) }
  if next = gcur then g else g.offerCue stamp next

/-- The gain decision of a block completion (R131 to R134). -/
def GainRec.decision (r : BlockResults) (stamp : Nat) (g : GainRec) : GainRec :=
  match g.gcur with
  | none => g
  | some gcur =>
    let gd := g.desire r gcur
    let g := { g with desired := some gd }
    if g.moving = true ∨ g.settings.band < ((gd - gcur).natAbs : Int) then g.move stamp gcur gd else g

/-! ## Cues falling due, and ramps (R137, R138, R140) -/

/-- The cues due at an output stamp. -/
def GainRec.dueCues (out : Int) (g : GainRec) : List Cue := g.cues.takeWhile fun c => decide ((c.position : Int) ≤ out)

/-- Every due cue leaves the queue; the last of them becomes the applied gain, and a ramp begins (R137, R138, R140). -/
def GainRec.takeDue (out : Int) (g : GainRec) : GainRec :=
  match (g.dueCues out).getLast? with
  | none => g
  | some c =>
    { g with
      cues := g.cues.drop (g.dueCues out).length, applied := some c.gain,
      rampStart := g.factor, rampEnd := gainFactor c.gain, rampPos := 0, ramping := true }

/-- The factor at a position of a ramp (R140). -/
def rampFactor (start stop pos : Nat) : Nat :=
  (roundHalfUp ((start : Int) * Config.fadeFrames + ((stop : Int) - start) * pos) Config.fadeFrames).toNat

/-- A ramp's position rises by 1, and its factor becomes the instantaneous factor (R140). -/
def GainRec.moveRamp (g : GainRec) : GainRec :=
  if g.ramping ∧ g.rampPos < Config.fadeFrames then
    { g with rampPos := g.rampPos + 1, factor := rampFactor g.rampStart g.rampEnd (g.rampPos + 1) }
  else g

/-- What a boundary does to the gain record before its samples pass (R137, R140). -/
def GainRec.boundary (out : Int) (g : GainRec) : GainRec := (g.takeDue out).moveRamp

/-- A ramp has reached position 480, and its completion has not been taken. -/
def GainRec.rampDue (g : GainRec) : Bool := g.ramping && decide (Config.fadeFrames ≤ g.rampPos)

/-- A ramp is complete: the factor is the end factor (R140). -/
def GainRec.endRamp (g : GainRec) : GainRec :=
  if g.rampDue then { g with factor := g.rampEnd, ramping := false } else g

/-! ## The gain stage (R142, R143) -/

/-- The product rounded, before saturation. -/
def gainProduct (factor : Nat) (x : Int) : Int := roundAway (x * factor) (2 ^ 20)

/-- A sample through the gain stage. -/
def gained (factor : Nat) (x : Int) : Int := saturateSample (gainProduct factor x)

/-- How many of these samples the gain stage saturates. -/
def clipped (factor : Nat) (xs : List Int) : Nat := (xs.filter fun x => decide (gained factor x ≠ gainProduct factor x)).length

/-- The clip count takes in a boundary's samples (R143). -/
def GainRec.countClips (xs : List Int) (g : GainRec) : GainRec := { g with clips := min 153600 (g.clips + clipped g.factor xs) }

/-! ## Starts and resets (R146, R147) -/

/-- The gain record at a start or a PROG_RESET. -/
def GainRec.start (g : GainRec) : GainRec :=
  let f := gainFactor g.settings.g0
  { g with
    gcur := some g.settings.g0, applied := some g.settings.g0, moving := false, desired := none, factor := f, rampStart := f,
    rampEnd := f, rampPos := Config.fadeFrames, ramping := false, cues := [], clips := 0 }

/-! ## Loudness requests (R126, R127, R129, R130, R144, R145, R149) -/

/-- The loudness settings of a request stored; for a RUNNING programme new limits act at once. -/
def Prog.setLoud (b : LoudBody) (x : Prog) : Prog :=
  let g := { x.gain with settings := x.gain.settings.set b }
  { x with meter := x.meter.set b, gain := if x.state = .running then g.limit x.inputStamp else g }

/-- LOUD_SET's reply. -/
def loudSetReply (x : Prog) : LoudSetReply :=
  { window := x.meter.window, relGate := x.meter.relGate, minCount := x.meter.minCount, settings := x.gain.settings,
    gcur := if x.state = .running then x.gain.gcur else none,
    moving := if x.state = .running then some x.gain.moving else none }

/-- LOUD_SET on a programme. -/
def loudSetAnswer (b : LoudBody) (p : ProgId) (s : State) : Answer :=
  let t := s.modProg p (Prog.setLoud b)
  (takenStatus (b.meterClamped || (s.prog p).gain.settings.clamped b), .loudSet (loudSetReply (t.prog p)), t)

/-- LOUD_QUERY's figures. -/
def loudReply (x : Prog) : LoudReply :=
  { window := x.meter.window, relGate := x.meter.relGate, minCount := x.meter.minCount, paused := x.gain.paused,
    subBlocks := x.meter.subBlocks, frameCount := x.meter.frameCount, blockIndex := x.meter.blockIndex,
    recorded := x.meter.levels.length, total := x.meter.total, gate := x.meter.gate, results := x.meter.results,
    words := memberWords x.members, settings := x.gain.settings, gcur := x.gain.gcur, moving := x.gain.moving,
    desired := x.gain.desired, applied := x.gain.applied, factor := x.gain.factor, rampStart := x.gain.rampStart,
    rampEnd := x.gain.rampEnd, rampPos := x.gain.rampPos, cues := x.gain.cues, clips := x.gain.clips }

/-- LOUD_QUERY on a programme. -/
def loudQueryAnswer (p : ProgId) (s : State) : Answer := (.ok, .loud (loudReply (s.prog p)), s)

/-- LOUD_PAUSE and LOUD_RESUME on a programme: the pause state becomes this. -/
def pauseAnswer (paused : Bool) (p : ProgId) (s : State) : Answer :=
  (.ok, .paused paused, s.modProg p fun x => { x with gain := { x.gain with paused := paused } })

/-- LOUD_SET (R126, R129, R130). -/
def execLoudSet (s : State) : Host.Outcome State Fault Refusal :=
  s.carry (State.takeRequest (· == 0x40) false
    (withBody bodyLoudSet fun b => onProg ProgState.refusesSetting b.1 (loudSetAnswer b.2)))

/-- LOUD_PAUSE (R144). -/
def execLoudPause (s : State) : Host.Outcome State Fault Refusal :=
  s.carry (State.takeRequest (· == 0x41) false
    (withBody bodyNumber fun n => onProg ProgState.refusesSetting n (pauseAnswer true)))

/-- LOUD_RESUME (R145). -/
def execLoudResume (s : State) : Host.Outcome State Fault Refusal :=
  s.carry (State.takeRequest (· == 0x42) false
    (withBody bodyNumber fun n => onProg ProgState.refusesSetting n (pauseAnswer false)))

/-- LOUD_QUERY (R127, R149). -/
def execLoudQuery (s : State) : Host.Outcome State Fault Refusal :=
  s.carry (State.takeRequest (· == 0x43) false
    (withBody bodyNumber fun n => onProg ProgState.refusesQuery n loudQueryAnswer))

/-- GAIN_RAMP_COMPLETE (R140). -/
def execGainRampComplete (p : ProgId) (s : State) : Host.Outcome State Fault Refusal :=
  s.carry fun s => s.modProg p fun x => { x with gain := x.gain.endRamp }

end Sys2Proof.Machine
end

