-- ==== Sys2Proof/Machine/DelayMemory.lean ====
section
/-! DEFINITION. DelayMemory.lean: the delay memory controller (chapter 4): channel rings, splices and trims, page counts, the page
wait list and the funding of a running programme. -/
namespace Sys2Proof.Machine

/-! ## Rings (R64 to R66) -/

/-- The chain length. -/
def Ring.pages (r : Ring) : Nat := r.rest.length + 1

/-- The chain, in playback order from the write page. -/
def Ring.chain (r : Ring) : List PageId := r.writePage :: r.rest

/-- The capacity K. -/
def Ring.capacity (r : Ring) : Nat := Config.pageFrames * r.pages

/-- The reach, K - 1. -/
def Ring.reach (r : Ring) : Nat := r.capacity - 1

/-- The write point moves to the next position (R65). -/
def Ring.advance (r : Ring) : Ring :=
  if r.writeOffset.val + 1 < 1024 then { r with writeOffset := r.writeOffset + 1 }
  else
    match r.rest with
    | [] => { r with writeOffset := 0 }
    | next :: others => { r with writePage := next, rest := others ++ [r.writePage], writeOffset := 0 }

/-- The page and offset of the frame at a distance behind the one last written (R64). -/
def Ring.place (r : Ring) (distance : Nat) : PageId × Fin 1024 :=
  let c := (r.writeOffset.val + r.capacity - 1 - distance) % r.capacity
  (r.chain.getD (c / 1024) r.writePage, ⟨c % 1024, Nat.mod_lt _ (by decide)⟩)

/-- The frame at a distance, the stamp last written being this: zero when its stamp is negative or before the history start (R66). -/
def Ring.frameAt (dram : Memory) (newest : Int) (distance : Nat) (r : Ring) : Int :=
  let stamp := newest - distance
  if stamp < 0 ∨ stamp < r.historyStart then 0
  else
    let at_ := r.place distance
    readSample dram at_.1 at_.2

/-- A member's sample at its tap: one frame, or during a glide two of them interpolated (R66, R93). The tap is the current delay less
the lane's latency (R89), so after a start the first frames are read up to 48 boundaries before the output stamp leaves the negative
ones, where R50 gives zero samples: the model reads by the tap (its choice, log 52). -/
def Member.readTap (dram : Memory) (newest : Int) (m : Member) : Int :=
  match m.ring with
  | none => 0
  | some r =>
    let t := (m.tap / 64).toNat
    let phi := m.tap % 64
    let s0 := r.frameAt dram newest t
    if phi = 0 then s0 else roundAway (s0 * (64 - phi) + r.frameAt dram newest (t + 1) * phi) 64

/-! ## Splices and trims (R67, R68) -/

/-- The tail move: the positions of a page from an offset to 1023, copied to another page (R67, R68). -/
def copyTail (dram : Memory) (source target : PageId) (offset : Fin 1024) : Memory :=
  dram.copy (positionAddress source offset) (positionAddress target offset) (4 * (1024 - offset.val))

/-- A splice of j pages, the stamp last written being this (R67). -/
def Dmc.splice (j : Nat) (newest : Int) (d : Dmc) (r : Ring) : Dmc × Ring :=
  let new := d.free.take j
  match new.getLast? with
  | none => (d, r)
  | some last =>
    ({ d with free := d.free.drop j, dram := copyTail d.dram r.writePage last r.writeOffset },
     { r with rest := new ++ r.rest, historyStart := max r.historyStart (newest - r.reach) })

/-- A trim of j pages (R68). -/
def Dmc.trim (j : Nat) (d : Dmc) (r : Ring) : Dmc × Ring :=
  let marked := r.rest.take j
  match marked.getLast? with
  | none => (d, r)
  | some last =>
    ({ d with free := d.free ++ marked, dram := copyTail d.dram last r.writePage r.writeOffset },
     { r with rest := r.rest.drop j })

/-- A ring brought to k pages. -/
def Dmc.resizeRing (k : Nat) (newest : Int) (d : Dmc) (r : Ring) : Dmc × Ring :=
  if r.pages < k then d.splice (k - r.pages) newest r
  else if k < r.pages then d.trim (r.pages - k) r
  else (d, r)

/-- A member's ring brought to k pages. -/
def Dmc.resizeMember (k : Nat) (newest : Int) (d : Dmc) (m : Member) : Dmc × Member :=
  match m.ring with
  | none => (d, m)
  | some r =>
    let q := d.resizeRing k newest r
    (q.1, { m with ring := some q.2 })

/-- Every ring of a programme brought to k pages, in member order (R63). -/
def Dmc.resizeMembers (k : Nat) (newest : Int) : Dmc → List Member → Dmc × List Member
  | d, [] => (d, [])
  | d, m :: rest =>
    let q := d.resizeMember k newest m
    let others := Dmc.resizeMembers k newest q.1 rest
    (others.1, q.2 :: others.2)

/-! ## Creation and dissolution (R69) -/

/-- A ring of p pages for each member, in member order (R69). -/
def Dmc.createRings (p : Nat) : Dmc → List Member → Dmc × List Member
  | d, [] => (d, [])
  | d, m :: rest =>
    let ring : Option Ring := match d.free.take p with
      | [] => none
      | first :: others => some { writePage := first, rest := others, writeOffset := 0, historyStart := 0 }
    let next := Dmc.createRings p { d with free := d.free.drop p } rest
    (next.1, { m with ring := ring } :: next.2)

/-- The pages a member's dissolved ring gives back, in their order: from the page after the write page, the write page last. -/
def Member.givenBack (m : Member) : List PageId :=
  match m.ring with
  | none => []
  | some r => r.rest ++ [r.writePage]

/-! ## Pages and holding delay (R70, R81, R91) -/

/-- pages(D). -/
def pagesFor (delay : Nat) : Nat := delay / 1024 + 1

/-- The pages a programme holds per channel. -/
def Prog.pagesPerChannel (x : Prog) : Nat := ((x.members.head?.bind (·.ring)).map Ring.pages).getD 0

/-- The whole part of the current delay. -/
def DelayRec.whole (r : DelayRec) : Nat := r.current / 64

/-- The holding delay. -/
def DelayRec.holding (r : DelayRec) : Nat := max r.whole r.funded

/-- The stamp of the frame most recently written. -/
def Prog.newest (x : Prog) : Int := (x.inputStamp : Int) - 1

/-- Every ring of a programme brought to k pages. -/
def ProgSide.resize (p : ProgId) (k : Nat) (v : ProgSide) : ProgSide :=
  let x := v.prog p
  let q := v.dmc.resizeMembers k x.newest x.members
  { v with dmc := q.1, progs := v.progs.set p { x with members := q.2 } }

/-! ## The page wait list and its alarm (R75, R79) -/

/-- A programme joins the list at its tail, if it is not on it; DELAY_DEFICIT is raised. -/
def ProgSide.joinWait (p : ProgId) (v : ProgSide) : ProgSide :=
  if p ∈ v.dmc.wait then v
  else ({ v with dmc := { v.dmc with wait := v.dmc.wait ++ [p] } } : ProgSide).onPanel (Panel.raise (.delayDeficit p))

/-- A programme leaves the list, if it is on it; DELAY_DEFICIT is cleared. -/
def ProgSide.leaveWait (p : ProgId) (v : ProgSide) : ProgSide :=
  if p ∈ v.dmc.wait then
    ({ v with dmc := { v.dmc with wait := v.dmc.wait.filter fun q => !(q == p) } } : ProgSide).onPanel
      (Panel.clear (.delayDeficit p))
  else v

/-! ## Funding (R72, R73) -/

/-- The most pages a channel holds (0.7). -/
def pagesWithin (pages channels : Nat) : Nat := min Config.maxPages (pages / channels)

/-- The longest delay of a page count that is no more than a request. -/
def fundedBy (pages request : Nat) : Nat := min request (pages * Config.pageFrames - 1)

/-- A running programme's requested delay is funded, in full or in part. What it releases has not yet been served to the list. -/
def ProgSide.fund (p : ProgId) (request : Nat) (v : ProgSide) : ProgSide :=
  let x := v.prog p
  let n := x.members.length
  let d := x.delay.whole
  let reach := n * x.pagesPerChannel + v.dmc.free.length
  let need := pagesFor (max d request)
  if n * need ≤ reach then
    ((v.modDelay p fun r => { r with requested := request, funded := request }).resize p need).leaveWait p
  else
    let target := fundedBy (pagesWithin reach n) request
    ((v.modDelay p fun r => { r with requested := request, funded := target }).resize p (pagesFor (max d target))).joinWait p

/-! ## The pool's observation (R80) -/

/-- The pool's observation. -/
def freePages (n : Nat) : Measure → Option Int
  | .freePages => some n
  | _ => none

/-- One event of the delay memory controller: the pool is observed once when the free list's length has changed (R80). -/
def ProgSide.event (f : ProgSide → ProgSide) (v : ProgSide) : ProgSide :=
  let w := f v
  if w.dmc.free.length = v.dmc.free.length then w else w.onPanel (Panel.observe .pool (freePages w.dmc.free.length))

end Sys2Proof.Machine
end

