-- ==== Sys2Proof/Machine/LipSync.lean ====
section
/-! DEFINITION. LipSync.lean: the lip-sync controller (chapter 5): requested delays, glides, jumps, raised targets, starts and the
release fade; the service of the page wait list, which raises and starts (R76); and the gain stage at the delay output (R100). -/
namespace Sys2Proof.Machine

/-! ## Taps and the current delay (R89, R90) -/

/-- The current delay takes a value in 1/64 frames, and every tap moves with it. -/
def Prog.moveDelay (d : Nat) (x : Prog) : Prog :=
  { x with
    members := x.members.map fun m => { m with tap := m.tap + ((d : Int) - x.delay.current) }
    delay := { x.delay with current := d } }

/-- Every tap is the current delay minus the lane's latency. -/
def Prog.setTaps (latencies : Vector Nat 8) (x : Prog) : Prog :=
  { x with members := x.members.map fun m => { m with tap := (x.delay.current : Int) - 64 * latencies[m.spec.lane] } }

/-- The output stamp (R55, R90, log 17). -/
def Prog.outputStamp (x : Prog) : Int := (64 * (x.inputStamp : Int) - x.delay.current) / 64

/-- The latest request (R85). -/
def DelayRec.latest (r : DelayRec) : Nat := r.pending.getD r.requested

/-- The lip-sync error (R90). -/
def DelayRec.lipSyncError (r : DelayRec) : Int := (r.whole : Int) - r.latest

/-- The requested delay that a video latency and a trim give (R85). -/
def requestedDelay (video : Nat) (trim : Int) : Nat := (clampInt ((video : Int) + trim) Config.minDelay Config.maxDelay).toNat

/-! ## Changes of delay (R87, R94, R101) -/

/-- A DONE notice (R101). A delay is whole when a change of it completes, so it is sent as a count of frames (R195, log 49). -/
def ProgSide.noticeDone (p : ProgId) (kind : DoneKind) (v : ProgSide) : ProgSide :=
  let r := (v.prog p).delay
  v.onPanel fun w => w.offer (.doneDelay p r.whole r.requested r.funded (r.requested - r.funded) kind w.now)

/-- Whether the change method makes a change toward the funded target a glide (R87, R94). -/
def DelayRec.chooseGlide (r : DelayRec) : Bool :=
  match r.method with
  | .glide => true
  | .jump => false
  | .auto => decide (((64 * r.funded : Nat) - (r.current : Int)).natAbs ≤ 64 * r.glideLimit)

/-- A jump begins (R95). -/
def DelayRec.beginJump (r : DelayRec) : DelayRec := { r with change := .fadeOut, kind := .jump, fadePos := Config.fadeFrames }

/-- A change toward the funded target begins (R87). -/
def DelayRec.beginChange (r : DelayRec) : DelayRec :=
  if r.chooseGlide then { r with change := .gliding, kind := .glide } else r.beginJump

/-- Whether the current delay is the funded target. -/
def DelayRec.arrived (r : DelayRec) : Bool := r.current == 64 * r.funded

/-- A glide completes (R92). -/
def ProgSide.completeGlide (p : ProgId) (v : ProgSide) : ProgSide :=
  (v.modDelay p fun r => { r with change := .steady }).noticeDone p .glide

/-- A glide is judged against a new funded target (R94). What a stop releases has not yet been served to the list. A stop rounds the
delay down, which can raise the output stamp onto a queued cue's position between boundaries; that the cue stays queued until the next
boundary judges it (R135, R137) is the model's choice (log 57). -/
def ProgSide.judgeGlide (p : ProgId) (v : ProgSide) : ProgSide :=
  let r := (v.prog p).delay
  if r.chooseGlide then if r.arrived then v.completeGlide p else v
  else
    let v := v.modProg p (Prog.moveDelay (64 * r.whole))
    if (v.prog p).delay.arrived then v.completeGlide p else v.modDelay p DelayRec.beginJump

/-- A raised funded target is taken (R99). -/
def ProgSide.takeRaise (p : ProgId) (v : ProgSide) : ProgSide :=
  let r := (v.prog p).delay
  match r.change with
  | .steady => if r.arrived then v else v.modDelay p DelayRec.beginChange
  | .gliding => v.judgeGlide p
  | .fadeOut => v
  | .filling =>
    let v := v.modProg p (Prog.moveDelay (64 * r.funded))
    v.modDelay p fun x => { x with fill := x.fill + (r.funded - r.whole) }
  | .fadeIn => v.modDelay p fun x => { x with ahead := true }

/-! ## Starts (R50, R84, R123, R146) -/

/-- A programme starts with this delay, its rings created (R69, R84). -/
def ProgSide.startProg (p : ProgId) (delay : Nat) (v : ProgSide) : ProgSide :=
  let x := v.prog p
  let q := v.dmc.createRings (pagesFor delay) x.members
  let started : Prog :=
    { x with
      state := .running, inputStamp := 0, members := q.2, gain := x.gain.start,
      delay := { x.delay with funded := delay, current := 64 * delay, change := .steady, ahead := false },
      report := { x.report with counter := 0 } }
  { v with dmc := q.1, progs := v.progs.set p ((started.startMeter).setTaps v.latencies) }

/-- A programme newly defined is funded: in full, in part, or not at all (R74). -/
def ProgSide.fundNew (p : ProgId) (v : ProgSide) : ProgSide :=
  let x := v.prog p
  let n := x.members.length
  let free := v.dmc.free.length
  let request := x.delay.requested
  if n * pagesFor request ≤ free then v.startProg p request
  else
    let pages := pagesWithin free n
    if 1 ≤ pages then (v.startProg p (fundedBy pages request)).joinWait p
    else (v.modProg p fun x => { x with state := .waiting }).joinWait p

/-! ## The service of the page wait list (R76) -/

/-- A programme funded in full leaves the list. -/
def ProgSide.leaveIfFull (p : ProgId) (v : ProgSide) : ProgSide :=
  if (v.prog p).delay.funded = (v.prog p).delay.requested then v.leaveWait p else v

/-- One programme's turn in the service. -/
def ProgSide.serveWaiter (v : ProgSide) (p : ProgId) : ProgSide :=
  let x := v.prog p
  let n := x.members.length
  let free := v.dmc.free.length
  match x.state with
  | .running =>
    let q := x.pagesPerChannel
    let pages := pagesWithin (n * q + free) n
    if q + 1 ≤ pages then
      let target := fundedBy pages x.delay.requested
      ((((v.modDelay p fun r => { r with funded := target }).resize p (pagesFor target)).takeRaise p)).leaveIfFull p
    else v
  | .waiting =>
    let pages := pagesWithin free n
    if 1 ≤ pages then (v.startProg p (fundedBy pages x.delay.requested)).leaveIfFull p else v
  | _ => v

/-- One pass over the list, oldest first. -/
def ProgSide.serve (v : ProgSide) : ProgSide := v.dmc.wait.foldl ProgSide.serveWaiter v

/-- The service follows when a programme now holds fewer pages per channel than before. -/
def ProgSide.serveAfter (p : ProgId) (before : Nat) (v : ProgSide) : ProgSide :=
  if (v.prog p).pagesPerChannel < before then v.serve else v

/-- The holding delay has fallen: the rings are trimmed when it needs fewer pages, and the list is served (R70, R91). -/
def ProgSide.holdingFell (p : ProgId) (v : ProgSide) : ProgSide :=
  let x := v.prog p
  let k := pagesFor x.delay.holding
  if k < x.pagesPerChannel then ProgSide.event (fun v => (v.resize p k).serve) v else v

/-- A requested delay goes to the delay memory controller for funding (R71). -/
def ProgSide.fundEvent (p : ProgId) (request : Nat) (v : ProgSide) : ProgSide :=
  ProgSide.event (fun w => (w.fund p request).serveAfter p (v.prog p).pagesPerChannel) v

/-! ## Requests that move the delay (R86, R87, R94, R98) -/

/-- A requested delay is acted on in STEADY (R87). -/
def ProgSide.actSteady (p : ProgId) (request : Nat) (v : ProgSide) : ProgSide :=
  let v := v.fundEvent p request
  if (v.prog p).delay.arrived then v.noticeDone p .none else v.modDelay p DelayRec.beginChange

/-- A requested delay is acted on in GLIDING (R94). -/
def ProgSide.actGliding (p : ProgId) (request : Nat) (v : ProgSide) : ProgSide :=
  ((v.fundEvent p request).judgeGlide p).holdingFell p

/-- What a new requested delay does (R86). -/
def ProgSide.newRequest (p : ProgId) (v : ProgSide) : ProgSide :=
  let x := v.prog p
  let request := requestedDelay x.delay.video x.delay.trim
  if x.state = .running then
    match x.delay.change with
    | .steady => v.actSteady p request
    | .gliding => v.actGliding p request
    | _ => v.modDelay p fun r => { r with pending := some request }
  else v.modDelay p fun r => { r with requested := request }

/-- Whether V + trim lies outside 48 to 96,000. -/
def DelayRec.requestClamped (r : DelayRec) : Bool := decide ((requestedDelay r.video r.trim : Int) ≠ r.video + r.trim)

/-- The figures of a delay reply (R86, R88); a DELAY_SET without a trim reports the latest request and the target that stands (the model's
choice, log 48). -/
def delayReply (x : Prog) : DelayReply :=
  { video := x.delay.video, trim := x.delay.trim, requested := x.delay.latest, change := x.delay.change,
    funded := if x.state = .running ∧ x.delay.pending = none then some x.delay.funded else none, pending := x.delay.pending }

/-- VIDEO_LATENCY on a programme (R86). -/
def videoLatencyAnswer (latency : Nat) (p : ProgId) (s : State) : Answer :=
  let t := s.onProgs fun v => (v.modDelay p fun r => { r with video := min Config.maxDelay latency }).newRequest p
  let x := t.prog p
  (takenStatus (decide (Config.maxDelay < latency) || x.delay.requestClamped), .videoLatency (delayReply x), t)

/-- The fields of a DELAY_SET present are stored (R88). -/
def DelayRec.store (b : DelaySetBody) (r : DelayRec) : DelayRec :=
  { r with
    method := b.method.getD r.method
    glideLimit := (b.glideLimit.map (min 4800)).getD r.glideLimit
    trim := clampSetting b.trim (-48000) 48000 r.trim }

/-- DELAY_SET on a programme (R88). Without a trim no V + trim is computed, so none can make it CLAMPED (the model's choice, log 47). -/
def delaySetAnswer (b : DelaySetBody) (p : ProgId) (s : State) : Answer :=
  let t := s.onProgs fun v =>
    let v := v.modDelay p (DelayRec.store b)
    if b.trim.isSome then v.newRequest p else v
  let x := t.prog p
  let clamped := settingClamped b.trim (-48000) 48000 || decide (4800 < b.glideLimit.getD 0)
    || (b.trim.isSome && x.delay.requestClamped)
  (takenStatus clamped, .delaySet (delayReply x) x.delay.method x.delay.glideLimit, t)

/-! ## The delay output (R90, R95, R100, R102, R137) -/

/-- The factor of the delay fade or the release fade, in units of 1/480 (R100, R102). -/
def Prog.fadeFactor (x : Prog) : Nat :=
  if x.state = .releasing then min x.delay.releasePos x.delay.entryLevel
  else
    match x.delay.change with
    | .steady => 480
    | .gliding => 480
    | .fadeOut => x.delay.fadePos
    | .filling => 0
    | .fadeIn => x.delay.fadePos

/-- The gain stage and the fade at a boundary: cues fall due, each member is read at its tap, gained and faded (R66, R100, R137,
R142). `shift` is how far a member's tap moves at this boundary with its lane's latency (R89, log 18). -/
def Prog.outputStage (dram : Memory) (shift : LaneId → Int) (x : Prog) : Prog :=
  let g := x.gain.boundary x.outputStamp
  let read := x.members.map fun m => ({ m with tap := m.tap + 64 * shift m.spec.lane } : Member).readTap dram x.newest
  let k := x.fadeFactor
  { x with
    gain := g.countClips read
    members := List.zipWith (fun m r => { m with out := roundAway (gained g.factor r * k) Config.fadeFrames }) x.members read }

/-- A glide has brought the current delay to the funded target, and its completion has not been taken. -/
def Prog.glideDue (x : Prog) : Bool := x.state == .running && x.delay.change == .gliding && x.delay.arrived

/-- A jump's fade position has come to 0, and its faded point has not been taken. -/
def Prog.jumpDue (x : Prog) : Bool := x.state == .running && x.delay.change == .fadeOut && decide (x.delay.fadePos = 0)

/-- The fill remaining has come to 0, and that has not been taken. -/
def Prog.fillDue (x : Prog) : Bool := x.state == .running && x.delay.change == .filling && decide (x.delay.fill = 0)

/-- A jump's fade-in has come to position 480, and its end has not been taken. -/
def Prog.fadeInDue (x : Prog) : Bool :=
  x.state == .running && x.delay.change == .fadeIn && decide (Config.fadeFrames ≤ x.delay.fadePos)

/-- The release fade has come to position 0, and its end has not been taken. -/
def Prog.releaseDue (x : Prog) : Bool := x.state == .releasing && decide (x.delay.releasePos = 0)

/-- The end of a glide (R92). -/
def ProgSide.glideEnd (p : ProgId) (v : ProgSide) : ProgSide := if (v.prog p).glideDue then v.completeGlide p else v

/-- The current delay at a jump's faded point (R95). -/
def Prog.jumped (x : Prog) : Prog :=
  let rise := 64 * x.delay.funded - x.delay.current
  let y := x.moveDelay (64 * x.delay.funded)
  { y with
    delay := { y.delay with
      change := if 0 < rise then .filling else .fadeIn, fill := rise / 64, fadePos := 0 } }

/-- The cue queue is judged against the output stamp as it stands (R137). -/
def Prog.judgeCues (x : Prog) : Prog := { x with gain := x.gain.takeDue x.outputStamp }

/-- A jump's faded point: the delay moves, the cues its output stamp has reached fall due if the boundary has not taken them, and a
decrease gives up pages (R91, R95, R138, log 18). -/
def ProgSide.jumpFaded (p : ProgId) (v : ProgSide) : ProgSide :=
  if (v.prog p).jumpDue then (v.modProg p fun x => x.jumped.judgeCues).holdingFell p else v

/-- The end of FILLING (R96). -/
def ProgSide.fillEnd (p : ProgId) (v : ProgSide) : ProgSide :=
  if (v.prog p).fillDue then v.modDelay p fun r => { r with change := .fadeIn, fadePos := 0 } else v

/-- What follows a completed jump: the pending request is acted on, or a target ahead is moved toward (R97). -/
def ProgSide.afterJump (p : ProgId) (ahead : Bool) (v : ProgSide) : ProgSide :=
  match (v.prog p).delay.pending with
  | some request => (v.modDelay p fun r => { r with pending := none }).actSteady p request
  | none => if ahead ∧ (v.prog p).delay.arrived = false then v.modDelay p DelayRec.beginChange else v

/-- The end of a jump's fade-in (R97). -/
def ProgSide.fadeInEnd (p : ProgId) (v : ProgSide) : ProgSide :=
  if (v.prog p).fadeInDue then
    let ahead := (v.prog p).delay.ahead
    let v := (v.modDelay p fun r => { r with change := .steady }).noticeDone p .jump
    (v.modDelay p fun r => { r with ahead := false }).afterJump p ahead
  else v

/-! ## The release (R52, R78, R102) -/

/-- A RUNNING programme's record on entry to RELEASING (R102). The delay is rounded down, which can raise the output stamp onto a queued
cue's position between boundaries; that the cue stays queued until the next boundary judges it is the model's choice (log 57). -/
def Prog.toReleasing (x : Prog) : Prog :=
  let y := (x.moveDelay (64 * x.delay.whole)).stopMeter
  { y with
    state := .releasing
    delay := { y.delay with
      funded := x.delay.whole, change := .steady, fadePos := 0, fill := 0, ahead := false, releasePos := Config.fadeFrames,
      entryLevel := x.fadeFactor } }

/-- A RUNNING programme enters RELEASING. -/
def ProgSide.beginRelease (p : ProgId) (v : ProgSide) : ProgSide := ((v.modProg p Prog.toReleasing).leaveWait p).holdingFell p

/-- A released programme's rings are dissolved and its record is discarded; the list is served (R52, R69). -/
def ProgSide.dissolve (p : ProgId) (v : ProgSide) : ProgSide :=
  let back := (v.prog p).members.flatMap Member.givenBack
  ({ v with dmc := { v.dmc with free := v.dmc.free ++ back }, progs := v.progs.set p Prog.undefined } : ProgSide).serve

/-- The end of the release fade (R52, R158): first the pages go back, the list is served and the pool observed, then the watches restart
(the model's order, log 45). -/
def ProgSide.releaseEnd (p : ProgId) (v : ProgSide) : ProgSide :=
  if (v.prog p).releaseDue then (ProgSide.event (ProgSide.dissolve p) v).onPanel (Panel.restartWatches p) else v

/-! ## Commands -/

/-- DELAY_SET (R88). -/
def execDelaySet (s : State) : Host.Outcome State Fault Refusal :=
  s.carry (State.takeRequest (· == 0x30) false
    (withBody bodyDelaySet fun b => onProg ProgState.refusesSetting b.prog (delaySetAnswer b)))

/-- VIDEO_LATENCY (R86). -/
def execVideoLatency (s : State) : Host.Outcome State Fault Refusal :=
  s.carry (State.takeRequest (· == 0x31) false
    (withBody bodyVideoLatency fun b => onProg ProgState.refusesSetting b.1 (videoLatencyAnswer b.2)))

/-- GLIDE_COMPLETE (R92, R101). -/
def execGlideComplete (p : ProgId) (s : State) : Host.Outcome State Fault Refusal :=
  s.carry fun s => s.onProgs (ProgSide.glideEnd p)

/-- JUMP_FADED_POINT (R95). -/
def execJumpFadedPoint (p : ProgId) (s : State) : Host.Outcome State Fault Refusal :=
  s.carry fun s => s.onProgs (ProgSide.jumpFaded p)

/-- FILLING_END (R96). -/
def execFillingEnd (p : ProgId) (s : State) : Host.Outcome State Fault Refusal :=
  s.carry fun s => s.onProgs (ProgSide.fillEnd p)

/-- FADE_IN_COMPLETE (R97, R101). -/
def execFadeInComplete (p : ProgId) (s : State) : Host.Outcome State Fault Refusal :=
  s.carry fun s => s.onProgs (ProgSide.fadeInEnd p)

/-- RELEASE_FADE_COMPLETE (R52, R102). -/
def execReleaseFadeComplete (p : ProgId) (s : State) : Host.Outcome State Fault Refusal :=
  s.carry fun s => s.onProgs (ProgSide.releaseEnd p)

end Sys2Proof.Machine
end

