-- ==== Sys2Proof/Machine/Blocks.lean ====
section
/-! DEFINITION. Blocks.lean: the completion of a sub-block and of a block, and what its result set is handed on to (R106, R109, R121,
R134, R151, R186). -/
namespace Sys2Proof.Machine

/-- The eight programme measures of a block completion (8.2, R90, R134). -/
def Prog.observed (r : BlockResults) (x : Prog) : Measure → Option Int
  | .lb => some r.lb
  | .lst => r.lst
  | .li => r.li
  | .gcur => x.gain.gcur
  | .rho => r.rho
  | .clips => some x.gain.clips
  | .lipSync => some x.delay.lipSyncError
  | .belowGate => some (if r.belowGate then 1 else 0)
  | _ => none

/-- A meter report of a block completion (R186). -/
def Prog.meterReport (p : ProgId) (now : Nat) (r : BlockResults) (x : Prog) : MeterReport :=
  { prog := p, selection := x.report.selection, clock := now, blockIndex := x.meter.blockIndex, results := r,
    gcur := x.gain.gcur.getD 0, clips := x.gain.clips, nTheta := x.meter.gate.map (·.nTheta), words := memberWords x.members,
    current := x.delay.current, requested := x.delay.requested, funded := x.delay.funded, pending := x.delay.pending,
    lipSync := x.delay.lipSyncError }

/-- Whether this block completion brings the report counter to the period (R186). -/
def ReportRec.due (r : ReportRec) : Bool := decide (r.period ≠ 0) && decide (r.period ≤ r.counter + 1)

/-- The report counter after a block completion (R186). -/
def ReportRec.count (r : ReportRec) : ReportRec :=
  if r.period = 0 then r else { r with counter := if r.due then 0 else r.counter + 1 }

/-- The block's results and the gain decision taken on them (R109 to R121, R131 to R134). -/
def Prog.completeBlock (x : Prog) : Prog :=
  let y := x.blockResults
  match y.meter.results with
  | none => y
  | some r => { y with gain := y.gain.decision r y.inputStamp }

/-- After the result set has been handed on: the clip count at 0, the report counter moved (R134, R186). -/
def Prog.afterBlock (x : Prog) : Prog := { x with gain := { x.gain with clips := 0 }, report := x.report.count }

/-- The result set goes to the watch unit, and then to a meter report when one is due (R121, R151, R186; the order of their offers is the
model's choice, log 50). -/
def Panel.takeResults (p : ProgId) (x : Prog) (v : Panel) : Panel :=
  match x.meter.results with
  | none => v
  | some r =>
    let v := v.observe (.programme p) (x.observed r)
    if x.report.due then v.offer (.meter (x.meterReport p v.now r)) else v

/-- A sub-block completes; from the fourth since the start or reset, a block with it (R106). -/
def ProgSide.completeSubBlock (p : ProgId) (v : ProgSide) : ProgSide :=
  if (v.prog p).subBlockDue then
    let x := (v.prog p).packSubBlock
    if x.meter.ringed = 4 then
      let y := x.completeBlock
      ({ v with progs := v.progs.set p y.afterBlock } : ProgSide).onPanel (Panel.takeResults p y)
    else { v with progs := v.progs.set p x }
  else v

/-- SUB_BLOCK_COMPLETE (R105 to R121, R131 to R135, R151, R186). -/
def execSubBlockComplete (p : ProgId) (s : State) : Host.Outcome State Fault Refusal :=
  s.carry fun s => s.onProgs (ProgSide.completeSubBlock p)

end Sys2Proof.Machine
end

