-- ==== Sys2Proof/Machine/Conversion.lean ====
section
/-! DEFINITION. Conversion.lean: the conversion engine (2.2 to 2.7): converters, the tap budget arbiter, lane fades, slips. -/
namespace Sys2Proof.Machine

/-! ## Costs and latencies (R32, R35) -/

/-- Cost per active channel (R32). -/
def ConvMode.cost : ConvMode → Nat
  | .none => 0 | .full => 64 | .short => 32 | .bypass => 0

/-- Lane latency (R32). -/
def ConvMode.latency : ConvMode → Nat
  | .none => 48 | .full => 48 | .short => 24 | .bypass => 4

/-- The active channel count (R9). -/
def Lane.channels (x : Lane) : Nat := onesBelow x.active.toNat 8

/-- A RUNNING lane's tap cost; 0 for any other (R32). -/
def Lane.cost (x : Lane) : Nat := if x.state = .running then x.conv.granted.cost * x.channels else 0

/-- The taps in use (R35). -/
def Front.tapsInUse (f : Front) : Nat := (f.lanes.toList.map Lane.cost).sum

/-- The free taps (R35). -/
def Front.freeTaps (f : Front) : Nat := Config.tapBudget - f.tapsInUse

/-! ## Lane fades (R40) -/

/-- A lane fade is asked for: it begins at once when none is in flight; a fade in FADE_OUT carries the change at its faded point;
a fade in FADE_IN makes it wait (R40). -/
def Converter.askFade (c : Converter) : Converter :=
  if c.fade = .none then { c with fade := .fadeOut, fadePos := Config.fadeFrames } else c

/-! ## Grants (R27, R36, R37) -/

/-- The settling ratio of a gate count (R27). -/
def measuredRatio (c : Nat) : Nat := (roundHalfUp (c * 2 ^ 24 : Nat) Config.gateFrames).toNat

/-- A LANE notice for the lane's present state and the state it left (R13). -/
def LaneSide.noticeLane (l : LaneId) (left : LaneState) (v : LaneSide) : LaneSide :=
  let x := v.lane l
  v.onPanel fun p => p.offer (.lane l x.state left x.settled x.active p.now)

/-- The converter record of a lane entering RUNNING under this mode, and its admission fade (R27). -/
def Converter.setUp (m : ConvMode) (c : Converter) : Converter :=
  { c with
    granted := m, effective := .none, forced := false, tracking := .acquire, acquisition := 0,
    ratio := c.settling.getD c.ratio, phase := 0, slipWanted := false, slipsInGate := 0,
    fifo := List.replicate Config.fifoCentre Frame.silent, past := [], produced := [], output := Frame.silent,
    fade := .fadeOut, fadePos := Config.fadeFrames }

/-- A lane in ADMIT is granted a mode: it enters RUNNING, and LANE_LOST for it is cleared (R12, R27). -/
def LaneSide.enterRunning (l : LaneId) (m : ConvMode) (v : LaneSide) : LaneSide :=
  let v := v.modLane l fun x => { x with state := .running, conv := x.conv.setUp m }
  (v.noticeLane l .waitingBudget).onPanel (Panel.clear (.laneLost l))

/-- A running lane's granted mode changes, and a lane fade is asked for (R40). -/
def LaneSide.regrant (l : LaneId) (m : ConvMode) (v : LaneSide) : LaneSide :=
  v.modConv l fun c => ({ c with granted := m } : Converter).askFade

/-- The arbiter grants an asking lane a mode (R36): a lane in ADMIT enters RUNNING, a lane leaving bypass changes its grant. -/
def LaneSide.grant (l : LaneId) (m : ConvMode) (v : LaneSide) : LaneSide :=
  if (v.lane l).state = .waitingBudget then v.enterRunning l m else v.regrant l m

/-- The mode the free taps allow a lane of this preference and channel count, if any: FULL by preference, else SHORT (R36, R37). -/
def modeFor (pref : Preference) (channels free : Nat) : Option ConvMode :=
  if pref = .full ∧ ConvMode.full.cost * channels ≤ free then some .full
  else if ConvMode.short.cost * channels ≤ free then some .short
  else none

/-- Step 3 of an ask: downgrade FULL lanes in this order until the asker's SHORT fits (R36). -/
def LaneSide.downgrade (need : Nat) : List LaneId → LaneSide → LaneSide
  | [], v => v
  | d :: rest, v =>
    if need ≤ v.front.freeTaps then v
    else if (v.lane d).state = .running ∧ (v.lane d).conv.granted = .full then (v.regrant d .short).downgrade need rest
    else v.downgrade need rest

/-- The asker waits (R36, step 4): at the tail of the admission queue; a lane leaving bypass in forced bypass. -/
def LaneSide.waitForBudget (l : LaneId) (v : LaneSide) : LaneSide :=
  let v := if (v.lane l).state = .running then v.modConv l fun c => { c with forced := true } else v
  { v with front := { v.front with admission := if l ∈ v.front.admission then v.front.admission else v.front.admission ++ [l] } }

/-- An ask (R36). -/
def LaneSide.ask (l : LaneId) (v : LaneSide) : LaneSide :=
  let x := v.lane l
  match modeFor x.settings.preference x.channels v.front.freeTaps with
  | some m => v.grant l m
  | none =>
    let need := ConvMode.short.cost * x.channels
    let v := v.downgrade need allLanes.reverse
    if need ≤ v.front.freeTaps then v.grant l .short else v.waitForBudget l

/-- A lane leaves the admission queue (R35). -/
def LaneSide.leaveQueue (l : LaneId) (v : LaneSide) : LaneSide :=
  { v with front := { v.front with admission := v.front.admission.filter fun q => !(q == l) } }

/-- Service of one waiting lane (R37). -/
def LaneSide.serve (v : LaneSide) (l : LaneId) : LaneSide :=
  let x := v.lane l
  match modeFor x.settings.preference x.channels v.front.freeTaps with
  | none => v
  | some m =>
    let v := v.leaveQueue l
    if x.state = .waitingBudget then v.enterRunning l m else (v.modConv l fun c => { c with forced := false }).regrant l m

/-- One lane's place in an upgrade pass (R37). -/
def LaneSide.upgrade (v : LaneSide) (l : LaneId) : LaneSide :=
  let x := v.lane l
  if x.state = .running ∧ x.conv.granted = .short ∧ x.settings.preference = .full
      ∧ ConvMode.short.cost * x.channels ≤ v.front.freeTaps then v.regrant l .full
  else v

/-- The upgrade pass, in ascending lane number (R37). -/
def LaneSide.upgradePass (v : LaneSide) : LaneSide := allLanes.foldl LaneSide.upgrade v

/-- Budget is released: the service pass, then the upgrade pass (R37). -/
def LaneSide.release (v : LaneSide) : LaneSide := (v.front.admission.foldl LaneSide.serve v).upgradePass

/-! ## Leaving RUNNING or ADMIT (R42) -/

/-- A converter record cleared; the slip count and the estimate's figures stay (R42, log 33). -/
def Converter.cleared (c : Converter) : Converter :=
  { c with
    granted := .none, effective := .none, forced := false, fifo := [], slipWanted := false, fade := .none, fadePos := 0,
    past := [], produced := [], output := Frame.silent }

/-- A lane that was in this state under this cost has left it (R11, R42). The lane record already shows its new state. -/
def LaneSide.leaveEngine (l : LaneId) (was : LaneState) (cost : Nat) (v : LaneSide) : LaneSide :=
  match was with
  | .running =>
    let v := ((v.modConv l Converter.cleared).onPanel (Panel.clear (.slip l))).leaveQueue l
    if 0 < cost then v.release else v
  | .waitingBudget => v.leaveQueue l
  | _ => v

/-! ## The FIFO (R28, R30, R34) -/

/-- The fill (R28). -/
def Converter.fill (c : Converter) : Nat := c.fifo.length

/-- A frame joins the tail, or is discarded when the FIFO is full (R28). -/
def Converter.push (f : Frame) (c : Converter) : Converter :=
  if c.fill < Config.fifoCapacity then { c with fifo := c.fifo ++ [f] } else c

/-- How many removed frames the engine keeps: the 64 taps of the longer filter (R32, log 11). -/
def pastKept : Nat := 64

/-- A removal: the head leaves; when the FIFO is empty the last frame removed is taken in place of the missing one (R28). -/
def Converter.pop (c : Converter) : Converter :=
  match c.fifo with
  | f :: rest => { c with fifo := rest, past := (f :: c.past).take pastKept }
  | [] => { c with past := (c.past.headD Frame.silent :: c.past).take pastKept }

def Converter.popTimes : Nat → Converter → Converter
  | 0, c => c
  | n + 1, c => (c.pop).popTimes n

/-- The samples of one slot in a list of frames. -/
def slotSamples (k : Nat) (fs : List Frame) : List Int := fs.map fun f => f.getD k 0

/-- One slot's interpolated sample: silence about the read position gives silence; otherwise the filter's free value (R28, log 11). -/
def Converter.interpolated (long : Bool) (c : Converter) (k : Nat) : Int :=
  let behind := slotSamples k c.past
  let ahead := slotSamples k c.fifo
  if behind.all (· == 0) && ahead.all (· == 0) then 0 else saturateSample (Config.interpolate long behind ahead c.phase)

/-- The slots of a frame. -/
def slotNumbers : List Nat := [0, 1, 2, 3, 4, 5, 6, 7]

/-- How many boundaries a produced frame is kept: to the longest latency (R32). -/
def producedKept : Nat := 49

/-- The converter consumes by a mode and produces one frame (R28). -/
def Converter.consume (m : ConvMode) (c : Converter) : Converter :=
  match m with
  | .none => c
  | .bypass =>
    let c := c.pop
    { c with produced := (c.past.headD Frame.silent :: c.produced).take producedKept }
  | m =>
    let advance := c.phase + c.ratio
    let c := ({ c with phase := advance % 2 ^ 24 } : Converter).popTimes (advance / 2 ^ 24)
    { c with produced := (slotNumbers.map (c.interpolated (m == .full)) :: c.produced).take producedKept }

/-- A sample under a lane fade at position k (R39); an inexact product takes one of its two neighbours (log 12). -/
def fadedSample (k : Nat) (x : Int) : Int :=
  let p := x * k
  let down := p / Config.fadeFrames
  if down * Config.fadeFrames = p then down else if Config.laneFadeRoundsUp x k then down + 1 else down

/-- The lane fade's position at the next boundary (R39). -/
def Converter.moveFade (c : Converter) : Converter :=
  match c.fade with
  | .none => c
  | .fadeOut => { c with fadePos := c.fadePos - 1 }
  | .fadeIn => { c with fadePos := min Config.fadeFrames (c.fadePos + 1) }

/-- The output of this boundary: silence while there is no effective mode; otherwise what emerges under the mode's latency,
multiplied by the fade's factor (R28, R39). -/
def Converter.emit (c : Converter) : Converter :=
  let raw := if c.effective = .none then Frame.silent else c.produced.getD c.effective.latency Frame.silent
  { c with output := if c.fade = .none then raw else raw.map (fadedSample c.fadePos) }

/-- One boundary of a running converter: the fade moves, the FIFO is consumed by the effective mode (by the granted mode while
there is none), and one frame emerges (R28, R39). -/
def Converter.boundary (c : Converter) : Converter :=
  let c := c.moveFade
  (c.consume (if c.effective = .none then c.granted else c.effective)).emit

/-- A lane leaves bypass: it asks as an admitting lane asks (R34). -/
def LaneSide.leaveBypass (l : LaneId) (v : LaneSide) : LaneSide := v.ask l

/-- Whether the lane judges bypass exit: RUNNING, granted BYPASS, forced flag clear (R34). -/
def Lane.judgesExit (x : Lane) : Bool := x.state == .running && x.conv.granted == .bypass && !x.conv.forced

/-- The fill has moved: outside 16 to 240 a slip is wanted and a lane fade asked for (R30); outside 96 to 160 a lane in bypass by
choice leaves it (R34). -/
def LaneSide.fillMoved (v : LaneSide) (l : LaneId) : LaneSide :=
  let x := v.lane l
  let fill := x.conv.fill
  let v :=
    if x.state = .running ∧ (fill < 16 ∨ 240 < fill) ∧ x.conv.slipWanted = false then
      v.modConv l fun c => ({ c with slipWanted := true } : Converter).askFade
    else v
  if x.judgesExit ∧ (fill < 96 ∨ 160 < fill) then v.leaveBypass l else v

/-! ## Gate expiry (R29, R31, R33) -/

/-- The ratio update (R29). -/
def Converter.updateRatio (count : Nat) (c : Converter) : Converter :=
  let m : Int := measuredRatio count
  let r : Int := c.ratio
  let bounded (v : Int) : Nat := (clampInt v 1 (2 ^ 26 - 1)).toNat
  match c.tracking with
  | .acquire =>
    let n := c.acquisition + 1
    { c with ratio := bounded (r + roundHalfUp (m - r) 2), acquisition := n, tracking := if 8 ≤ n then .track else .acquire }
  | .track => { c with ratio := bounded (r + roundHalfUp (m - r) 16 + ((c.fill : Int) - Config.fifoCentre) * 64) }

/-- Eligible for bypass (R33). -/
def Lane.eligible (x : Lane) : Bool :=
  x.settled == .k48 && x.settings.bypassAllowed && x.conv.tracking == .track
    && x.gauge.history.length == 4 && x.gauge.history.all (fun c => c == 4800#16)
    && decide (120 ≤ x.conv.fill) && decide (x.conv.fill ≤ 136)

/-- Bypass entry of an eligible lane (R33). -/
def LaneSide.enterBypass (l : LaneId) (v : LaneSide) : LaneSide :=
  let x := v.lane l
  match x.conv.granted with
  | .full => (v.regrant l .bypass).release
  | .short => (v.regrant l .bypass).release
  | .bypass => if x.conv.forced then (v.modConv l fun c => { c with forced := false }).leaveQueue l else v
  | .none => v

/-- Bypass exit, then bypass entry, at a gate expiry with this count (R33, R34). -/
def LaneSide.judgeBypass (l : LaneId) (count : Nat) (v : LaneSide) : LaneSide :=
  let v := if (v.lane l).judgesExit ∧ (count < 4799 ∨ 4801 < count) then v.leaveBypass l else v
  if (v.lane l).eligible then v.enterBypass l else v

/-- The gates-since-slip count is settled, SLIP cleared at 50, and the slips in gate start again (R31). -/
def LaneSide.settleSlips (l : LaneId) (v : LaneSide) : LaneSide :=
  let c := (v.lane l).conv
  let n := if c.slipsInGate = 0 then satSucc 50 c.gatesSinceSlip else 0
  let v := v.modConv l fun c => { c with gatesSinceSlip := n, slipsInGate := 0 }
  if n = 50 then v.onPanel (Panel.clear (.slip l)) else v

/-! ## The faded point (R30, R39) -/

/-- What a slip inserts when the FIFO is empty: a free value from the last frame removed (log 13). -/
def Converter.emptySlipFrame (c : Converter) : Frame :=
  (c.past.headD Frame.silent).map fun x => if x = 0 then 0 else saturateSample (Config.emptySlipSample x)

/-- The FIFO brought to 128 frames: frames dropped at its head, or copies of its head put in front (R30). The frames behind the read
position stay those last removed by consumption (the model's choice, log 44). -/
def Converter.recentre (c : Converter) : Converter :=
  if Config.fifoCentre < c.fill then { c with fifo := c.fifo.drop (c.fill - Config.fifoCentre) }
  else { c with fifo := List.replicate (Config.fifoCentre - c.fill) (c.fifo.headD c.emptySlipFrame) ++ c.fifo }

/-- A slip at the faded point, and its alarm (R30, R31). -/
def LaneSide.slip (l : LaneId) (v : LaneSide) : LaneSide :=
  let raised := (v.panel.wch.isRaised (.slip l))
  let v := v.modConv l fun c =>
    { c.recentre with
      slipWanted := false, slipCount := satSucc 65535 c.slipCount, slipsInGate := satSucc 65535 c.slipsInGate,
      tracking := .acquire, acquisition := 0, gatesSinceSlip := if raised then 0 else c.gatesSinceSlip }
  v.onPanel (Panel.raise (.slip l))

/-- The faded point on the lane side: the effective mode and the latency, then a wanted slip, then FADE_IN (R39). -/
def LaneSide.fadedPoint (l : LaneId) (v : LaneSide) : LaneSide :=
  let v := v.modLane l fun x =>
    if x.conv.granted = x.conv.effective then x
    else { x with latency := x.conv.granted.latency, conv := { x.conv with effective := x.conv.granted } }
  let v := if (v.lane l).conv.slipWanted then v.slip l else v
  v.modConv l fun c => { c with fade := .fadeIn, fadePos := 0 }

/-- A lane fade completes FADE_IN; a change that waits begins a new fade (R40). -/
def Converter.completeFade (c : Converter) : Converter :=
  let c := { c with fade := .none, fadePos := 0 }
  if c.granted ≠ c.effective ∨ c.slipWanted then c.askFade else c

end Sys2Proof.Machine
end

