-- ==== Sys2Proof/Machine/Lanes.lean ====
section
/-! DEFINITION. Lanes.lean: the lane interface and the rate gauges (chapter 1), with what a lane's events bring to its converter. -/
namespace Sys2Proof.Machine

/-! ## Changes of a lane's state (R8, R13, R14) -/

/-- A lane's record changes, and a LANE notice names the state it left (R13). -/
def LaneSide.move (l : LaneId) (f : Lane → Lane) (v : LaneSide) : LaneSide :=
  (v.modLane l f).noticeLane l (v.lane l).state

/-- The record on entry to ABSENT (R5, R8, R19, R27); the gauge runs on. -/
def Lane.toAbsent (x : Lane) : Lane :=
  { x with
    state := .absent, settled := .unknown, active := 0, senseGates := 0, prevSense := none, deadRun := 0, grade := .none,
    gauge := { x.gauge with history := [] }, lastFraming := 0, lastInvalid := 0, lastActivity := false, gateInSense := false,
    conv := { x.conv with settling := none } }

/-- The gauge of a DISABLED lane: OPEN from 0, or CLOSED with its count held (R4, R14). -/
def Gauge.disabled (openCounting : Bool) (g : Gauge) : Gauge :=
  if openCounting then { g with mode := .opened, count := 0 } else { g with mode := .closed }

/-- The record on entry to DISABLED (R14, R19, R27). -/
def Lane.toDisabled (x : Lane) : Lane :=
  { x with
    state := .disabled, settled := .unknown, active := 0, grade := .none, gauge := x.gauge.disabled x.settings.openCounting,
    lastFraming := 0, lastInvalid := 0, lastActivity := false, gateInSense := false, conv := { x.conv with settling := none } }

/-- The gauge enters TIMED and a gate begins, with its counts (R4). -/
def Lane.timed (x : Lane) : Lane :=
  { x with
    gauge := { mode := .timed, count := 0, history := [], elapsed := 0 }, framing := 0, invalid := 0, activity := false,
    validAll := BitVec.allOnes 8, gateInSense := false }

/-- The lane has left the state it was in: the conversion engine is told (R11, R42). -/
def LaneSide.quit (l : LaneId) (was : Lane) (v : LaneSide) : LaneSide := v.leaveEngine l was.state was.cost

/-- A gate without bit clock activity: DETECT or REJECTED enters ABSENT (R8, R10). -/
def LaneSide.fallSilent (l : LaneId) (v : LaneSide) : LaneSide :=
  let was := (v.lane l).state
  let v := v.move l Lane.toAbsent
  if was = .rejected then v.onPanel (Panel.clear (.laneRejected l)) else v

/-- A lane is lost (R11). -/
def LaneSide.lose (l : LaneId) (v : LaneSide) : LaneSide :=
  let was := v.lane l
  let v := v.move l Lane.toAbsent
  let v := if was.state = .waitingBudget ∨ was.state = .running then v.onPanel (Panel.raise (.laneLost l)) else v
  v.quit l was

/-- A lane is disabled (R14). -/
def LaneSide.disable (l : LaneId) (v : LaneSide) : LaneSide :=
  let was := v.lane l
  let v := v.move l Lane.toDisabled
  (v.onPanel fun p => (p.clear (.laneLost l)).clear (.laneRejected l)).quit l was

/-- A DISABLED lane is enabled (R14). -/
def LaneSide.enable (l : LaneId) (v : LaneSide) : LaneSide := v.move l fun x => x.toAbsent.timed

/-- A lane is reset (R18). -/
def LaneSide.reset (l : LaneId) (v : LaneSide) : LaneSide :=
  let was := v.lane l
  let v := (v.move l Lane.toAbsent).quit l was
  v.onPanel fun p => (p.clear (.laneLost l)).clear (.laneRejected l)

/-! ## Bit clock activity and frames (R2, R3, R4, R8) -/

/-- A transition on the bit clock (R2, R8). -/
def LaneSide.activity (l : LaneId) (v : LaneSide) : LaneSide :=
  let v := v.modLane l fun x => { x with activity := true }
  if (v.lane l).state = .absent then v.move l fun x => { x with state := .detect, frameOpen := false } else v

/-- The slot word of a slot. -/
def frameWord (f : LaneFrame) (k : SlotId) : SlotWord := f.slots.getD k.val 0

/-- A slot count of 8: exactly 256 bit periods (R2). -/
def frameFull (f : LaneFrame) : Bool := f.bitPeriods == 256

/-- The slots, 0 to 7. -/
def allSlots : List SlotId := [0, 1, 2, 3, 4, 5, 6, 7]

/-- A frame without a framing error (R2). -/
def frameSound (f : LaneFrame) : Bool := frameFull f && allSlots.all fun k => slotParityCorrect (frameWord f k)

/-- The slots whose valid flag is set. -/
def frameValid (f : LaneFrame) : BitVec 8 :=
  BitVec.ofNat 8 ((allSlots.map fun k => flagBit (slotValid (frameWord f k)) k.val).sum)

/-- A marker counts in TIMED and OPEN, not in CLOSED; the count wraps (R4). -/
def Gauge.mark (g : Gauge) : Gauge :=
  match g.mode with
  | .timed => { g with count := g.count + 1 }
  | .opened => { g with count := g.count + 1 }
  | .closed => g

/-- The sample a slot of a frame of 8 slots gives (R3). -/
def framedSample (f : LaneFrame) (active : BitVec 8) (k : SlotId) : Int :=
  if active.getLsbD k && slotParityCorrect (frameWord f k) && slotValid (frameWord f k) then slotSample (frameWord f k) else 0

/-- The input frame handed to the converter: zero in every channel when the slot count is not 8 (R3). -/
def frameHanded (f : LaneFrame) (active : BitVec 8) : Frame :=
  if frameFull f then allSlots.map (framedSample f active) else Frame.silent

/-- How many active slots of a frame of 8 slots have their valid flag clear (R3, log 23). -/
def frameInvalid (f : LaneFrame) (active : BitVec 8) : Nat :=
  if frameFull f then (allSlots.filter fun (k : SlotId) => active.getLsbD k && !slotValid (frameWord f k)).length else 0

/-- A closed frame in the lane's per-gate counts (R2, R9): it is a frame of the gate in which it closes (the model's choice for a frame
that straddles a gate's edge, log 42). -/
def Lane.judgeFrame (f : LaneFrame) (x : Lane) : Lane :=
  if frameSound f then { x with validAll := x.validAll &&& frameValid f } else { x with framing := satSucc 65535 x.framing }

/-- DETECT enters SENSE with its first sound frame (R8, R9, R11). -/
def LaneSide.enterSense (l : LaneId) (v : LaneSide) : LaneSide :=
  v.move l fun x => { x with state := .sense, prevSense := none, deadRun := 0, gateInSense := false }

/-- A frame closed on a RUNNING lane is handed to its converter (R3, R28). -/
def LaneSide.handFrame (l : LaneId) (f : LaneFrame) (v : LaneSide) : LaneSide :=
  let v := v.modLane l fun x =>
    { x with invalid := min 65535 (x.invalid + frameInvalid f x.active), conv := x.conv.push (frameHanded f x.active) }
  v.fillMoved l

/-- A frame is closed (R2, R3, R8). -/
def LaneSide.closeFrame (l : LaneId) (f : LaneFrame) (v : LaneSide) : LaneSide :=
  let v := v.modLane l (Lane.judgeFrame f)
  match (v.lane l).state with
  | .detect => if frameSound f then v.enterSense l else v
  | .running => v.handFrame l f
  | _ => v

/-- A frame marker after these bit periods: their transitions, the gauge's count, the frame closed when one was open (R2, R4). -/
def LaneSide.marker (l : LaneId) (f : LaneFrame) (v : LaneSide) : LaneSide :=
  let v := if 0 < f.bitPeriods then v.activity l else v
  let closes := (v.lane l).frameOpen
  let v := v.modLane l fun x => { x with gauge := x.gauge.mark, frameOpen := true }
  if closes then v.closeFrame l f else v

/-! ## Gate expiry (R5 to R12) -/

/-- The nominal class of a count (R6). -/
def classOf (c : Nat) : RateClass :=
  if 3168 ≤ c ∧ c ≤ 3232 then .k32
  else if 4366 ≤ c ∧ c ≤ 4454 then .k44
  else if 4752 ≤ c ∧ c ≤ 4848 then .k48
  else if 8732 ≤ c ∧ c ≤ 8908 then .k88
  else if 9504 ≤ c ∧ c ≤ 9696 then .k96
  else .unknown

/-- The nominal count of a class; none of UNKNOWN (R6). -/
def RateClass.nominal : RateClass → Option Nat
  | .unknown => none
  | .k32 => some 3200
  | .k44 => some 4410
  | .k48 => some 4800
  | .k88 => some 8820
  | .k96 => some 9600

/-- The reference nominal count: the settled class's, else the gate's own (R7). -/
def refNominal (settled gate : RateClass) : Option Nat := if settled = .unknown then gate.nominal else settled.nominal

/-- The health grade of a gate (R7). Under a tolerance wider than its class a gate can fall in another class than the settled one, or in
none, and yet deviate by no more than the tolerance: R7 grades it GOOD, R12 WEAK in ADMIT and RUNNING; the model follows R7 (its
choice, log 55). -/
def gradeOf (framing count tolerance : Nat) (nominal : Option Nat) : Grade :=
  if 0 < framing then .dead
  else
    match nominal with
    | none => .weak
    | some n => if tolerance < ((count : Int) - n).natAbs then .weak else .good

/-- The grade's code (R7). -/
def Grade.code : Grade → Nat
  | .none => 0 | .good => 0 | .weak => 1 | .dead => 2

/-- States in which a lane can be lost (R11). -/
def LaneState.losable : LaneState → Bool
  | .sense => true
  | .waitingBudget => true
  | .running => true
  | _ => false

/-- The dead run after a grade (R11). -/
def Lane.nextDeadRun (x : Lane) (g : Grade) : Nat :=
  if g = .dead then (if x.state.losable then satSucc 3 x.deadRun else x.deadRun) else 0

/-- The gate ends: its count goes to the history, the next gate's counts start, and the gate is graded (R2 to R7). -/
def Lane.endGate (x : Lane) : Lane :=
  let c := x.gauge.count
  let g := gradeOf x.framing c.toNat x.settings.tolerance (refNominal x.settled (classOf c.toNat))
  { x with
    gauge := { x.gauge with count := 0, history := (c :: x.gauge.history).take 4, elapsed := 0 },
    lastFraming := x.framing, lastInvalid := x.invalid, lastActivity := x.activity,
    framing := 0, invalid := 0, activity := false, grade := g, deadRun := x.nextDeadRun g }

/-- What the lane record will keep of this SENSE gate (R9). -/
def Lane.senseGate (x : Lane) (count : Nat) : SenseGate :=
  { cls := classOf count, clean := decide (x.lastFraming = 0) && classOf count != .unknown, valid := x.validAll }

/-- Two SENSE gates form a settling pair (R9). -/
def SenseGate.settles (a b : SenseGate) : Bool := a.clean && b.clean && a.cls == b.cls && a.valid &&& b.valid != 0

/-- A settling pair: the class and slots settle, the lane enters ADMIT and asks (R9, R12, R27). -/
def LaneSide.admitLane (l : LaneId) (gate prev : SenseGate) (count : Nat) (v : LaneSide) : LaneSide :=
  let v := v.move l fun x =>
    { x with
      state := .waitingBudget, settled := gate.cls, active := gate.valid &&& prev.valid,
      conv := { x.conv with settling := some (measuredRatio count) } }
  v.ask l

/-- SENSE has failed (R9, R10). -/
def LaneSide.reject (l : LaneId) (v : LaneSide) : LaneSide :=
  (v.move l fun x => { x with state := .rejected }).onPanel (Panel.raise (.laneRejected l))

/-- A SENSE gate is judged, the lane not lost (R9). -/
def LaneSide.judgeSense (l : LaneId) (count : Nat) (v : LaneSide) : LaneSide :=
  let v := v.modLane l fun x => { x with senseGates := satSucc 10 x.senseGates }
  let x := v.lane l
  let gate := x.senseGate count
  match x.prevSense with
  | some prev =>
    if gate.settles prev then v.admitLane l gate prev count
    else if x.senseGates = 10 then v.reject l
    else v.modLane l fun x => { x with prevSense := some gate }
  | none =>
    if x.senseGates = 10 then v.reject l
    else v.modLane l fun x => { x with prevSense := some gate }

/-- The state machine at a gate expiry whose gate has been graded (R8 to R11). -/
def LaneSide.judgeGate (l : LaneId) (count : Nat) (v : LaneSide) : LaneSide :=
  let x := v.lane l
  if x.state.losable ∧ (count = 0 ∨ (x.grade = .dead ∧ x.deadRun = 3)) then v.lose l
  else if x.state = .sense ∧ x.gateInSense then v.judgeSense l count
  else if (x.state = .detect ∨ x.state = .rejected) ∧ x.lastActivity = false then v.fallSilent l
  else v

/-- The observations of a RUNNING lane's gate (R7, R29, 8.2). -/
def Lane.observed (x : Lane) (count : Nat) : Measure → Option Int
  | .deviation => x.settled.nominal.map fun n => (count : Int) - n
  | .slips => some x.conv.slipsInGate
  | .framing => some x.lastFraming
  | .fill => some x.conv.fill
  | .grade => some x.grade.code
  | _ => none

/-- A RUNNING lane's gate goes to its converter and to the watch unit (R5, R29). -/
def LaneSide.gateFigures (l : LaneId) (count : Nat) (v : LaneSide) : LaneSide :=
  let v := (v.modConv l (Converter.updateRatio count)).judgeBypass l count
  (v.onPanel (Panel.observe (.lane l) ((v.lane l).observed count))).settleSlips l

/-- The next gate begins (R9). -/
def Lane.beginGate (x : Lane) : Lane := { x with gateInSense := x.state == .sense, validAll := BitVec.allOnes 8 }

/-- A gate of the lane's gauge has run its 4800 output frames (R4, R5). -/
def Lane.gateDue (x : Lane) : Bool := x.gauge.mode == .timed && decide (Config.gateFrames ≤ x.gauge.elapsed)

/-- A gate expires (R5). -/
def LaneSide.expireGate (l : LaneId) (v : LaneSide) : LaneSide :=
  if (v.lane l).gateDue then
    let count := (v.lane l).gauge.count.toNat
    let v := (v.modLane l Lane.endGate).judgeGate l count
    let v := if (v.lane l).state = .running then v.gateFigures l count else v
    v.modLane l Lane.beginGate
  else v

/-! ## Lane fades (R39, R40, R89) -/

/-- The taps of every member on a lane move by the old latency minus the new (R89). -/
def Prog.realign (l : LaneId) (old new : Nat) (x : Prog) : Prog :=
  if x.state = .running ∨ x.state = .releasing then
    { x with members := x.members.map fun m => if m.spec.lane = l then { m with tap := m.tap + 64 * ((old : Int) - new) } else m }
  else x

/-- A running lane's fade has come to its faded point, and it has not been taken. -/
def Lane.fadedDue (x : Lane) : Bool := x.state == .running && x.conv.fade == .fadeOut && decide (x.conv.fadePos = 0)

/-- A running lane's fade has come to its end, and that has not been taken. -/
def Lane.fadeEndDue (x : Lane) : Bool :=
  x.state == .running && x.conv.fade == .fadeIn && decide (Config.fadeFrames ≤ x.conv.fadePos)

/-- The faded point of a lane fade (R39). -/
def State.laneFadedPoint (l : LaneId) (s : State) : State :=
  if (s.lane l).fadedDue then
    let t := s.onLanes (LaneSide.fadedPoint l)
    { t with progs := t.progs.map (Prog.realign l (s.lane l).latency (t.lane l).latency) }
  else s

/-- The end of a lane fade (R39, R40). -/
def State.laneFadeEnd (l : LaneId) (s : State) : State :=
  if (s.lane l).fadeEndDue then s.onLanes fun v => v.modConv l Converter.completeFade else s

/-! ## Lane requests (R17 to R19, R38, R43) -/

/-- The lane a request names (1.5). -/
def laneOf (n : Nat) : Option LaneId := if h : n < 8 then some ⟨n, h⟩ else none

/-- Act on the lane a request names; NO_OBJECT outside 0 to 7 (1.5). -/
def onLane (n : Nat) (act : LaneId → State → Answer) (s : State) : Answer :=
  match laneOf n with
  | none => (.noObject, .empty, s)
  | some l => act l s

/-- The settings with those present put in place (R17). -/
def LaneSettings.with (b : LaneSetBody) (x : LaneSettings) : LaneSettings :=
  { enabled := b.enable.getD x.enabled
    preference := b.preference.getD x.preference
    bypassAllowed := b.bypassAllowed.getD x.bypassAllowed
    tolerance := (b.tolerance.map (min 200)).getD x.tolerance
    openCounting := b.openCounting.getD x.openCounting }

/-- A changed quality preference reaches the arbiter (R38). -/
def LaneSide.preferenceChanged (l : LaneId) (v : LaneSide) : LaneSide :=
  let x := v.lane l
  match x.state, x.settings.preference, x.conv.granted with
  | .running, .short, .full => (v.regrant l .short).release
  | .running, .full, .short => v.upgradePass
  | _, _, _ => v

/-- Bypass allowed has become no (R38). -/
def LaneSide.bypassForbidden (l : LaneId) (v : LaneSide) : LaneSide := if (v.lane l).judgesExit then v.leaveBypass l else v

/-- The settings present take effect (R14, R17, R38), in this order (log 20). -/
def LaneSide.setLane (l : LaneId) (b : LaneSetBody) (v : LaneSide) : LaneSide :=
  let old := (v.lane l).settings
  let v := v.modLane l fun x => { x with settings := x.settings.with b }
  let new := (v.lane l).settings
  let v := if old.preference = new.preference then v else v.preferenceChanged l
  let v := if old.bypassAllowed = true ∧ new.bypassAllowed = false then v.bypassForbidden l else v
  let v := if (v.lane l).state = .disabled ∧ old.openCounting ≠ new.openCounting then
      v.modLane l fun x => { x with gauge := x.gauge.disabled x.settings.openCounting }
    else v
  match b.enable with
  | some false => if (v.lane l).state = .disabled then v else v.disable l
  | some true => if (v.lane l).state = .disabled then v.enable l else v
  | none => v

/-- LANE_SET on a lane (R17). -/
def laneSetAnswer (b : LaneSetBody) (l : LaneId) (s : State) : Answer :=
  let clamped := decide (200 < b.tolerance.getD 0)
  (takenStatus clamped, if clamped then .tolerance 200 else .empty, s.onLanes (LaneSide.setLane l b))

/-- LANE_RESET on a lane (R18). -/
def laneResetAnswer (l : LaneId) (s : State) : Answer :=
  if (s.lane l).state = .disabled then (.state, .empty, s) else (.ok, .empty, s.onLanes (LaneSide.reset l))

/-- A lane's place on the admission queue, 1 to 8 (R43). -/
def Front.place (f : Front) (l : LaneId) : Option Nat := (f.admission.findIdx? (· == l)).map (· + 1)

/-- LANE_QUERY's figures (R19, R43). While no fade is in flight its position is absent (the model's choice, log 29). -/
def laneReply (l : LaneId) (f : Front) : LaneReply :=
  let x := f.lanes[l]
  { state := x.state, settled := x.settled, active := x.active, grade := x.grade, deadRun := x.deadRun,
    senseGates := x.senseGates, mode := x.gauge.mode, gateOpen := x.gauge.mode != .closed, count := x.gauge.count,
    history := x.gauge.history, framing := x.lastFraming, invalid := x.lastInvalid, activity := x.lastActivity,
    settings := x.settings, granted := x.conv.granted, effective := x.conv.effective, forced := x.conv.forced,
    tracking := x.conv.tracking, acquisition := x.conv.acquisition, ratio := x.conv.ratio,
    settling := if x.state = .waitingBudget then x.conv.settling else none, fill := x.conv.fill, latency := x.latency,
    slipCount := x.conv.slipCount, slipsInGate := x.conv.slipsInGate, gatesSinceSlip := x.conv.gatesSinceSlip,
    fade := x.conv.fade, fadePos := shown (x.conv.fade != .none) x.conv.fadePos, place := f.place l }

/-- LANE_QUERY on a lane (R19). -/
def laneQueryAnswer (l : LaneId) (s : State) : Answer := (.ok, .lane (laneReply l s.front), s)

/-- LANE_QUERY (R19, R43). -/
def execLaneQuery (s : State) : Host.Outcome State Fault Refusal :=
  s.carry (State.takeRequest (· == 0x10) false (withBody bodyNumber fun n => onLane n laneQueryAnswer))

/-- LANE_SET (R17, R14, R38). -/
def execLaneSet (s : State) : Host.Outcome State Fault Refusal :=
  s.carry (State.takeRequest (· == 0x11) false (withBody bodyLaneSet fun b => onLane b.lane (laneSetAnswer b)))

/-- LANE_RESET (R18). -/
def execLaneReset (s : State) : Host.Outcome State Fault Refusal :=
  s.carry (State.takeRequest (· == 0x12) false (withBody bodyNumber fun n => onLane n laneResetAnswer))

/-- LANE_ACTIVITY (R2, R8). -/
def execLaneActivity (l : LaneId) (s : State) : Host.Outcome State Fault Refusal :=
  s.carry fun s => s.onLanes (LaneSide.activity l)

/-- LANE_FRAME_CLOSED (R2, R3, R4, R8). -/
def execLaneFrameClosed (l : LaneId) (f : LaneFrame) (s : State) : Host.Outcome State Fault Refusal :=
  s.carry fun s => s.onLanes (LaneSide.marker l f)

/-- GATE_EXPIRY (R5 to R13, R29 to R34). -/
def execGateExpiry (l : LaneId) (s : State) : Host.Outcome State Fault Refusal :=
  s.carry fun s => s.onLanes (LaneSide.expireGate l)

/-- LANE_FADE_FADED_POINT (R39, R89). -/
def execLaneFadeFadedPoint (l : LaneId) (s : State) : Host.Outcome State Fault Refusal := s.carry (State.laneFadedPoint l)

/-- LANE_FADE_COMPLETE (R39, R40). -/
def execLaneFadeComplete (l : LaneId) (s : State) : Host.Outcome State Fault Refusal := s.carry (State.laneFadeEnd l)

end Sys2Proof.Machine
end

