-- ==== Sys2Proof/Machine/Programmes.lean ====
section
/-! DEFINITION. Programmes.lean: the programme table (chapter 3): definitions and their conflicts, undefinition, reset and query, and
the bus (R54). -/
namespace Sys2Proof.Machine

/-! ## Members and conflicts (R47) -/

/-- Why a member cannot be taken, and the programme that holds what it claims. -/
abbrev Conflict := ConflictKind × Option ProgId

/-- The programme that holds an input channel (the member map). -/
def inputHolder (progs : Vector Prog 16) (lane : LaneId) (slot : SlotId) : Option ProgId :=
  allProgs.find? fun p => (progs[p].members).any fun m => m.spec.lane == lane && m.spec.slot == slot

/-- The programme that holds an output slot (the output slot map). -/
def outputHolder (progs : Vector Prog 16) (lane : LaneId) (slot : SlotId) : Option ProgId :=
  allProgs.find? fun p => (progs[p].members).any fun m => m.spec.placement == some (lane, slot)

/-- An output placement's numbers within range; none when one is outside. -/
def placementOf (n : Nat × Nat) : Option (LaneId × SlotId) :=
  match laneOf n.1, laneOf n.2 with
  | some l, some k => some (l, k)
  | _, _ => none

/-- A member of a request with its numbers within range, or the condition of R47 it meets, those before it in the request being
these. -/
def judgeMember (progs : Vector Prog 16) (earlier : List MemberDef) (m : MemberBody) : Except Conflict MemberDef :=
  match laneOf m.lane, laneOf m.slot with
  | some lane, some slot =>
    match m.placement.map placementOf with
    | some none => .error (.outputRange, none)
    | placed =>
      let placement := placed.bind id
      let taken : Option ProgId := inputHolder progs lane slot
      let outTaken : Option ProgId := placement.bind fun o => outputHolder progs o.1 o.2
      if taken.isSome then .error (.inputTaken, taken)
      else if earlier.any (fun e => e.lane == lane && e.slot == slot) then .error (.inputRepeated, none)
      else if outTaken.isSome then .error (.outputTaken, outTaken)
      else if placement.isSome && earlier.any (fun e => e.placement == placement) then .error (.outputRepeated, none)
      else .ok { lane := lane, slot := slot, role := m.role, weight := m.weight, placement := placement }
  | _, _ => .error (.inputRange, none)

/-- The members judged in member order: all of them, or the index of the first that fails and why (R47). -/
def judgeMembers (progs : Vector Prog 16) : List MemberDef → List MemberBody → Except (Nat × Conflict) (List MemberDef)
  | earlier, [] => .ok earlier
  | earlier, m :: rest =>
    match judgeMember progs earlier m with
    | .error c => .error (earlier.length, c)
    | .ok d => judgeMembers progs (earlier ++ [d]) rest

/-! ## Definition (R48) -/

/-- A member as it is defined: no ring, no tap, nothing measured. -/
def Member.fresh (d : MemberDef) : Member :=
  { spec := d, tap := 0, ring := none, history := [], energy := 0, words := [], out := 0 }

/-- A programme's record as it is defined, every setting at its default (R48). -/
def Prog.defined (ms : List MemberDef) : Prog := { Prog.undefined with members := ms.map Member.fresh }

/-- A definition taken: the record is stored and funded as a new programme (R48, R74, R80). -/
def ProgSide.define (p : ProgId) (x : Prog) (v : ProgSide) : ProgSide :=
  ProgSide.event (ProgSide.fundNew p) { v with progs := v.progs.set p x }

/-- PROG_DEFINE on a programme that is UNDEFINED (R47, R48). -/
def progDefineAnswer (ms : List MemberBody) (p : ProgId) (s : State) : Answer :=
  match judgeMembers s.progs [] ms with
  | .error (i, kind, holder) => (.conflict, .conflict i kind holder, s)
  | .ok defs =>
    let t := s.onProgs (ProgSide.define p (Prog.defined defs))
    (.ok, .defined (t.prog p).state, t)

/-! ## Undefinition, reset and query (R51, R57, R58) -/

/-- A WAITING programme is undefined (R51, R158). -/
def ProgSide.undefineWaiting (p : ProgId) (v : ProgSide) : ProgSide :=
  let v := v.leaveWait p
  ({ v with progs := v.progs.set p Prog.undefined } : ProgSide).onPanel (Panel.restartWatches p)

/-- PROG_UNDEFINE on a WAITING or RUNNING programme (R51). -/
def progUndefineAnswer (p : ProgId) (s : State) : Answer :=
  (.ok, .empty,
    s.onProgs (if (s.prog p).state = .waiting then ProgSide.undefineWaiting p else ProgSide.beginRelease p))

/-- Measurement and correction start again (R57, R123, R147, R185). -/
def Prog.restart (x : Prog) : Prog :=
  let y := x.startMeter
  { y with gain := y.gain.start, report := { y.report with counter := 0 } }

/-- PROG_RESET on a RUNNING programme (R57). -/
def progResetAnswer (p : ProgId) (s : State) : Answer := (.ok, .empty, s.modProg p Prog.restart)

/-- Whether a programme has pages and a current delay. -/
def ProgState.live : ProgState → Bool
  | .running => true
  | .releasing => true
  | _ => false

/-- A member's figures in PROG_QUERY (R58, R103). -/
def memberReply (f : Front) (live : Bool) (m : Member) : MemberReply :=
  let x := f.lanes[m.spec.lane]
  { spec := m.spec, weight := m.spec.effectiveWeight, laneRunning := x.state == .running,
    slotActive := x.active.getLsbD m.spec.slot, tap := if live then some m.tap else none, latency := x.latency }

/-- A programme's place on the page wait list, 1 to 16 (R81). -/
def Dmc.place (d : Dmc) (p : ProgId) : Option Nat := (d.wait.findIdx? (· == p)).map (· + 1)

/-- The pages a programme holds in total (R81). -/
def Prog.pagesHeld (x : Prog) : Nat := x.members.length * x.pagesPerChannel

/-- PROG_QUERY's figures (R58, R81, R103). A programme off the page wait list reports 0 outstanding pages and a deficit of 0, a
RELEASING one too (the model's choice, log 46). -/
def progReply (p : ProgId) (s : State) : ProgReply :=
  let x := s.prog p
  let r := x.delay
  let live := x.state.live
  let waits := decide (p ∈ s.dmc.wait)
  { state := x.state, members := x.members.map (memberReply s.front live), inputStamp := x.inputStamp,
    outputStamp := shown live x.outputStamp, video := r.video, trim := r.trim, requested := r.requested, pending := r.pending,
    method := r.method, glideLimit := r.glideLimit, funded := shown live r.funded, current := shown live r.current,
    change := r.change, kind := shown (r.change != .steady) r.kind,
    fadePos := shown (r.change == .fadeOut || r.change == .fadeIn) r.fadePos, fill := shown (r.change == .filling) r.fill,
    ahead := r.ahead, lipSync := shown live r.lipSyncError, releasePos := shown (x.state == .releasing) r.releasePos,
    entryLevel := shown (x.state == .releasing) r.entryLevel, pagesPerChannel := x.pagesPerChannel, pagesHeld := x.pagesHeld,
    holding := shown live r.holding, place := s.dmc.place p,
    outstanding := if waits then x.members.length * pagesFor r.requested - x.pagesHeld else 0,
    deficit := if waits then r.requested - r.funded else 0 }

/-- PROG_QUERY on a programme (R58). -/
def progQueryAnswer (p : ProgId) (s : State) : Answer := (.ok, .prog (progReply p s), s)

/-! ## The bus (R54) -/

/-- A member's sample of the bus frame: its lane's converter output, where the lane runs and the slot is active (R54). -/
def Front.busSample (f : Front) (m : Member) : Int :=
  let x := f.lanes[m.spec.lane]
  if x.state = .running ∧ x.active.getLsbD m.spec.slot = true then x.conv.output.getD m.spec.slot.val 0 else 0

/-- A programme's bus frame, in member order. -/
def Front.bus (f : Front) (x : Prog) : List Int := x.members.map f.busSample

/-! ## Commands -/

/-- PROG_DEFINE (R47, R48, R74). -/
def execProgDefine (s : State) : Host.Outcome State Fault Refusal :=
  s.carry (State.takeRequest (· == 0x20) false
    (withBody bodyProgDefine fun b => onProg ProgState.refusesDefine b.1 (progDefineAnswer b.2)))

/-- PROG_UNDEFINE (R51). -/
def execProgUndefine (s : State) : Host.Outcome State Fault Refusal :=
  s.carry (State.takeRequest (· == 0x21) false
    (withBody bodyNumber fun n => onProg ProgState.refusesSetting n progUndefineAnswer))

/-- PROG_QUERY (R58, R81, R103). -/
def execProgQuery (s : State) : Host.Outcome State Fault Refusal :=
  s.carry (State.takeRequest (· == 0x22) false
    (withBody bodyNumber fun n => onProg ProgState.refusesQuery n progQueryAnswer))

/-- PROG_RESET (R57, R123, R147). -/
def execProgReset (s : State) : Host.Outcome State Fault Refusal :=
  s.carry (State.takeRequest (· == 0x23) false
    (withBody bodyNumber fun n => onProg ProgState.refusesReset n progResetAnswer))

end Sys2Proof.Machine
end

