-- ==== Sys2Proof/Machine/Reference.lean ====
section
/-! DEFINITION. Reference.lean: the reference unit (2.1): the counts over the house reference and the changes of state they bring. -/
namespace Sys2Proof.Machine

/-- The reference object's observation (R25, 8.2). -/
def RefState.observed (r : RefState) : Measure → Option Int
  | .refState => some r.code
  | _ => none

/-- What a change of reference state hands on: the REF notice, the observation, and REF_LOST raised on HOLDOVER from LOCKED and
cleared on LOCKED from RELOCK (R25). -/
def Panel.refChanged (new left : RefState) (latch : Bool) (v : Panel) : Panel :=
  let v := (v.offer (.ref new left latch v.now)).observe .reference new.observed
  if new = .holdover ∧ left = .locked then v.raise .refLost
  else if new = .locked ∧ left = .relock then v.clear .refLost
  else v

/-- A change of reference state; every entry to HOLDOVER sets the unlock latch (R24, R25). -/
def State.changeRef (new : RefState) (s : State) : State :=
  let latch := s.refu.latch || new == .holdover
  ({ s with refu := { s.refu with state := new, latch := latch } }).onPanel (Panel.refChanged new s.refu.state latch)

/-- The presence count has reached 4800 in a state that leaves on it (R22). -/
def Refu.presenceDue (r : Refu) : Bool := decide (4800 ≤ r.presence) && (r.state == .free || r.state == .holdover)

/-- The silence count has reached 48 in a state that leaves on it (R23). -/
def Refu.silenceDue (r : Refu) : Bool := decide (48 ≤ r.silence) && (r.state == .locked || r.state == .relock)

/-- FREE enters LOCKED, HOLDOVER enters RELOCK (R22). -/
def State.presenceReached (s : State) : State :=
  if s.refu.presenceDue then s.changeRef (if s.refu.state = .free then .locked else .relock) else s

/-- LOCKED or RELOCK enters HOLDOVER (R23). -/
def State.silenceReached (s : State) : State := if s.refu.silenceDue then s.changeRef .holdover else s

/-- The counts and the frame clock at an output frame boundary (R21, R22). -/
def Refu.boundary (r : Refu) : Refu :=
  let silence := if r.strobeSeen then 0 else satSucc 48 r.silence
  { r with
    clock := (r.clock + 1) % Config.clockModulus, silence := silence, strobeSeen := false,
    presence := if silence ≤ 1 then satSucc 4800 r.presence else 0 }

/-- A strobe counts for the frame in progress; in RELOCK a phase error below 1/64 frame brings LOCKED (R22, R23). -/
def State.strobe (phase : Int) (s : State) : State :=
  let s := { s with refu := { s.refu with strobeSeen := true } }
  if s.refu.state = .relock ∧ phase.natAbs < 1 then s.changeRef .locked else s

/-- REF_STROBE (R22, R23). -/
def execRefStrobe (phase : Int) (s : State) : Host.Outcome State Fault Refusal := s.carry (State.strobe phase)

/-- PRESENCE_COUNT_REACHED (R22). -/
def execPresenceCountReached (s : State) : Host.Outcome State Fault Refusal := s.carry State.presenceReached

/-- SILENCE_COUNT_REACHED (R23). -/
def execSilenceCountReached (s : State) : Host.Outcome State Fault Refusal := s.carry State.silenceReached

end Sys2Proof.Machine
end

