-- ==== Sys2Proof/Machine/Boundary.lean ====
section
/-! DEFINITION. Boundary.lean: the output frame boundary (R21), at which everything that runs by output frames advances. -/
namespace Sys2Proof.Machine

/-! ## What is outstanding (log 3)

A fade, gate, glide, ramp, release or sub-block that has come to its end is completed by its own command. One that the boundary
finds outstanding is completed first, in this order, so that nothing runs past its end. -/

/-- A programme's outstanding completions. -/
def ProgSide.settleProg (v : ProgSide) (p : ProgId) : ProgSide :=
  let v := (((v.jumpFaded p).fillEnd p).fadeInEnd p).glideEnd p
  let v := v.modProg p fun x => { x with gain := x.gain.endRamp }
  (v.releaseEnd p).completeSubBlock p

/-- A lane's outstanding gate expiry. -/
def State.settleGate (s : State) (l : LaneId) : State := s.onLanes (LaneSide.expireGate l)

/-- A lane's outstanding faded point and end of fade. -/
def State.settleFade (s : State) (l : LaneId) : State := (s.laneFadedPoint l).laneFadeEnd l

/-- Everything outstanding. -/
def State.settle (s : State) : State :=
  let s := s.presenceReached.silenceReached
  let s := allLanes.foldl State.settleFade (allLanes.foldl State.settleGate s)
  s.onProgs fun v => allProgs.foldl ProgSide.settleProg v

/-! ## Gauges and converters (R4, R28, R30, R34, R39) -/

/-- An output frame of the gate in progress has ended (R4). -/
def Gauge.tick (g : Gauge) : Gauge := if g.mode = .timed then { g with elapsed := g.elapsed + 1 } else g

/-- A lane at a boundary: its gate grows older, and its converter, when it runs, produces one frame. -/
def Lane.boundary (x : Lane) : Lane :=
  { x with gauge := x.gauge.tick, conv := if x.state = .running then x.conv.boundary else x.conv }

/-- All lanes at a boundary; then each fill that has moved is judged, in ascending lane number (the model's choice, log 43). -/
def LaneSide.boundary (v : LaneSide) : LaneSide :=
  allLanes.foldl LaneSide.fillMoved { v with front := { v.front with lanes := v.front.lanes.map Lane.boundary } }

/-! ## Rings and fades of a programme (R54, R65, R92, R95 to R97, R102) -/

/-- A step of a glide (R92). -/
def Prog.glideStep (x : Prog) : Prog :=
  let target := 64 * x.delay.funded
  if x.state = .running ∧ x.delay.change = .gliding then
    if x.delay.current < target then x.moveDelay (x.delay.current + 1)
    else if target < x.delay.current then x.moveDelay (x.delay.current - 1)
    else x
  else x

/-- A member's sample is written at its ring's write point, which then moves on (R65). -/
def writeMember1 (dram : Memory) (m : Member) (sample : Int) : Memory × Member :=
  match m.ring with
  | none => (dram, m)
  | some r => (writeSample dram r.writePage r.writeOffset sample, { m with ring := some r.advance })

/-- The bus frame written, in member order. -/
def writeBus : Memory → List Member → List Int → Memory × List Member
  | dram, m :: ms, x :: xs =>
    let w := writeMember1 dram m x
    let others := writeBus w.1 ms xs
    (others.1, w.2 :: others.2)
  | dram, ms, _ => (dram, ms)

/-- The fade positions and the fill move by one frame (R95, R96, R97, R102). -/
def DelayRec.moveFades (state : ProgState) (r : DelayRec) : DelayRec :=
  if state = .releasing then { r with releasePos := r.releasePos - 1 }
  else
    match r.change with
    | .steady => r
    | .gliding => r
    | .fadeOut => { r with fadePos := r.fadePos - 1 }
    | .filling => { r with fill := r.fill - 1 }
    | .fadeIn => { r with fadePos := min Config.fadeFrames (r.fadePos + 1) }

/-- The output of a boundary. At a jump's faded point the gain stage sees the output stamp, and the samples, that the jump gives, under
a fade factor of 0; the delay itself moves in JUMP_FADED_POINT (R90, R95, R137, R138, log 18). -/
def Prog.boundaryOutput (dram : Memory) (shift : LaneId → Int) (x : Prog) : Prog :=
  if x.jumpDue then
    let y := x.jumped.outputStage dram shift
    { x with gain := y.gain, members := List.zipWith (fun m n => { m with out := n.out }) x.members y.members }
  else x.outputStage dram shift

/-- How far the taps of a lane's members move at this boundary: the old latency minus the new, where the boundary is the faded point
of a lane fade that changes the mode (R39, R89). -/
def Front.tapShift (f : Front) (l : LaneId) : Int :=
  let x := f.lanes[l]
  if x.fadedDue ∧ x.conv.granted ≠ x.conv.effective then (x.latency : Int) - x.conv.granted.latency else 0

/-- The bus frame goes to the rings and, while RUNNING, to the meter; the stamp rises; the fades move (R54, R55). -/
def Prog.carryBus (bus : List Int) (members : List Member) (x : Prog) : Prog :=
  let y := { x with members := members }
  let y := if x.state = .running then y.meterFrame bus else y
  { y with inputStamp := (x.inputStamp + 1) % Config.clockModulus, delay := y.delay.moveFades x.state }

/-- A RUNNING or RELEASING programme at a boundary, but for the pages a glide gives up. -/
def ProgSide.boundaryProg (f : Front) (v : ProgSide) (p : ProgId) : ProgSide :=
  let x := (v.prog p).glideStep
  if x.state.live then
    let bus := f.bus x
    let w := writeBus v.dmc.dram x.members bus
    let y := (x.carryBus bus w.2).boundaryOutput w.1 f.tapShift
    { v with dmc := { v.dmc with dram := w.1 }, progs := v.progs.set p y }
  else v

/-- A glide that fell gives up the pages its holding delay no longer needs (R91). -/
def ProgSide.glidePages (v : ProgSide) (p : ProgId) : ProgSide :=
  if (v.prog p).state = .running ∧ (v.prog p).delay.change = .gliding then v.holdingFell p else v

/-- All programmes at a boundary, ascending, but for the pages that falling glides give up (log 19). -/
def ProgSide.boundary (f : Front) (v : ProgSide) : ProgSide := allProgs.foldl (ProgSide.boundaryProg f) v

/-- The pages that falling glides give up, ascending, the page wait list served at each (R70, R91, log 19). -/
def ProgSide.givePages (v : ProgSide) : ProgSide := allProgs.foldl ProgSide.glidePages v

/-! ## The output lanes and the monitor pair (R15, R16) -/

/-- The word a member's slot carries: its sample under a live programme, idle otherwise. -/
def Prog.memberWord (x : Prog) (i : Nat) : SlotWord :=
  match x.state.live, x.members[i]? with
  | true, some m => slotWord m.out true
  | _, _ => SlotWord.idle

/-- The word of an output slot (R15). -/
def outputWord (progs : Vector Prog 16) (lane : LaneId) (slot : SlotId) : SlotWord :=
  match outputHolder progs lane slot with
  | none => SlotWord.idle
  | some p => progs[p].memberWord ((progs[p].members).findIdx fun m => m.spec.placement == some (lane, slot))

/-- Every output lane's slots (R15). -/
def outputWords (progs : Vector Prog 16) : List SlotWord := allLanes.flatMap fun l => allSlots.map fun k => outputWord progs l k

/-- The monitor pair's two slots: the first member and the second, or the only one twice (R16). -/
def monitorWords (progs : Vector Prog 16) (monitored : Option ProgId) : List SlotWord :=
  match monitored with
  | none => [SlotWord.idle, SlotWord.idle]
  | some p =>
    let x := progs[p]
    [x.memberWord 0, x.memberWord (if x.members.length = 1 then 0 else 1)]

/-- What goes out at a boundary; silence until the profile load has ended (R15, R16, R189). -/
def State.drive (s : State) : State :=
  { s with
    out := if s.pfu.outcome = .loading then Outputs.idle
           else { slots := outputWords s.progs, monitor := monitorWords s.progs s.wch.monitored } }

/-- An output frame ends and the next begins (R21). The outputs go out before falling glides give up pages, so the monitor source that
a DELAY_DEFICIT cleared by that service decides is taken at the next boundary (R168), as a programme that it starts is heard from there
(R50, log 19). -/
def State.frameBoundary (s : State) : State :=
  let s := s.settle
  let s := { s with refu := s.refu.boundary }
  let s := s.onLanes LaneSide.boundary
  let s := s.onProgs (ProgSide.boundary s.front)
  s.drive.onProgs ProgSide.givePages

/-- OUTPUT_FRAME_BOUNDARY (R21, R22, R28, R54, R65, R66, R92, R105, R137, R142). -/
def execOutputFrameBoundary (s : State) : Host.Outcome State Fault Refusal := s.carry State.frameBoundary

end Sys2Proof.Machine
end

