-- ==== Sys2Proof/Machine/LinkCommands.lean ====
section
/-! DEFINITION. LinkCommands.lean: power, the line, and the link controller's own requests (9.1 to 9.5, 9.7). -/
namespace Sys2Proof.Machine

/-! ## Power and restart (R173, R181, R189) -/

/-- The line rate the straps select (R173). -/
def strapRate (strap1 strap0 : Bool) : Nat :=
  match strap1, strap0 with
  | false, false => 115200
  | false, true => 921600
  | true, false => 3000000
  | true, true => 115200

/-- POWER_ON (R173, R189): every block in its reset state; the memories keep what they hold (R82, R193). -/
def execPowerOn (strap1 strap0 : Bool) (s : State) : Host.Outcome State Fault Refusal :=
  .next (State.afterReset (strapRate strap1 strap0) s.dmc.dram s.pfu.mem s.pending)

/-- POWER_LOSS (R193): nothing is kept but the memories (log 28). That a transfer still awaiting PROFILE_TRANSFER_ACK is not committed,
also when its bytes have all been acknowledged, is the model's choice (log 58). -/
def execPowerLoss (s : State) : Host.Outcome State Fault Refusal :=
  .next { State.afterReset s.lnk.lineRate s.dmc.dram s.pfu.mem s.pending with powered := false }

/-- The restart takes effect when its reply has been sent (R181). A store in flight is abandoned; that a transfer still awaiting
PROFILE_TRANSFER_ACK is not committed, also when its bytes have all been acknowledged, is the model's choice (R193, log 58). -/
def State.restarted (s : State) : State :=
  if s.lnk.restart = .due then State.afterReset s.lnk.lineRate s.dmc.dram s.pfu.mem s.pending else s

/-- RESTART_TAKES_EFFECT (R181, R193). -/
def execRestartTakesEffect (s : State) : Host.Outcome State Fault Refusal := s.carry State.restarted

/-- RESTART taken: no further request will be (R181). -/
def restartAnswer (_ : Unit) (s : State) : Answer := (.ok, .empty, { s with lnk := { s.lnk with restart := .taken } })

/-- RESTART (R181). -/
def execRestart (s : State) : Host.Outcome State Fault Refusal :=
  s.carry (State.takeRequest (· == 0x03) false (withBody bodyEmpty restartAnswer))

/-! ## The line (R175, R176, R178) -/

/-- Work on the link controller alone. -/
def State.onLink (s : State) (f : Lnk → Lnk) : State := { s with lnk := f s.lnk }

/-- FRAME_RECEIVED (R174 to R176). -/
def execFrameReceived (bytes : List Byte) (s : State) : Host.Outcome State Fault Refusal :=
  s.carry fun s => s.onLink (Lnk.receive false bytes)

/-- LENGTH_FIELD_EXCEEDS_1024 (R175). -/
def execLengthFieldExceeds1024 (bytes : List Byte) (s : State) : Host.Outcome State Fault Refusal :=
  s.carry fun s => s.onLink (Lnk.receive false bytes)

/-- INTER_BYTE_TIMEOUT (R175). -/
def execInterByteTimeout (s : State) : Host.Outcome State Fault Refusal :=
  s.carry fun s => s.onLink (Lnk.receive true [])

/-- CHARACTER_ERROR (R173, R175). -/
def execCharacterError (s : State) : Host.Outcome State Fault Refusal :=
  s.carry fun s => s.onLink (Lnk.receive true [])

/-- TX_FRAME_END (R178, R181). -/
def execTxFrameEnd (s : State) : Host.Outcome State Fault Refusal := s.carry fun s => s.onLink Lnk.endFrame

/-! ## Requests of the link controller (R177, R179, R180, R185) -/

/-- A request of unknown kind is answered FORMAT (R177). -/
def unknownKindAnswer (_ : List Byte) (s : State) : Answer := (.format, .empty, s)

/-- UNKNOWN_KIND_REQUEST (R177). -/
def execUnknownKindRequest (s : State) : Host.Outcome State Fault Refusal :=
  s.carry (State.takeRequest (fun k => !requestKinds.contains k) false unknownKindAnswer)

/-- The highest severity of a table, none when it is empty (R172). -/
def highestSeverity (table : List AlarmEntry) : Option Nat := (table.map (·.severity)).max?

/-- STATUS's figures (R24, R43, R81, R172, R179, R194). -/
def statusReply (s : State) : StatusReply :=
  { lineRate := s.lnk.lineRate, credit := s.lnk.credit, loss := s.lnk.loss, frameErrors := s.lnk.frameErrors,
    noticeCount := s.lnk.notices.length, requestCount := s.lnk.requests.length, refState := s.refu.state, latch := s.refu.latch,
    clock := s.refu.clock, tapsInUse := s.front.tapsInUse, freeTaps := s.front.freeTaps, admission := s.front.admission,
    freePages := s.dmc.free.length, headPage := s.dmc.free.head?, wait := s.dmc.wait, majorLevel := s.wch.majorLevel,
    freeze := s.wch.freeze, major := s.wch.major, minor := s.wch.minor, alarms := s.wch.table.length,
    unacked := (s.wch.table.filter fun e => !e.acked).length, highest := highestSeverity s.wch.table,
    selected := s.wch.selected, follow := s.wch.follow, monitored := s.wch.monitored, load := s.pfu.outcome,
    storing := s.pfu.store.isSome }

/-- The loss count set to 0 and NOTICE_LOSS cleared (R179). -/
def Panel.clearLoss (v : Panel) : Panel := ({ v with lnk := { v.lnk with loss := 0 } } : Panel).clear .noticeLoss

/-- What STATUS with the clear option clears (R24, R179). -/
def State.statusClear (s : State) : State := ({ s with refu := { s.refu with latch := false } }).onPanel Panel.clearLoss

/-- STATUS (R179): the figures as they stand, then the clear option. -/
def statusAnswer (clear : Bool) (s : State) : Answer :=
  (.ok, .status (statusReply s), if clear then s.statusClear else s)

/-- STATUS (R24, R179). -/
def execStatus (s : State) : Host.Outcome State Fault Refusal :=
  s.carry (State.takeRequest (· == 0x01) true (withBody bodyFlag statusAnswer))

/-- The largest credit count. -/
def creditTop : Nat := 255

/-- CREDIT (R180): the credit granted sets an idle transmitter sending, before the reply is formed. -/
def creditAnswer (n : Nat) (s : State) : Answer :=
  let asked := max 1 n
  let credit := min creditTop (s.lnk.credit + asked)
  (takenStatus (decide (n = 0) || decide (creditTop < s.lnk.credit + asked)), .credit (credit - s.lnk.credit) credit,
    { s with lnk := ({ s.lnk with credit := credit } : Lnk).transmit })

/-- CREDIT (R180). -/
def execCredit (s : State) : Host.Outcome State Fault Refusal :=
  s.carry (State.takeRequest (· == 0x02) false (withBody bodyNumber creditAnswer))

/-- A report setting stored, the counter at 0 (R185). -/
def ReportRec.set (period : Option Nat) (selection : Option Selection) (r : ReportRec) : ReportRec :=
  { period := (period.map (min 600)).getD r.period, selection := selection.getD r.selection, counter := 0 }

/-- REPORT_SET on a programme (R185). -/
def reportSetAnswer (b : Option Nat × Option Selection) (p : ProgId) (s : State) : Answer :=
  let t := s.modProg p fun x => { x with report := x.report.set b.1 b.2 }
  (takenStatus (decide (600 < b.1.getD 0)), .report (t.prog p).report.period (t.prog p).report.selection, t)

/-- REPORT_SET (R185). -/
def execReportSet (s : State) : Host.Outcome State Fault Refusal :=
  s.carry (State.takeRequest (· == 0x44) false
    (withBody bodyReportSet fun b => onProg ProgState.refusesSetting b.1 (reportSetAnswer b.2)))

end Sys2Proof.Machine
end

