-- ==== Sys2Proof/Machine/Watches.lean ====
section
/-! DEFINITION. Watches.lean: the requests of the watch unit (8.7 to 8.11). -/
namespace Sys2Proof.Machine

/-! ## WATCH_SET (R166, R170) -/

/-- The object a kind and a number name, none when there is no such object (R170). -/
def ObjectKind.object (k : ObjectKind) (n : Nat) : Option WatchObject :=
  match k with
  | .programme => (progOf n).map .programme
  | .lane => (laneOf n).map .lane
  | .reference => some .reference
  | .pool => some .pool

/-- The source object's kind after a merge. -/
def WatchBody.kindIn (b : WatchBody) (r : WatchRecord) : ObjectKind := (b.object.map (·.1)).getD r.object.kind

/-- The source object's number after a merge. -/
def WatchBody.numberIn (b : WatchBody) (r : WatchRecord) : Nat := (b.object.map (·.2)).getD r.object.number

/-- The measure after a merge: the code, read within the merged kind (11.2, log 35); none when it does not belong to it. -/
def WatchBody.measureIn (b : WatchBody) (r : WatchRecord) : Option Measure :=
  (b.kindIn r).measure (b.measure.getD r.measure.code)

/-- A watch's record after the fields present, brought into range, are stored (R170). -/
def WatchRecord.with (b : WatchBody) (object : WatchObject) (measure : Measure) (r : WatchRecord) : WatchRecord :=
  { enable := b.enable.getD r.enable, object := object, measure := measure, threshold := b.threshold.getD r.threshold,
    sense := b.sense.getD r.sense, mode := b.mode.getD r.mode,
    raiseCount := (b.raiseCount.map fun n => clampNat n 1 600).getD r.raiseCount,
    clearCount := (b.clearCount.map fun n => clampNat n 1 600).getD r.clearCount,
    severity := (b.severity.map fun n => clampNat n 1 7).getD r.severity,
    freezeEnable := b.freezeEnable.getD r.freezeEnable }

/-- Whether a number present lies outside its range. -/
def countClamped (v : Option Nat) (lo hi : Nat) : Bool := v.any fun n => decide (n < lo) || decide (hi < n)

/-- Whether any field of a watch part is clamped (R170). -/
def WatchBody.clamped (b : WatchBody) : Bool :=
  countClamped b.raiseCount 1 600 || countClamped b.clearCount 1 600 || countClamped b.severity 1 7

/-- A watch part judged against the stored record: the new record, or FORMAT, or NO_OBJECT (R170). -/
def WatchBody.judge (b : WatchBody) (r : WatchRecord) : Except Status WatchRecord :=
  match b.measureIn r with
  | none => .error .format
  | some measure =>
    match (b.kindIn r).object (b.numberIn r) with
    | none => .error .noObject
    | some object => .ok (r.with b object measure)

/-- The watch of a number, none above 31. -/
def watchOf (n : Nat) : Option WatchId := if h : n < 32 then some ⟨n, h⟩ else none

/-- A new major level, MAJOR following at once (R165, R166). -/
def Panel.setMajorLevel (level : Option Nat) (v : Panel) : Panel :=
  match level with
  | none => v
  | some n => { v with wch := ({ v.wch with majorLevel := clampNat n 1 7 } : Wch).settleLines }

/-- The watch part of a WATCH_SET: the watch and its new record, none when the part is absent. -/
def WatchSetBody.judge (b : WatchSetBody) (w : Wch) : Except Status (Option (WatchId × WatchRecord)) :=
  match b.watch with
  | none => .ok none
  | some (n, fields) =>
    match watchOf n with
    | none => .error .noObject
    | some id =>
      match fields.judge w.watches[id].record with
      | .error status => .error status
      | .ok r => .ok (some (id, r))

/-- Whether a WATCH_SET is answered CLAMPED (R166, R170). -/
def WatchSetBody.clamped (b : WatchSetBody) : Bool :=
  countClamped b.majorLevel 1 7 || b.watch.any fun w => w.2.clamped

/-- The parts of a WATCH_SET take effect (R166, R170). -/
def Panel.setWatchParts (part : Option (WatchId × WatchRecord)) (level : Option Nat) (v : Panel) : Panel :=
  let v := match part with
    | none => v
    | some (id, r) => v.restartWatch id r
  v.setMajorLevel level

/-- WATCH_SET (R170). -/
def watchSetAnswer (b : WatchSetBody) (s : State) : Answer :=
  match b.judge s.wch with
  | .error status => (status, .empty, s)
  | .ok part =>
    let t := s.onPanel (Panel.setWatchParts part b.majorLevel)
    (takenStatus b.clamped, .watchSet (part.map fun w => (w.2, t.wch.watches[w.1].state)) t.wch.majorLevel, t)

/-! ## WATCH_QUERY (R171) -/

/-- WATCH_QUERY. -/
def watchQueryAnswer (n : Nat) (s : State) : Answer :=
  match watchOf n with
  | none => (.noObject, .empty, s)
  | some id =>
    (.ok, .watch { watch := s.wch.watches[id], entry := s.wch.entry? (.watch id), freeze := s.wch.freeze,
                   majorLevel := s.wch.majorLevel }, s)

/-! ## ALARM_LIST and ALARM_ACK (R162, R163) -/

/-- Whether the first entry is listed before the second, or they are one (R162). -/
def AlarmEntry.listedBefore (a b : AlarmEntry) : Bool :=
  if a.severity ≠ b.severity then decide (b.severity < a.severity)
  else if a.raised ≠ b.raised then decide (a.raised < b.raised)
  else decide (a.id.code ≤ b.id.code)

/-- An entry put in its place among listed ones. -/
def insertEntry (e : AlarmEntry) : List AlarmEntry → List AlarmEntry
  | [] => [e]
  | x :: rest => if e.listedBefore x then e :: x :: rest else x :: insertEntry e rest

/-- The table in the order of ALARM_LIST (R162). -/
def listedTable : List AlarmEntry → List AlarmEntry
  | [] => []
  | e :: rest => insertEntry e (listedTable rest)

/-- ALARM_LIST (R162). -/
def alarmListAnswer (first : Nat) (s : State) : Answer :=
  (.ok, .alarms s.wch.table.length (((listedTable s.wch.table).drop first).take 40), s)

/-- ALARM_ACK (R163). -/
def alarmAckAnswer (n : Nat) (s : State) : Answer :=
  match AlarmId.ofCode n with
  | none => (.noObject, .empty, s)
  | some id =>
    match s.wch.entry? id with
    | none => (.state, .empty, s)
    | some e => (.ok, .alarm { e with acked := true }, s.onPanel (Panel.acknowledge id))

/-! ## FREEZE and MONITOR_SET (R167, R169) -/

/-- FREEZE. -/
def freezeAnswer (set : Bool) (s : State) : Answer := (.ok, .freeze set, { s with wch := { s.wch with freeze := set } })

/-- A selection byte: a programme, or none as 0xFF; none of both above 15 (R169, 11.2). -/
def selectionOf (n : Nat) : Option (Option ProgId) := if n = 0xFF then some none else (progOf n).map some

/-- The selection and the follow flag are stored and the monitored programme is decided afresh (R168, R169). -/
def Wch.setMonitor (selected : Option (Option ProgId)) (follow : Option Bool) (w : Wch) : Wch :=
  ({ w with selected := selected.getD w.selected, follow := follow.getD w.follow } : Wch).decideMonitor

/-- A MONITOR_SET taken (R169). -/
def monitorTaken (selected : Option (Option ProgId)) (follow : Option Bool) (s : State) : Answer :=
  let w := s.wch.setMonitor selected follow
  (.ok, .monitor w.selected w.follow w.monitored, { s with wch := w })

/-- MONITOR_SET (R169). -/
def monitorSetAnswer (b : Option Nat × Option Bool) (s : State) : Answer :=
  match b.1.map selectionOf with
  | none => monitorTaken none b.2 s
  | some none => (.noObject, .empty, s)
  | some (some selected) => monitorTaken (some selected) b.2 s

/-! ## Commands -/

/-- WATCH_SET (R166, R170). -/
def execWatchSet (s : State) : Host.Outcome State Fault Refusal :=
  s.carry (State.takeRequest (· == 0x50) false (withBody bodyWatchSet watchSetAnswer))

/-- WATCH_QUERY (R171). -/
def execWatchQuery (s : State) : Host.Outcome State Fault Refusal :=
  s.carry (State.takeRequest (· == 0x51) false (withBody bodyNumber watchQueryAnswer))

/-- ALARM_LIST (R162). -/
def execAlarmList (s : State) : Host.Outcome State Fault Refusal :=
  s.carry (State.takeRequest (· == 0x52) false (withBody bodyNumber alarmListAnswer))

/-- ALARM_ACK (R163). -/
def execAlarmAck (s : State) : Host.Outcome State Fault Refusal :=
  s.carry (State.takeRequest (· == 0x53) false (withBody bodyNumber alarmAckAnswer))

/-- FREEZE (R167). -/
def execFreeze (s : State) : Host.Outcome State Fault Refusal :=
  s.carry (State.takeRequest (· == 0x54) false (withBody bodyFlag freezeAnswer))

/-- MONITOR_SET (R168, R169). -/
def execMonitorSet (s : State) : Host.Outcome State Fault Refusal :=
  s.carry (State.takeRequest (· == 0x55) false (withBody bodyMonitorSet monitorSetAnswer))

end Sys2Proof.Machine
end

