-- ==== Sys2Proof/Machine/Profile.lean ====
section
/-! DEFINITION. Profile.lean: the profile unit (chapter 10): the image, its judgement, the load, the store. -/
namespace Sys2Proof.Machine

/-! ## The check (R188) -/

/-- One bit of the reflected CRC-32 register, generator 0x04C11DB7. -/
def crc32Bit (r : BitVec 32) : BitVec 32 := if r.getLsbD 0 then (r >>> 1) ^^^ 0xEDB88320#32 else r >>> 1

def crc32Bits : Nat → BitVec 32 → BitVec 32
  | 0, r => r
  | n + 1, r => crc32Bits n (crc32Bit r)

def crc32From (r : BitVec 32) : List Byte → BitVec 32
  | [] => r
  | b :: rest => crc32From (crc32Bits 8 (r ^^^ b.setWidth 32)) rest

/-- CRC-32 over bytes: register from all ones, reflected, the result inverted. -/
def crc32 (bytes : List Byte) : BitVec 32 := ~~~(crc32From 0xFFFFFFFF#32 bytes)

/-! ## The image (10.1, 11.6) -/

def imageMarker : List Byte := [0x4B, 0x5A, 0x36, 0x34]

/-- The address of the body. -/
def bodyStart : Nat := 16

/-- Whether a programme is part of the image (R191). -/
def ProgState.stored : ProgState → Bool
  | .waiting => true
  | .running => true
  | _ => false

/-- The programmes of the image, ascending. -/
def storedProgs (progs : Vector Prog 16) : List ProgId := allProgs.filter fun p => progs[p].state.stored

/-- The body of the image of the settings as they stand (R191, 11.6). -/
def State.imageBody (s : State) : List Byte :=
  bytes1 s.wch.majorLevel ++ allLanes.flatMap (fun l => writeLaneRecord (s.lane l).settings)
    ++ bytes1 (storedProgs s.progs).length ++ (storedProgs s.progs).flatMap (fun p => writeProgRecord p (s.prog p))
    ++ allWatches.flatMap (fun w => writeWatchRecord s.wch.watches[w].record)

/-- The header of an image (10.1). -/
def imageHeader (storeCount : Nat) (body : List Byte) : List Byte :=
  imageMarker ++ bytes1 1 ++ bytes1 0 ++ bytes2 body.length ++ bytes4 storeCount ++ bytes4 (crc32 body).toNat

/-- A header as read. -/
structure Header where
  marked : Bool
  bodyLength : Nat
  storeCount : Nat
  check : BitVec 32
  deriving DecidableEq, Repr

/-- The header at the start of the memory. -/
def readHeader (mem : Memory) : Header :=
  let field (a n : Nat) : Nat := (mem.readBytes a n).foldl (fun v b => v * 256 + b.toNat) 0
  { marked := mem.readBytes 0 4 == imageMarker && mem.read 4 == 1, bodyLength := field 6 2, storeCount := field 8 4,
    check := BitVec.ofNat 32 (field 12 4) }

/-- The least and the greatest body length of a valid image (R188). -/
def leastBody : Nat := 562
def greatestBody : Nat := 32752

/-- The image judged, the memory having answered every read (R188). -/
def judgeImage (mem : Memory) : Option Profile :=
  let h := readHeader mem
  if h.marked ∧ leastBody ≤ h.bodyLength ∧ h.bodyLength ≤ greatestBody then
    let body := mem.readBytes bodyStart h.bodyLength
    if crc32 body = h.check then readProfile body else none
  else none

/-! ## Applying a profile (R189, R190) -/

/-- A lane record as the LANE_SET that carries all five settings (R20). -/
def LaneRecord.body (l : LaneId) (r : LaneRecord) : LaneSetBody :=
  { lane := l.val, enable := some r.enabled, preference := some r.preference, bypassAllowed := some r.bypassAllowed,
    tolerance := some r.tolerance, openCounting := some r.openCounting }

/-- The lane records applied, lanes 0 to 7. -/
def State.applyLanes (s : State) (rs : List LaneRecord) : State :=
  (allLanes.zip rs).foldl (fun s r => s.onLanes (LaneSide.setLane r.1 (r.2.body r.1))) s

/-- A stored programme's record: its members, and its stored settings brought into range (R48, R83, R122, R128, R185, R188). -/
def ProgRecord.stored (r : ProgRecord) (ms : List MemberDef) : Prog :=
  let x := (Prog.defined ms).setLoud r.loud
  let video := min Config.maxDelay r.video
  let trim := clampInt r.trim (-48000) 48000
  { x with
    delay := { x.delay with
      video := video, trim := trim, requested := requestedDelay video trim, method := r.method,
      glideLimit := min 4800 r.glideLimit }
    gain := { x.gain with paused := r.paused }
    report := { period := min 600 r.period, selection := r.selection, counter := 0 } }

/-- One stored programme defined, or left UNDEFINED and counted as skipped (R59, R189): skipped for every condition of R47, also one
that no earlier programme brings about (the model's choice, log 56). -/
def State.applyProg (s : State) (r : ProgRecord) : State :=
  match progOf r.prog, judgeMembers s.progs [] r.members with
  | some p, .ok defs =>
    let s := { s with pfu := { s.pfu with defined := s.pfu.defined + 1 } }
    s.onProgs (ProgSide.define p (r.stored defs))
  | _, _ => { s with pfu := { s.pfu with skipped := s.pfu.skipped + 1 } }

/-- One watch record applied, the major level in the panel part of the last (R150, R189). -/
def applyWatch (major : Nat) (s : State) (w : WatchId × WatchBody) : State :=
  (watchSetAnswer { watch := some (w.1.val, w.2), majorLevel := if w.1 = 31 then some major else none } s).2.2

/-- A profile's settings applied, in the order of R189. -/
def State.applyProfile (q : Profile) (s : State) : State :=
  (allWatches.zip q.watches).foldl (applyWatch q.majorLevel) (q.progs.foldl State.applyProg (s.applyLanes q.lanes))

/-- A watch record as a WATCH_SET that carries every field. -/
def WatchRecord.body (r : WatchRecord) : WatchBody :=
  { enable := some r.enable, object := some (r.object.kind, r.object.number), measure := some r.measure.code,
    threshold := some r.threshold, sense := some r.sense, mode := some r.mode, raiseCount := some r.raiseCount,
    clearCount := some r.clearCount, severity := some r.severity, freezeEnable := some r.freezeEnable }

/-- The factory defaults (R190). -/
def Profile.factory : Profile :=
  { majorLevel := 5,
    lanes := List.replicate 8 { enabled := true, preference := .full, bypassAllowed := true, tolerance := 5, openCounting := false },
    progs := [], watches := List.replicate 32 WatchRecord.factory.body }

/-! ## The load (R188 to R190, R194) -/

/-- Whether the header was read whole (R194). -/
def Pfu.headerKnown (u : Pfu) : Bool := u.answered || u.headerRead

/-- The image's settings when it is valid. -/
def Pfu.image (u : Pfu) : Option Profile := if u.answered then judgeImage u.mem else none

/-- What the load takes from the header (R190, R194). -/
def Pfu.readStart (u : Pfu) : Pfu :=
  let h := readHeader u.mem
  { u with
    bodyLength := if u.headerKnown then h.bodyLength else 0
    storeCount := if u.headerKnown ∧ h.marked then h.storeCount else 0 }

/-- The outcome of a load that is not valid (R188). -/
def Pfu.failure (u : Pfu) : LoadOutcome := if u.answered then .checkFailed else .noAnswer

/-- The load's outcome is set. -/
def State.setOutcome (o : LoadOutcome) (s : State) : State := { s with pfu := { s.pfu with outcome := o } }

/-- The load ends: the image is judged, its settings or the factory defaults are applied (R189, R190). -/
def State.loadEnd (s : State) : State :=
  if s.pfu.outcome = .loading then
    let image := s.pfu.image
    let failure := s.pfu.failure
    let s := { s with pfu := s.pfu.readStart }
    match image with
    | some q => (s.applyProfile q).setOutcome .valid
    | none => ((s.applyProfile Profile.factory).onPanel (Panel.raise .profileFault)).setOutcome failure
  else s

/-! ## The store (R191 to R193) -/

/-- The count the next image carries (R191). -/
def Pfu.nextCount (u : Pfu) : Nat := (u.storeCount + 1) % Config.countModulus

/-- PROFILE_STORE (R191). -/
def profileStoreAnswer (_ : Unit) (s : State) : Answer :=
  if s.pfu.store.isSome then (.busy, .empty, s)
  else
    let body := s.imageBody
    let count := s.pfu.nextCount
    (.ok, .store body.length count,
      { s with pfu := { s.pfu with
          store := some { body := body, address := bodyStart, header := imageHeader count body, storeCount := count,
                          bodyLength := body.length } } })

/-- The bytes of the transfer in progress: the body up to the next 64-byte boundary, then the header (R192, log 21). -/
def StoreOp.transfer (o : StoreOp) : List Byte := if o.body = [] then o.header else o.body.take (64 - o.address % 64)

/-- The address of the transfer in progress. -/
def StoreOp.target (o : StoreOp) : Nat := if o.body = [] then 0 else o.address

/-- The memory commits the transfer in progress. -/
def StoreOp.commit (o : StoreOp) (mem : Memory) : Memory := mem.writeBytes o.target o.transfer

/-- The store after a body transfer. -/
def StoreOp.advance (o : StoreOp) : StoreOp :=
  { o with body := o.body.drop o.transfer.length, address := o.address + o.transfer.length }

/-- The stage of the transfer in progress. -/
def StoreOp.stage (o : StoreOp) : StoreStage := if o.body = [] then .header else .body

/-- The first address not committed when the store fails; `whole` when the transfer in progress was committed (R192, log 14). -/
def StoreOp.uncommitted (o : StoreOp) (whole : Bool) : BitVec 16 :=
  match o.stage, whole with
  | .header, true => Config.uncommittedAfterHeader o.bodyLength
  | _, false => BitVec.ofNat 16 o.target
  | _, true => if o.advance.body = [] then 0 else BitVec.ofNat 16 o.advance.address

/-- The store ends in success (R192). -/
def State.storeSucceeds (o : StoreOp) (s : State) : State :=
  let s := { s with pfu := { s.pfu with store := none, storeCount := o.storeCount, lastStore := .succeeded } }
  s.onPanel fun v => (v.clear .profileFault).offer (.doneStore .succeeded o.storeCount o.bodyLength .none 0 v.now)

/-- A transfer has been committed and acknowledged again (R192). The model writes it to the memory here, not when its last byte is
acknowledged; until then it counts as the transfer in progress (the model's choice, log 58). -/
def State.transferAcked (s : State) : State :=
  match s.pfu.store with
  | none => s
  | some o =>
    let s := { s with pfu := { s.pfu with mem := o.commit s.pfu.mem } }
    if o.stage = .header then s.storeSucceeds o else { s with pfu := { s.pfu with store := some o.advance } }

/-- The store ends in failure (R192). -/
def State.storeFails (o : StoreOp) (whole : Bool) (s : State) : State :=
  let mem := if whole then o.commit s.pfu.mem else s.pfu.mem
  let s := { s with pfu := { s.pfu with mem := mem, store := none, lastStore := .failed } }
  s.onPanel fun v => (v.raise .profileFault).offer
    (.doneStore .failed s.pfu.storeCount o.bodyLength o.stage (o.uncommitted whole) v.now)

/-- The memory has not acknowledged for 10 ms, in a store or in the load (R188, R192). -/
def State.ackTimeout (whole : Bool) (s : State) : State :=
  match s.pfu.store with
  | some o => s.storeFails o whole
  | none =>
    if s.pfu.outcome = .loading then { s with pfu := { s.pfu with answered := false, headerRead := whole } } else s

/-! ## PROFILE_INFO (R194) -/

/-- PROFILE_INFO. -/
def profileInfoAnswer (_ : Unit) (s : State) : Answer :=
  (.ok, .profile { outcome := s.pfu.outcome, bodyLength := s.pfu.bodyLength, defined := s.pfu.defined, skipped := s.pfu.skipped,
                   storeCount := s.pfu.storeCount, lastStore := s.pfu.lastStore, storing := s.pfu.store.isSome }, s)

/-! ## Commands -/

/-- PROFILE_STORE (R191). -/
def execProfileStore (s : State) : Host.Outcome State Fault Refusal :=
  s.carry (State.takeRequest (· == 0x60) false (withBody bodyEmpty profileStoreAnswer))

/-- PROFILE_INFO (R194). -/
def execProfileInfo (s : State) : Host.Outcome State Fault Refusal :=
  s.carry (State.takeRequest (· == 0x61) true (withBody bodyEmpty profileInfoAnswer))

/-- PROFILE_LOAD_END (R188 to R190). -/
def execProfileLoadEnd (s : State) : Host.Outcome State Fault Refusal := s.carry State.loadEnd

/-- PROFILE_TRANSFER_ACK (R192). -/
def execProfileTransferAck (s : State) : Host.Outcome State Fault Refusal := s.carry State.transferAcked

/-- PROFILE_ACK_TIMEOUT (R188, R192). -/
def execProfileAckTimeout (whole : Bool) (s : State) : Host.Outcome State Fault Refusal := s.carry (State.ackTimeout whole)

end Sys2Proof.Machine
end

