-- ==== Sys2Proof/Machine/Dispatch.lean ====
section
/-! DEFINITION. Dispatch.lean: each command's meaning. -/
namespace Sys2Proof.Machine

def exec (i : Instr) (s : State) : Host.Outcome State Fault Refusal :=
  match i with
  | .powerOn a b => Sys2Proof.Machine.execPowerOn a b s
  | .restart => Sys2Proof.Machine.execRestart s
  | .restartTakesEffect => Sys2Proof.Machine.execRestartTakesEffect s
  | .frameReceived bytes => Sys2Proof.Machine.execFrameReceived bytes s
  | .interByteTimeout => Sys2Proof.Machine.execInterByteTimeout s
  | .unknownKindRequest => Sys2Proof.Machine.execUnknownKindRequest s
  | .txFrameEnd => Sys2Proof.Machine.execTxFrameEnd s
  | .status => Sys2Proof.Machine.execStatus s
  | .credit => Sys2Proof.Machine.execCredit s
  | .laneQuery => Sys2Proof.Machine.execLaneQuery s
  | .laneSet => Sys2Proof.Machine.execLaneSet s
  | .laneReset => Sys2Proof.Machine.execLaneReset s
  | .progDefine => Sys2Proof.Machine.execProgDefine s
  | .progUndefine => Sys2Proof.Machine.execProgUndefine s
  | .progQuery => Sys2Proof.Machine.execProgQuery s
  | .progReset => Sys2Proof.Machine.execProgReset s
  | .delaySet => Sys2Proof.Machine.execDelaySet s
  | .videoLatency => Sys2Proof.Machine.execVideoLatency s
  | .loudSet => Sys2Proof.Machine.execLoudSet s
  | .loudPause => Sys2Proof.Machine.execLoudPause s
  | .loudResume => Sys2Proof.Machine.execLoudResume s
  | .loudQuery => Sys2Proof.Machine.execLoudQuery s
  | .reportSet => Sys2Proof.Machine.execReportSet s
  | .watchSet => Sys2Proof.Machine.execWatchSet s
  | .watchQuery => Sys2Proof.Machine.execWatchQuery s
  | .alarmList => Sys2Proof.Machine.execAlarmList s
  | .alarmAck => Sys2Proof.Machine.execAlarmAck s
  | .freeze => Sys2Proof.Machine.execFreeze s
  | .monitorSet => Sys2Proof.Machine.execMonitorSet s
  | .profileStore => Sys2Proof.Machine.execProfileStore s
  | .profileInfo => Sys2Proof.Machine.execProfileInfo s
  | .outputFrameBoundary => Sys2Proof.Machine.execOutputFrameBoundary s
  | .gainRampComplete p => Sys2Proof.Machine.execGainRampComplete p s
  | .refStrobe phase => Sys2Proof.Machine.execRefStrobe phase s
  | .presenceCountReached => Sys2Proof.Machine.execPresenceCountReached s
  | .silenceCountReached => Sys2Proof.Machine.execSilenceCountReached s
  | .laneActivity l => Sys2Proof.Machine.execLaneActivity l s
  | .laneFrameClosed l f => Sys2Proof.Machine.execLaneFrameClosed l f s
  | .gateExpiry l => Sys2Proof.Machine.execGateExpiry l s
  | .laneFadeFadedPoint l => Sys2Proof.Machine.execLaneFadeFadedPoint l s
  | .laneFadeComplete l => Sys2Proof.Machine.execLaneFadeComplete l s
  | .glideComplete p => Sys2Proof.Machine.execGlideComplete p s
  | .jumpFadedPoint p => Sys2Proof.Machine.execJumpFadedPoint p s
  | .fillingEnd p => Sys2Proof.Machine.execFillingEnd p s
  | .fadeInComplete p => Sys2Proof.Machine.execFadeInComplete p s
  | .releaseFadeComplete p => Sys2Proof.Machine.execReleaseFadeComplete p s
  | .subBlockComplete p => Sys2Proof.Machine.execSubBlockComplete p s
  | .profileLoadEnd => Sys2Proof.Machine.execProfileLoadEnd s
  | .profileTransferAck => Sys2Proof.Machine.execProfileTransferAck s
  | .profileAckTimeout whole => Sys2Proof.Machine.execProfileAckTimeout whole s
  | .characterError => Sys2Proof.Machine.execCharacterError s
  | .lengthFieldExceeds1024 bytes => Sys2Proof.Machine.execLengthFieldExceeds1024 bytes s
  | .powerLoss => Sys2Proof.Machine.execPowerLoss s

end Sys2Proof.Machine
end

