-- ==== Sys2Proof/Safety.lean ====
section
/-! DEFINITION. Safety.lean: what holds of the part in every state its rules admit, in the terms the statements use: bounds, the
laws the manual states for the whole machine, and how a request is taken and answered. -/
namespace Sys2Proof.Machine

/-! ## Taking and answering requests -/

/-- The part has power, the profile load has ended, and the request taken next is of this kind, tag and body. -/
abbrev State.Takes (s : State) (kind tag : Byte) (body : List Byte) : Prop :=
  s.powered = true ∧ s.pfu.outcome ≠ .loading ∧ s.nextRequest = some { kind := kind, tag := tag, body := body, reply := none }

/-- The link controller once the request taken carries this reply, and the transmitter has chosen. -/
def Lnk.answered (l : Lnk) (kind tag : Byte) (status : Status) (body : ReplyBody) : Lnk :=
  ({ l with
    requests := answerFirst { tag := tag, status := status, kind := kind, body := body, formed := l.formed, endsTraffic := false }
      l.requests
    formed := l.formed + 1 } : Lnk).transmit

/-- This state, but for the request taken: it carries this reply, and the transmitter has chosen. Nothing else differs. -/
def State.reply (s : State) (kind tag : Byte) (status : Status) (body : ReplyBody) : State :=
  { s with lnk := s.lnk.answered kind tag status body }

/-- This state with one lane's record replaced. -/
def State.setLane (s : State) (l : LaneId) (x : Lane) : State :=
  { s with front := { s.front with lanes := s.front.lanes.set l x } }

/-- This state with one programme's record replaced. -/
def State.setProg (s : State) (p : ProgId) (x : Prog) : State := { s with progs := s.progs.set p x }

/-- The command that takes a request of this kind (11.1). -/
def requestCommand (kind : Byte) : Instr :=
  if kind = 0x01 then .status else if kind = 0x02 then .credit else if kind = 0x03 then .restart
  else if kind = 0x10 then .laneQuery else if kind = 0x11 then .laneSet else if kind = 0x12 then .laneReset
  else if kind = 0x20 then .progDefine else if kind = 0x21 then .progUndefine else if kind = 0x22 then .progQuery
  else if kind = 0x23 then .progReset else if kind = 0x30 then .delaySet else if kind = 0x31 then .videoLatency
  else if kind = 0x40 then .loudSet else if kind = 0x41 then .loudPause else if kind = 0x42 then .loudResume
  else if kind = 0x43 then .loudQuery else if kind = 0x44 then .reportSet else if kind = 0x50 then .watchSet
  else if kind = 0x51 then .watchQuery else if kind = 0x52 then .alarmList else if kind = 0x53 then .alarmAck
  else if kind = 0x54 then .freeze else if kind = 0x55 then .monitorSet else if kind = 0x60 then .profileStore
  else if kind = 0x61 then .profileInfo else .unknownKindRequest

/-- Whether a body fits the layout of its kind (R196); no body fits an unknown kind. -/
def bodyFits (kind : Byte) (body : List Byte) : Bool :=
  if kind = 0x01 then (bodyFlag body).isSome
  else if kind = 0x03 ∨ kind = 0x60 ∨ kind = 0x61 then (bodyEmpty body).isSome
  else if kind = 0x11 then (bodyLaneSet body).isSome
  else if kind = 0x20 then (bodyProgDefine body).isSome
  else if kind = 0x30 then (bodyDelaySet body).isSome
  else if kind = 0x31 then (bodyVideoLatency body).isSome
  else if kind = 0x40 then (bodyLoudSet body).isSome
  else if kind = 0x44 then (bodyReportSet body).isSome
  else if kind = 0x50 then (bodyWatchSet body).isSome
  else if kind = 0x54 then (bodyFlag body).isSome
  else if kind = 0x55 then (bodyMonitorSet body).isSome
  else if kind ∈ requestKinds then (bodyNumber body).isSome
  else false

/-! ## Reset (R4, R20, R26, R44, R59, R82, R150, R165 to R168, R187, R189, R194) -/

/-- A lane at the reset values of R20 and R44. -/
def Lane.AtReset (x : Lane) : Prop :=
  x.state = .absent ∧ x.settled = .unknown ∧ x.active = 0 ∧ x.senseGates = 0 ∧ x.deadRun = 0 ∧ x.grade = .none
    ∧ x.settings = { enabled := true, preference := .full, bypassAllowed := true, tolerance := 5, openCounting := false }
    ∧ x.gauge.mode = .timed ∧ x.gauge.count = 0 ∧ x.gauge.history = [] ∧ x.gauge.elapsed = 0
    ∧ x.framing = 0 ∧ x.invalid = 0 ∧ x.activity = false ∧ x.lastFraming = 0 ∧ x.lastInvalid = 0 ∧ x.lastActivity = false
    ∧ x.conv.granted = .none ∧ x.conv.effective = .none ∧ x.conv.forced = false ∧ x.conv.fifo = [] ∧ x.conv.fade = .none
    ∧ x.conv.slipCount = 0 ∧ x.conv.slipsInGate = 0 ∧ x.conv.gatesSinceSlip = 0 ∧ x.latency = 48

/-- A watch at the factory values of R150. -/
def Watch.AtReset (w : Watch) : Prop :=
  w.record = { enable := false, object := .programme 0, measure := .lb, threshold := 0, sense := .above, mode := .level,
               raiseCount := 1, clearCount := 1, severity := 1, freezeEnable := false }
    ∧ w.state = .off ∧ w.run = 0 ∧ w.entries = 0 ∧ w.quiet = 0 ∧ w.lastQualified = false ∧ w.lastValue = none
    ∧ w.lastStamp = none

/-- Every block at the values the manual gives for power-on and for RESTART, and the profile load begun. -/
def State.AtReset (s : State) : Prop :=
  s.powered = true
    ∧ (s.refu.state = .free ∧ s.refu.latch = false ∧ s.refu.clock = 0 ∧ s.refu.silence = 0 ∧ s.refu.presence = 0)
    ∧ (∀ l : LaneId, (s.lane l).AtReset) ∧ s.front.admission = [] ∧ s.front.tapsInUse = 0
    ∧ (∀ p : ProgId, (s.prog p).state = .undefined ∧ (s.prog p).members = [] ∧ (s.prog p).inputStamp = 0)
    ∧ s.dmc.free = List.finRange 2048 ∧ s.dmc.wait = []
    ∧ (∀ w : WatchId, (s.wch.watches[w]).AtReset)
    ∧ (s.wch.table = [] ∧ s.wch.major = false ∧ s.wch.minor = false ∧ s.wch.majorLevel = 5 ∧ s.wch.freeze = false
        ∧ s.wch.selected = none ∧ s.wch.follow = false ∧ s.wch.monitored = none)
    ∧ (s.lnk.rx = [] ∧ s.lnk.tx = none ∧ s.lnk.requests = [] ∧ s.lnk.busy = [] ∧ s.lnk.notices = [] ∧ s.lnk.credit = 0
        ∧ s.lnk.loss = 0 ∧ s.lnk.frameErrors = 0 ∧ s.lnk.restart = .none)
    ∧ (s.pfu.outcome = .loading ∧ s.pfu.bodyLength = 0 ∧ s.pfu.storeCount = 0 ∧ s.pfu.defined = 0 ∧ s.pfu.skipped = 0 ∧ s.pfu.lastStore = .none
        ∧ s.pfu.store = none)
    ∧ s.out = Outputs.idle

/-! ## What is outstanding (log 3) -/

/-- No change of reference state, gate, fade, glide, jump, fill, release, ramp or sub-block has come to its end without its own
command having been taken. -/
def State.NothingOutstanding (s : State) : Prop :=
  s.refu.presenceDue = false ∧ s.refu.silenceDue = false
    ∧ (∀ l : LaneId, (s.lane l).gateDue = false ∧ (s.lane l).fadedDue = false ∧ (s.lane l).fadeEndDue = false)
    ∧ ∀ p : ProgId, (s.prog p).glideDue = false ∧ (s.prog p).jumpDue = false ∧ (s.prog p).fillDue = false
        ∧ (s.prog p).fadeInDue = false ∧ (s.prog p).releaseDue = false ∧ (s.prog p).gain.rampDue = false
        ∧ (s.prog p).subBlockDue = false

/-- No glide's step at the next boundary takes its holding delay below what its pages are for (R91). -/
def State.NoPageGivenUp (s : State) : Prop :=
  ∀ p : ProgId, (s.prog p).state = .running → (s.prog p).delay.change = .gliding →
    (s.prog p).pagesPerChannel ≤ max ((s.prog p).glideStep.delay.current / 64) (s.prog p).delay.funded / 1024 + 1

/-- What follows once a boundary's outputs have gone out: in ascending number, each RUNNING programme whose glide has brought its holding
delay below what its pages are for gives up the pages it no longer needs; the page wait list is served at once, and the pool is observed
when the free list's length has changed (R70, R76, R80, R91; the order is log 19's choice). -/
def State.glidesGiveUp (u : State) : State :=
  u.onProgs fun v => (List.finRange 16).foldl
    (fun v p =>
      let x := v.prog p
      let pages := max (x.delay.current / 64) x.delay.funded / 1024 + 1
      if x.state = .running ∧ x.delay.change = .gliding ∧ pages < x.pagesPerChannel then
        let w := (v.resize p pages).serve
        if w.dmc.free.length = v.dmc.free.length then w
        else w.onPanel (Panel.observe .pool fun | .freePages => some (w.dmc.free.length : Int) | _ => none)
      else v) v

/-! ## Bytes and slot words (R195, R197) -/

/-- The number that a field of bytes holds, most significant byte first. -/
def fieldAt (bytes : List Byte) (offset width : Nat) : Nat :=
  ((bytes.drop offset).take width).foldl (fun v b => v * 256 + b.toNat) 0

/-- The number that a signed field of bytes holds. -/
def signedAt (bytes : List Byte) (offset width : Nat) : Int := (BitVec.ofNat (8 * width) (fieldAt bytes offset width)).toInt

/-- A slot word carries this sample: bit periods 0 to 23 the sample, 24 the valid flag set, 25 even parity over 0 to 25, 26 to 31
zero (R15, R197). -/
def SlotWord.Carries (w : SlotWord) (sample : Int) : Prop :=
  w.extractLsb' 8 24 = BitVec.ofInt 24 sample ∧ w.getLsbD 7 = true
    ∧ ((List.range 26).countP fun k => w.getLsbD (31 - k)) % 2 = 0 ∧ w.extractLsb' 0 6 = 0

/-! ## Acting on a requested delay (R72, R73, R77, R87, R94, R101) -/

/-- Whether the change method makes a change toward this target a glide, and not a jump (R87, R94). -/
def DelayRec.GlidesTo (r : DelayRec) (target : Nat) : Bool :=
  match r.method with
  | .glide => true
  | .jump => false
  | .auto => decide (|(64 * target : Int) - r.current| ≤ 64 * r.glideLimit)

/-- From s and its panel v, where the STEADY or GLIDING programme p's record has become x, the requested delay has been acted on in u:
funded in full where its own pages and the free ones cover the larger of it and the present delay, else as far as they reach, on the page
wait list with DELAY_DEFICIT raised; each ring of the pages that the larger of the present delay and the target needs (R70, R72, R73); a
STEADY programme begins a glide or a jump, or neither when it is there already, which a DONE notice of kind NONE tells (R87); a glide goes
on, or completes, or is stopped at its whole part and turned into a jump, or completes there, a completion told by a DONE notice of kind
GLIDE (R92, R94, R101). The DONE notice is offered last; before it the alarm of the wait list, and the pool's observation where the free
list's length has changed (R80), these alone when no other programme waits to be served (R76; their order is log 50's choice). -/
def ActedOn (s : State) (v : Panel) (u : State) (p : ProgId) (x : Prog) (request : Nat) : Prop :=
  let n := x.members.length
  let d := x.delay.current / 64
  let reach := n * x.pagesPerChannel + s.dmc.free.length
  let full := n * (max d request / 1024 + 1) ≤ reach
  let target := if full then request else min request (min 94 (reach / n) * 1024 - 1)
  let near := x.delay.GlidesTo target
  let stopped := if x.delay.change = .gliding ∧ near = false then 64 * d else x.delay.current
  let funded : DelayRec := { x.delay with requested := request, funded := target, current := stopped }
  let done (w : Panel) : Panel :=
    if stopped = 64 * target then
      w.offer (.doneDelay p target request target (request - target) (if x.delay.change = .gliding then .glide else .none) s.refu.clock)
    else w
  let alarm : Panel :=
    if full then if p ∈ s.dmc.wait then v.clear (.delayDeficit p) else v
    else if p ∈ s.dmc.wait then v else v.raise (.delayDeficit p)
  u.prog p = { x with members := (u.prog p).members, delay := (u.prog p).delay }
    ∧ (u.prog p).members.map (fun m => { m with ring := none })
        = x.members.map (fun m => { m with tap := m.tap + ((stopped : Int) - x.delay.current), ring := none })
    ∧ (∀ m ∈ (u.prog p).members, ∃ ring, m.ring = some ring ∧ ring.rest.length + 1 = max d target / 1024 + 1)
    ∧ (stopped = 64 * target → (u.prog p).delay = { funded with change := .steady })
    ∧ (stopped ≠ 64 * target → near = true →
        (u.prog p).delay = if x.delay.change = .gliding then funded else { funded with change := .gliding, kind := .glide })
    ∧ (stopped ≠ 64 * target → near = false →
        (u.prog p).delay = { funded with change := .fadeOut, kind := .jump, fadePos := 480 })
    ∧ (full → p ∉ u.dmc.wait ∧ u.wch.isRaised (.delayDeficit p) = false)
    ∧ (¬full → p ∈ u.dmc.wait ∧ u.wch.isRaised (.delayDeficit p) = true)
    ∧ (∃ w : Panel, w.now = s.refu.clock ∧ u.wch = (done w).wch ∧ u.lnk = (done w).lnk
      ∧ ((∀ q ∈ s.dmc.wait, q = p) →
          w = (if u.dmc.free.length = s.dmc.free.length then alarm
            else alarm.observe .pool (fun | .freePages => some (u.dmc.free.length : Int) | _ => none))))
    ∧ ((∀ q ∈ s.dmc.wait, q = p) → u.dmc.wait = (if full then [] else [p])
      ∧ u.dmc.free.length + n * (max d target / 1024 + 1) = reach ∧ ∀ q, q ≠ p → u.prog q = s.prog q)
    ∧ u.front = s.front ∧ u.refu = s.refu ∧ u.pfu = s.pfu ∧ u.out = s.out ∧ u.pending = s.pending

/-! ## Definitions (R47) -/

/-- A member meets none of the conditions of R47, these standing before it in the request. -/
def MemberFits (progs : Vector Prog 16) (earlier : List MemberBody) (m : MemberBody) : Prop :=
  m.lane < 8 ∧ m.slot < 8 ∧ (∀ o, m.placement = some o → o.1 < 8 ∧ o.2 < 8)
    ∧ (∀ p : ProgId, ∀ x ∈ (progs[p]).members, ¬(x.spec.lane.val = m.lane ∧ x.spec.slot.val = m.slot))
    ∧ (∀ e ∈ earlier, ¬(e.lane = m.lane ∧ e.slot = m.slot))
    ∧ (∀ o, m.placement = some o → ∀ p : ProgId, ∀ x ∈ (progs[p]).members, ∀ q, x.spec.placement = some q →
        ¬(q.1.val = o.1 ∧ q.2.val = o.2))
    ∧ (∀ o, m.placement = some o → ∀ e ∈ earlier, e.placement ≠ some o)

/-- A member as defined carries what the request's member carries. -/
def MemberDef.Of (d : MemberDef) (m : MemberBody) : Prop :=
  d.lane.val = m.lane ∧ d.slot.val = m.slot ∧ d.role = m.role ∧ d.weight = m.weight
    ∧ (d.placement.map fun q => (q.1.val, q.2.val)) = m.placement

/-! ## Watches (R152 to R157) -/

/-- A watch after taking observations one after the other, and what each judgement did to its alarm. -/
def Watch.takes (now : Nat) : Watch → List Int → Watch × List Verdict
  | w, [] => (w, [])
  | w, v :: rest =>
    let r := w.judge v now
    let others := Watch.takes now r.1 rest
    (others.1, r.2 :: others.2)

/-! ## The profile (R191, 11.6) -/

/-- A member as the image carries it. -/
def MemberDef.body (d : MemberDef) : MemberBody :=
  { lane := d.lane.val, slot := d.slot.val, role := d.role, weight := d.weight,
    placement := d.placement.map fun q => (q.1.val, q.2.val) }

/-- A programme's record in the image. -/
def Prog.record (p : ProgId) (x : Prog) : ProgRecord :=
  { prog := p.val, members := x.members.map (·.spec.body), video := x.delay.video, trim := x.delay.trim, method := x.delay.method,
    glideLimit := x.delay.glideLimit,
    loud := { window := some x.meter.window, relGate := some x.meter.relGate, minCount := some x.meter.minCount,
              target := some x.gain.settings.target, gmax := some x.gain.settings.gmax, gmin := some x.gain.settings.gmin,
              upSlew := some x.gain.settings.upSlew, downSlew := some x.gain.settings.downSlew,
              band := some x.gain.settings.band, g0 := some x.gain.settings.g0 },
    paused := x.gain.paused, period := x.report.period, selection := x.report.selection }

/-- The settings the image holds: the major level, each lane's five settings, each WAITING or RUNNING programme, every watch record
(R191). -/
def State.profile (s : State) : Profile :=
  { majorLevel := s.wch.majorLevel,
    lanes := allLanes.map fun l =>
      let x := (s.lane l).settings
      { enabled := x.enabled, preference := x.preference, bypassAllowed := x.bypassAllowed, tolerance := x.tolerance,
        openCounting := x.openCounting },
    progs := (storedProgs s.progs).map fun p => (s.prog p).record p,
    watches := allWatches.map fun w => (s.wch.watches[w]).record.body }

/-- A member claims an input channel and, where it is placed, an output slot that exist and that none of these claims (R47). -/
def MemberBody.clearOf (claimed : List MemberBody) (m : MemberBody) : Bool :=
  decide (m.lane < 8) && decide (m.slot < 8) && m.placement.all (fun o => decide (o.1 < 8) && decide (o.2 < 8))
    && claimed.all fun e => !(e.lane == m.lane && e.slot == m.slot) && (m.placement.isNone || e.placement != m.placement)

/-- Members each clear of these claims and of those before it. -/
def allClear : List MemberBody → List MemberBody → Bool
  | _, [] => true
  | claimed, m :: rest => m.clearOf claimed && allClear (claimed ++ [m]) rest

/-- The records of an image that its load takes: each whose members are clear of those of the records taken before it (R59, R189). -/
def takenRecords : List MemberBody → List ProgRecord → List ProgRecord
  | _, [] => []
  | claimed, r :: rest =>
    if allClear claimed r.members then r :: takenRecords (claimed ++ r.members) rest else takenRecords claimed rest

/-- Every setting of the image lies in its range (1.5, 5.1, 6.1, 7.2, 8.1, 8.8, 9.7), each stored programme has 1 to 8 members, and
each watch's measure belongs to its object's kind. -/
def State.SettingsInRange (s : State) : Prop :=
  (1 ≤ s.wch.majorLevel ∧ s.wch.majorLevel ≤ 7)
    ∧ (∀ l : LaneId, (s.lane l).settings.tolerance ≤ 200)
    ∧ (∀ p : ProgId, (s.prog p).state = .waiting ∨ (s.prog p).state = .running →
        (1 ≤ (s.prog p).members.length ∧ (s.prog p).members.length ≤ 8)
          ∧ (s.prog p).delay.video ≤ 96000 ∧ (-48000 ≤ (s.prog p).delay.trim ∧ (s.prog p).delay.trim ≤ 48000)
          ∧ (s.prog p).delay.glideLimit ≤ 4800
          ∧ (10 ≤ (s.prog p).meter.window ∧ (s.prog p).meter.window ≤ 3000)
          ∧ (40 ≤ (s.prog p).meter.relGate ∧ (s.prog p).meter.relGate ≤ 200)
          ∧ (1 ≤ (s.prog p).meter.minCount ∧ (s.prog p).meter.minCount ≤ 3000)
          ∧ (-400 ≤ (s.prog p).gain.settings.target ∧ (s.prog p).gain.settings.target ≤ -100)
          ∧ (0 ≤ (s.prog p).gain.settings.gmax ∧ (s.prog p).gain.settings.gmax ≤ 200)
          ∧ (-300 ≤ (s.prog p).gain.settings.gmin ∧ (s.prog p).gain.settings.gmin ≤ 0)
          ∧ (1 ≤ (s.prog p).gain.settings.upSlew ∧ (s.prog p).gain.settings.upSlew ≤ 50)
          ∧ (1 ≤ (s.prog p).gain.settings.downSlew ∧ (s.prog p).gain.settings.downSlew ≤ 50)
          ∧ (0 ≤ (s.prog p).gain.settings.band ∧ (s.prog p).gain.settings.band ≤ 100)
          ∧ (-300 ≤ (s.prog p).gain.settings.g0 ∧ (s.prog p).gain.settings.g0 ≤ 200)
          ∧ (s.prog p).report.period ≤ 600)
    ∧ (∀ w : WatchId,
        (-(2 ^ 31) ≤ (s.wch.watches[w]).record.threshold ∧ (s.wch.watches[w]).record.threshold < 2 ^ 31)
          ∧ (1 ≤ (s.wch.watches[w]).record.raiseCount ∧ (s.wch.watches[w]).record.raiseCount ≤ 600)
          ∧ (1 ≤ (s.wch.watches[w]).record.clearCount ∧ (s.wch.watches[w]).record.clearCount ≤ 600)
          ∧ (1 ≤ (s.wch.watches[w]).record.severity ∧ (s.wch.watches[w]).record.severity ≤ 7)
          ∧ (s.wch.watches[w]).record.measure ∈ (s.wch.watches[w]).record.object.kind.measures)

/-! ## Bounds -/

/-- Both memories are in their canonical form. -/
def State.MemoriesCanonical (s : State) : Prop := Memory.wf s.dmc.dram ∧ Memory.wf s.pfu.mem

/-- The reference unit's counts lie in their ranges (R22, 0.6.1). -/
def State.CountsBounded (s : State) : Prop :=
  s.refu.clock < 2 ^ 48 ∧ s.refu.silence ≤ 48 ∧ s.refu.presence ≤ 4800

/-- The link's queues and counts lie within their bounds, and no two notices share a key (R175, R176, R180, R182, R184). -/
def State.LinkBounded (s : State) : Prop :=
  s.lnk.requests.length ≤ 8 ∧ s.lnk.busy.length ≤ 8 ∧ s.lnk.credit ≤ 255 ∧ s.lnk.loss ≤ 65535 ∧ s.lnk.frameErrors ≤ 65535
    ∧ s.lnk.notices.length ≤ 64 ∧ (s.lnk.notices.map Notice.key).Nodup

/-! ## Alarms (R150, R161, R165, R168) -/

/-- A watch's state is one in which its alarm is raised (R150). -/
def WatchState.alarmed : WatchState → Bool
  | .raised => true
  | .falling => true
  | _ => false

/-- No two entries share an alarm id; a watch's alarm stands in the table just while the watch is in RAISED or FALLING; MAJOR is
asserted just while some unacknowledged entry is of at least the major level, MINOR just while the table holds an entry; and the
monitored programme is the one R168 gives. -/
def State.AlarmsConsistent (s : State) : Prop :=
  (s.wch.table.map (·.id)).Nodup
    ∧ (∀ w : WatchId, s.wch.isRaised (.watch w) = (s.wch.watches[w]).state.alarmed)
    ∧ (s.wch.major = true ↔ ∃ e ∈ s.wch.table, e.acked = false ∧ s.wch.majorLevel ≤ e.severity)
    ∧ (s.wch.minor = true ↔ s.wch.table ≠ [])
    ∧ s.wch.monitored = s.wch.decideMonitor.monitored

/-! ## The tap budget (R35, R36) -/

/-- The tap costs of the running lanes never exceed the budget (R35). -/
def State.BudgetKept (s : State) : Prop := s.front.tapsInUse ≤ 2048

/-- No lane waits for budget: the admission queue is empty, no lane is in ADMIT, none in forced bypass (R36). -/
def State.NoLaneWaits (s : State) : Prop :=
  s.front.admission = [] ∧ ∀ l : LaneId, (s.lane l).state ≠ .waitingBudget ∧ (s.lane l).conv.forced = false

/-! ## Pages (R62) -/

/-- The pages of a member's ring, from the write page. -/
def Member.pages (m : Member) : List PageId := (m.ring.map Ring.chain).getD []

/-- The pages of all rings. -/
def heldPages (progs : Vector Prog 16) : List PageId := allProgs.flatMap fun p => (progs[p].members).flatMap Member.pages

/-- Every page stands exactly once, on the free list or in one chain (R62); an UNDEFINED programme has no members, a WAITING one no
rings; and while the load is in progress every programme is UNDEFINED. -/
def State.PagesConserved (s : State) : Prop :=
  (s.dmc.free ++ heldPages s.progs).Perm allPages
    ∧ (∀ p : ProgId, (s.prog p).state = .undefined → (s.prog p).members = [])
    ∧ (∀ p : ProgId, (s.prog p).state = .waiting → ∀ m ∈ (s.prog p).members, m.ring = none)
    ∧ (s.pfu.outcome = .loading → ∀ p : ProgId, (s.prog p).state = .undefined)

/-! ## Delays and gains (R84, R89, R130) -/

/-- Each member's tap plus its lane's latency is the programme's current delay (R89). -/
def State.TapsAligned (s : State) : Prop :=
  ∀ p : ProgId, (s.prog p).state.live = true → ∀ m ∈ (s.prog p).members,
    m.tap + 64 * ((s.lane m.spec.lane).latency : Int) = (s.prog p).delay.current

/-- A defined programme's requested delay and a pending target lie within 48 to 96,000; a programme that is WAITING, STEADY or GLIDING
holds no pending target, and the delay a running programme moves toward never exceeds its requested delay (R84, R85, R97, R98). -/
def State.RequestsBounded (s : State) : Prop :=
  ∀ p : ProgId, ((s.prog p).state = .waiting ∨ (s.prog p).state = .running →
      48 ≤ (s.prog p).delay.requested ∧ (s.prog p).delay.requested ≤ 96000)
    ∧ (∀ r, (s.prog p).delay.pending = some r → 48 ≤ r ∧ r ≤ 96000)
    ∧ ((s.prog p).state = .waiting → (s.prog p).delay.pending = none)
    ∧ ((s.prog p).state = .running → (s.prog p).delay.change = .steady ∨ (s.prog p).delay.change = .gliding →
        (s.prog p).delay.pending = none)
    ∧ ((s.prog p).state = .running → (s.prog p).delay.funded ≤ (s.prog p).delay.requested)

/-- The limits and slews of a gain record lie in their ranges, and so does its initial gain (7.2, R129). -/
def GainSettings.InRange (g : GainSettings) : Prop :=
  0 ≤ g.gmax ∧ g.gmin ≤ 0 ∧ 1 ≤ g.upSlew ∧ 1 ≤ g.downSlew ∧ g.gmin ≤ g.g0 ∧ g.g0 ≤ g.gmax

/-- A programme's decided gain always lies within its limits, and its cue queue holds at most 32 cues (R130, R135). -/
def State.GainsLimited (s : State) : Prop :=
  ∀ p : ProgId, (s.prog p).gain.settings.InRange ∧ (s.prog p).gain.cues.length ≤ 32
    ∧ ((s.prog p).state = .waiting ∨ (s.prog p).state = .undefined → (s.prog p).gain.gcur = none)
    ∧ ∀ g, (s.prog p).gain.gcur = some g → (s.prog p).gain.settings.gmin ≤ g ∧ g ≤ (s.prog p).gain.settings.gmax

/-! ## The delay memory's laws (R70, R75, R79, R84) -/

/-- Each channel of a RUNNING or RELEASING programme holds floor(Dhold / 1024) + 1 pages (R70) and its delays stay within 48 to
96,000, the current one whole but in a glide (R84, R90); no programme stands twice on the page wait list (R75); a programme stands on
it just while it is WAITING or RUNNING below its requested delay, a RUNNING one's current delay then no longer than its funded target,
and just then its DELAY_DEFICIT is raised (R76, R79). -/
def State.DelayMemoryLaws (s : State) : Prop :=
  (∀ p : ProgId, (s.prog p).state.live = true → let r := (s.prog p).delay
      (∀ m ∈ (s.prog p).members, ∃ ring, m.ring = some ring ∧ ring.rest.length + 1 = max (r.current / 64) r.funded / 1024 + 1)
        ∧ 48 ≤ r.funded ∧ r.funded ≤ 96000 ∧ 64 * 48 ≤ r.current ∧ r.current ≤ 64 * 96000
        ∧ (r.change ≠ .gliding → r.current % 64 = 0))
    ∧ s.dmc.wait.Nodup
    ∧ (∀ p : ProgId, p ∈ s.dmc.wait ↔ (s.prog p).state = .waiting
        ∨ ((s.prog p).state = .running ∧ (s.prog p).delay.funded < (s.prog p).delay.requested))
    ∧ (∀ p ∈ s.dmc.wait, (s.prog p).state = .running → (s.prog p).delay.current / 64 ≤ (s.prog p).delay.funded)
    ∧ ∀ p : ProgId, s.wch.isRaised (.delayDeficit p) = true ↔ p ∈ s.dmc.wait

/-! ## Cues and factors (R135, R141) -/

/-- The cue queue of each RUNNING or RELEASING programme has its positions strictly rising, none above the input stamp, and none
behind the output stamp of the delay as it stands; while a jump fades out, from its first boundary to its faded point, each is
ahead of it (R135, R137). Between boundaries a position may equal the output stamp (log 57). -/
def State.CuesAhead (s : State) : Prop :=
  ∀ p : ProgId, (s.prog p).state.live = true → let x := s.prog p
    x.gain.cues.Pairwise (fun a b => a.position < b.position)
      ∧ (∀ c ∈ x.gain.cues, c.position ≤ x.inputStamp ∧ 64 * (x.inputStamp : Int) - x.delay.current ≤ 64 * c.position)
      ∧ (x.state = .running → x.delay.change = .fadeOut → 0 < x.delay.fadePos → x.delay.fadePos < 480 →
          ∀ c ∈ x.gain.cues, 64 * (x.inputStamp : Int) - x.delay.current < 64 * c.position)

/-- Every gain limit lies within -300 to +200 tenths, every gain queued or applied with it, and every factor, that of a ramp
included, within the factors of those gains (R129, R141). -/
def State.FactorsInRange (s : State) : Prop :=
  ∀ p : ProgId, let g := (s.prog p).gain
    g.rampPos ≤ 480 ∧ -300 ≤ g.settings.gmin ∧ g.settings.gmax ≤ 200 ∧ (∀ c ∈ g.cues, -300 ≤ c.gain ∧ c.gain ≤ 200)
      ∧ ∀ f ∈ [g.factor, g.rampStart, g.rampEnd], 33159 ≤ f ∧ f ≤ 10485760

/-! ## The histogram (R113) -/

/-- How often a histogram counts a level. -/
def Histogram.count (b : Int) (h : Histogram) : Nat := ((h.filter fun c => c.1 == b).map (·.2)).sum

/-- The histogram counts exactly the levels of -700 or above among the last min(W, Nr) recorded (R113): bins rising, none of them
empty. -/
def MeterRec.HistogramTrue (m : MeterRec) : Prop :=
  1 ≤ m.window ∧ m.window ≤ 3000 ∧ m.levels.length ≤ 3000
    ∧ (m.histogram.map (·.1)).Pairwise (· < ·) ∧ (∀ c ∈ m.histogram, 0 < c.2)
    ∧ ∀ b : Int, m.histogram.count b = if b < -700 then 0 else (m.levels.take m.window).count b

/-- The law of R113 holds of every programme. -/
def State.HistogramsTrue (s : State) : Prop := ∀ p : ProgId, (s.prog p).meter.HistogramTrue

end Sys2Proof.Machine
end

