-- ==== Sys2Proof/Certificates/Slice0/Obligations.lean ====
section
/-! DEFINITION. Obligations.lean: the statements for the provers, from the numbered rules of spec/. Where a statement says that
exec answers `.next` of a state written out in full, what that state does not name is unchanged: that is its frame. Throughout,
`.transmit` is the transmitter's choice, at the end of a command and when a notice is queued or credit granted (log 5); a request is
the one at the front of the request queue (log 4); a reply's body is given as figures, whose bytes Replies.lean
writes (log 29). -/
open Sys2Proof Sys2Proof.Machine

/-! ## The machine -/

/-- A step carries out the command at the front of the queue with the rest waiting; on an empty queue the part idles (log 1). -/
def Obligations.StepTakesTheFrontCommand : Prop :=
  (∀ (c : Instr) (rest : List Instr) (s : State), step { s with pending := c :: rest } = exec c { s with pending := rest })
    ∧ ∀ s : State, step { s with pending := [] } = .next { s with pending := [] }

/-- Every command answers a next state, in every state and with every operand, and leaves the queue of waiting commands alone. That
no command ends in a fault or a refusal follows from choices of the model: the queue of waiting commands is log 1's, a command for
an event that is not due answers with no effect but the transmitter's choice by log 2, and a part without power answers by log 28. -/
def Obligations.EveryCommandAnswersAndLeavesTheQueue : Prop :=
  ∀ (c : Instr) (s : State), ∃ t, exec c s = .next t ∧ t.pending = s.pending

/-! ## Reset, power and restart (R173, R181, R187, R189, R193) -/

/-- The machine right after reset has the reset values of every chapter, each lane's per-gate counts, the link's restart mark and the
profile unit's body length among them (R20, R26, R44, R59, R82, R83, R128, R150, R161, R165 to R168, R187, R189, R194), and satisfies
every invariant stated below (R35, R36, R62, R70, R75, R84, R89, R113, R130, R135, R141). The values of the items to which the spec
gives none are the model's (logs 7, 8, 15, 28, 40). -/
def Obligations.ResetStateHasItsValuesAndInvariants : Prop :=
  State.reset.AtReset ∧ State.reset.MemoriesCanonical ∧ State.reset.CountsBounded ∧ State.reset.LinkBounded
    ∧ State.reset.AlarmsConsistent ∧ State.reset.BudgetKept ∧ State.reset.NoLaneWaits ∧ State.reset.PagesConserved
    ∧ State.reset.TapsAligned ∧ State.reset.RequestsBounded ∧ State.reset.GainsLimited ∧ State.reset.HistogramsTrue
    ∧ State.reset.SettingsInRange ∧ State.reset.DelayMemoryLaws ∧ State.reset.CuesAhead ∧ State.reset.FactorsInRange

/-- Power-on puts every block in its reset state, whatever went before; the straps select the line rate (R173), and both memories keep
what they hold (R61, R193). The values of items to which the spec gives none are the model's (logs 15, 28, 40). Power loss keeps the
memories and nothing else that a later power-on would not set afresh (R193); without power, no command but power-on has an effect. How
the model holds the part while it has no power is log 28's choice, and that a transfer of a store still awaiting its wait's end is not
kept is log 58's. -/
def Obligations.PowerOnTakesTheResetValuesAndPowerLossKeepsTheMemories : Prop :=
  (∀ (strap1 strap0 : Bool) (s : State), ∃ t, exec (.powerOn strap1 strap0) s = .next t ∧ t.AtReset
    ∧ t.lnk.lineRate = (match strap1, strap0 with
        | false, false => 115200 | false, true => 921600 | true, false => 3000000 | true, true => 115200)
    ∧ t.dmc.dram = s.dmc.dram ∧ t.pfu.mem = s.pfu.mem ∧ t.pending = s.pending)
  ∧ (∀ s : State, ∃ t, exec .powerLoss s = .next t ∧ t.powered = false ∧ t.dmc.dram = s.dmc.dram ∧ t.pfu.mem = s.pfu.mem
    ∧ t.pending = s.pending ∧ ({ t with powered := true } : State).AtReset)
  ∧ ∀ (c : Instr) (s : State), s.powered = false → (∀ a b, c ≠ .powerOn a b) → c ≠ .powerLoss → exec c s = .next s

/-- RESTART is answered OK and no further request is taken; the end of its reply brings the restart due, no frame is begun between,
and the restart then puts every block in its reset state, the line rate and both memories kept (R181, R193); the values of items to
which the spec gives none are the model's (logs 15, 40), and that a transfer of a store still awaiting its wait's end is not committed
is log 58's choice. -/
def Obligations.RestartEndsTrafficThenResets : Prop :=
  (∀ (s : State) (tag : Byte), s.Takes 0x03 tag [] →
    exec .restart s = .next { s with lnk := ({ s.lnk with
      requests := answerFirst { tag := tag, status := .ok, kind := 0x03, body := .empty, formed := s.lnk.formed, endsTraffic := true }
        s.lnk.requests
      formed := s.lnk.formed + 1
      restart := .taken } : Lnk).transmit })
  ∧ (∀ s : State, s.lnk.restart ≠ .none → s.nextRequest = none)
  ∧ (∀ (s : State) (r : Reply) (frame : List Byte), s.powered = true → s.lnk.tx = some (.queueReply r frame) →
    r.endsTraffic = true →
    exec .txFrameEnd s = .next { s with lnk := { s.lnk with tx := none, requests := s.lnk.requests.tail, restart := .due } })
  ∧ (∀ l : Lnk, l.restart = .due → l.transmit = l)
  ∧ (∀ s : State, s.powered = true → s.lnk.restart = .due →
    ∃ t, exec .restartTakesEffect s = .next t ∧ t.AtReset ∧ t.lnk.lineRate = s.lnk.lineRate
      ∧ t.dmc.dram = s.dmc.dram ∧ t.pfu.mem = s.pfu.mem ∧ t.pending = s.pending)

/-! ## The line (R174 to R176, R178) -/

/-- A frame of any kind, tag and body of 0 to 1024 bytes, received whole while the receiver hunts, joins the request queue at its
tail; with 8 requests held, a BUSY reply with its tag joins the BUSY list; with 8 of those too, it is discarded and the frame-error
count rises (R174, R175, R176). A frame whose check is wrong, or whose length field exceeds 1024, is dropped: the frame-error count
rises by 1, saturating, no request joins, and hunting resumes with the byte after its sync byte (R174, R175). A long gap or a
character error drops the frame in progress in the same way, and while hunting neither changes anything (R173, R175). That bytes come
in runs, and where hunting resumes, are log 6's reading. -/
def Obligations.FramesReceivedJoinOrAreDropped : Prop :=
  (∀ (s : State) (kind tag : Byte) (body : List Byte), s.powered = true → s.lnk.rx = [] → s.lnk.frameErrors ≤ 65535 →
    body.length ≤ 1024 →
    let joined : Lnk :=
      if s.lnk.requests.length < 8 then
        { s.lnk with requests := s.lnk.requests ++ [{ kind := kind, tag := tag, body := body, reply := none }] }
      else if s.lnk.busy.length < 8 then
        { s.lnk with
          busy := s.lnk.busy ++ [{ tag := tag, status := .busy, kind := kind, body := .empty, formed := s.lnk.formed,
                                   endsTraffic := false }]
          formed := s.lnk.formed + 1 }
      else { s.lnk with frameErrors := min 65535 (s.lnk.frameErrors + 1) }
    exec (.frameReceived (frameBytes kind tag body)) s = .next { s with lnk := joined.transmit })
  ∧ (∀ (s : State) (kind tag : Byte) (body : List Byte) (check : BitVec 16), s.powered = true → s.lnk.rx = [] →
    body.length ≤ 1024 → check ≠ crc16 (bytes2 body.length ++ [kind, tag] ++ body) →
    syncByte ∉ bytes2 body.length ++ [kind, tag] ++ body ++ bytes2 check.toNat →
    exec (.frameReceived (syncByte :: (bytes2 body.length ++ [kind, tag] ++ body ++ bytes2 check.toNat))) s =
      .next { s with lnk := ({ s.lnk with frameErrors := min 65535 (s.lnk.frameErrors + 1) } : Lnk).transmit })
  ∧ (∀ (s : State) (hi lo : Byte), s.powered = true → s.lnk.rx = [] → 1024 < hi.toNat * 256 + lo.toNat →
    exec (.lengthFieldExceeds1024 [syncByte, hi, lo]) s =
      .next { s with lnk := ({ s.lnk with
        rx := [hi, lo].dropWhile (fun b => b != syncByte)
        frameErrors := min 65535 (s.lnk.frameErrors + 1) } : Lnk).transmit })
  ∧ ∀ (c : Instr) (s : State), c = .interByteTimeout ∨ c = .characterError → s.powered = true →
    (s.lnk.rx = [] → s.lnk.frameErrors ≤ 65535 → exec c s = .next { s with lnk := s.lnk.transmit })
    ∧ ∀ rest, s.lnk.rx = syncByte :: rest → syncByte ∉ rest → frameAt rest = .incomplete →
        exec c s = .next { s with lnk := ({ s.lnk with
          rx := [], frameErrors := min 65535 (s.lnk.frameErrors + 1) } : Lnk).transmit }

/-- The transmitter (R178, R182). An idle one chooses the oldest waiting reply; with no reply waiting, and credit, the notice of the
highest priority class that joined first among its class, which leaves the queue and spends one credit; otherwise it stays idle. A
transmitter that sends, or whose traffic the RESTART reply has ended, does not choose. What it sends is the frame of what it chose
(R174). At the end of a frame a reply leaves its request queue entry or its BUSY list place, a notice leaves nothing behind, and the
transmitter chooses again (R176). That a frame end while nothing is sent only lets it choose is log 2's choice. -/
def Obligations.TransmitterChoosesTheNextFrame : Prop :=
  (∀ l : Lnk, (l.tx.isSome ∨ l.restart = .due → l.transmit = l) ∧ (l.tx = none → l.restart ≠ .due →
    (∀ r, l.requests.head?.bind (·.reply) = some r → (∀ b, l.busy.head? = some b → r.formed ≤ b.formed) →
      l.transmit = { l with tx := some (.queueReply r r.frame) })
    ∧ (∀ b, l.busy.head? = some b → (∀ r, l.requests.head?.bind (·.reply) = some r → b.formed < r.formed) →
      l.transmit = { l with tx := some (.busyReply b b.frame) })
    ∧ (l.requests.head?.bind (·.reply) = none → l.busy = [] →
      (l.credit = 0 ∨ l.notices = [] → l.transmit = l)
      ∧ (0 < l.credit → l.notices ≠ [] → ∃ before n after, l.notices = before ++ n :: after
          ∧ (∀ m ∈ before, m.rank < n.rank) ∧ (∀ m ∈ after, m.rank ≤ n.rank)
          ∧ l.transmit = { l with tx := some (.notice n n.frame), credit := l.credit - 1, notices := before ++ after }))))
  ∧ ∀ s : State, s.powered = true → s.lnk.restart ≠ .due →
    (∀ r frame, s.lnk.tx = some (.queueReply r frame) → r.endsTraffic = false →
      exec .txFrameEnd s = .next { s with lnk := ({ s.lnk with tx := none, requests := s.lnk.requests.tail } : Lnk).transmit })
    ∧ (∀ r frame, s.lnk.tx = some (.busyReply r frame) →
      exec .txFrameEnd s = .next { s with lnk := ({ s.lnk with tx := none, busy := s.lnk.busy.tail } : Lnk).transmit })
    ∧ (∀ n frame, s.lnk.tx = some (.notice n frame) →
      exec .txFrameEnd s = .next { s with lnk := ({ s.lnk with tx := none } : Lnk).transmit })
    ∧ (s.lnk.tx = none → exec .txFrameEnd s = .next { s with lnk := s.lnk.transmit })

/-! ## The notice queue, system alarms and the frames sent (R160, R164, R174, R182 to R184, 11.4) -/

/-- A notice offered to the notice queue. A queued key's content is replaced in place; a new key joins at the tail while fewer than
64 are queued; and nothing is discarded (R182). A new key offered to 64 entries discards the oldest METER entry; without one, the
new notice itself when it is a METER, and otherwise the oldest entry of the lowest class when that is below the new notice's, else
the new notice (R183). The classes rank ALARM by severity, then REF, LANE, DONE and METER (R182). -/
def Obligations.NoticeOfferedToTheQueue : Prop :=
  (∀ (q : List Notice) (n : Notice),
    ((∃ m ∈ q, m.key = n.key) → offerTo q n = (q.map fun m => if m.key = n.key then n else m, false))
    ∧ ((∀ m ∈ q, m.key ≠ n.key) → q.length < 64 → offerTo q n = (q ++ [n], false))
    ∧ ((∀ m ∈ q, m.key ≠ n.key) → q.length = 64 →
      (∀ before m after, q = before ++ m :: after → m.isMeter = true → (∀ x ∈ before, x.isMeter = false) →
        offerTo q n = (before ++ after ++ [n], true))
      ∧ ((∀ m ∈ q, m.isMeter = false) → n.isMeter = true → offerTo q n = (q, true))
      ∧ ((∀ m ∈ q, m.isMeter = false) → n.isMeter = false → ∀ before m after, q = before ++ m :: after →
          (∀ x ∈ before, m.rank < x.rank) → (∀ x ∈ after, m.rank ≤ x.rank) →
          (m.rank < n.rank → offerTo q n = (before ++ after ++ [n], true)) ∧ (n.rank ≤ m.rank → offerTo q n = (q, true)))))
  ∧ (∀ (e f : AlarmEntry) (c d : AlarmChange) (x y : Nat), e.severity < f.severity →
      (Notice.alarm e c x).rank < (Notice.alarm f d y).rank)
  ∧ (∀ (e : AlarmEntry) (c : AlarmChange) (x : Nat) (a b : RefState) (h : Bool) (y : Nat), 1 ≤ e.severity →
      (Notice.ref a b h y).rank < (Notice.alarm e c x).rank)
  ∧ (∀ (a b : RefState) (h : Bool) (x : Nat) (l : LaneId) (u v : LaneState) (k : RateClass) (w : BitVec 8) (y : Nat),
      (Notice.lane l u v k w y).rank < (Notice.ref a b h x).rank)
  ∧ (∀ (l : LaneId) (u v : LaneState) (k : RateClass) (w : BitVec 8) (x : Nat) (p : ProgId) (r t f d : Nat) (m : DoneKind) (y : Nat)
      (o : StoreOutcome) (c g : Nat) (st : StoreStage) (a : BitVec 16) (r' : MeterReport),
      (Notice.doneDelay p r t f d m y).rank < (Notice.lane l u v k w x).rank
      ∧ (Notice.doneStore o c g st a y).rank = (Notice.doneDelay p r t f d m y).rank
      ∧ (Notice.meter r').rank < (Notice.doneStore o c g st a y).rank)

/-- A system alarm's raise creates its entry, with the severity and source of R159's table, and offers a RAISED notice; a raise while
raised changes nothing. A clear removes the entry and offers a CLEARED notice with the content it held; a clear while not raised
changes nothing. In both the lines and the monitor follow the table (R160, R164, R165, R168). Each discard from the notice queue
raises the loss count by 1, saturating, and raises NOTICE_LOSS; when it was not raised its entry is created and its notice offered in
turn, whose own discard is counted and ends the chain (R184). Each notice taken into the queue lets an idle transmitter choose at
once (R178, log 5). -/
def Obligations.AlarmChangesAndDiscardsReported : Prop :=
  (∀ (v : Panel) (id : AlarmId),
    (v.wch.isRaised id = true → v.raise id = v)
    ∧ (∀ (severity : Nat) (source : Source),
        (id, severity, source) ∈ [(AlarmId.refLost, 7, Source.reference), (.noticeLoss, 2, .link), (.profileFault, 3, .profile)]
          ∨ (∃ l : LaneId, (id, severity, source) ∈
              [(AlarmId.laneLost l, 6, Source.lane l), (.laneRejected l, 5, .lane l), (.slip l, 4, .lane l)])
          ∨ (∃ p : ProgId, (id, severity, source) = (AlarmId.delayDeficit p, 5, Source.programme p)) →
        v.wch.isRaised id = false →
        let e : AlarmEntry := { id := id, severity := severity, source := source, raised := v.now, acked := false, observed := none }
        v.raise id = ({ v with wch := ({ v.wch with table := v.wch.table ++ [e] } : Wch).settleLines.decideMonitor } : Panel).offer
          (.alarm e .raised v.now))
    ∧ (v.wch.isRaised id = false → v.clear id = v)
    ∧ (∀ before e after, v.wch.table = before ++ e :: after → e.id = id → (∀ x ∈ before ++ after, x.id ≠ id) →
        v.clear id = ({ v with wch := ({ v.wch with table := before ++ after } : Wch).settleLines.decideMonitor } : Panel).offer
          (.alarm e .cleared v.now)))
  ∧ ∀ (v : Panel) (n : Notice) (q : List Notice),
    let taken : Lnk := ({ v.lnk with notices := q } : Lnk).transmit
    let counted : Lnk := { taken with loss := min 65535 (v.lnk.loss + 1) }
    (offerTo v.lnk.notices n = (q, false) → v.offer n = { v with lnk := taken })
    ∧ (offerTo v.lnk.notices n = (q, true) → v.wch.isRaised .noticeLoss = true → v.offer n = { v with lnk := counted })
    ∧ (offerTo v.lnk.notices n = (q, true) → v.wch.isRaised .noticeLoss = false →
        let e : AlarmEntry := { id := .noticeLoss, severity := 2, source := .link, raised := v.now, acked := false, observed := none }
        ∀ q' lost, offerTo counted.notices (.alarm e .raised v.now) = (q', lost) →
          let taken' : Lnk := ({ counted with notices := q' } : Lnk).transmit
          v.offer n = { v with
            wch := ({ v.wch with table := v.wch.table ++ [e] } : Wch).settleLines.decideMonitor
            lnk := if lost then { taken' with loss := min 65535 (counted.loss + 1) } else taken' })

/-- The bytes of a notice stand where 11.4 puts them, most significant byte first, a signed field in two's complement, an absent value
as its absent code (R186, R195): ALARM, with the 15 bytes of an ALARM_LIST entry, REF, LANE, both kinds of DONE, and METER with each
part chosen. The DONE notice's delay reached counts frames by log 49. -/
def Obligations.NoticesAreLaidOut : Prop :=
  (∀ (e : AlarmEntry) (change : AlarmChange) (clock : Nat), e.severity < 256 → e.raised < 2 ^ 48 → clock < 2 ^ 48 →
    (∀ v, e.observed = some v → -(2 ^ 31) ≤ v ∧ v < 2 ^ 31) →
    let body := (Notice.alarm e change clock).body
    let id := match e.id with
      | .watch w => w.val | .refLost => 32 | .laneLost l => 33 + l.val | .laneRejected l => 41 + l.val | .slip l => 49 + l.val
      | .delayDeficit p => 57 + p.val | .noticeLoss => 73 | .profileFault => 74
    let kind := match e.source with
      | .programme _ => 0 | .lane _ => 1 | .reference => 2 | .pool => 3 | .link => 4 | .profile => 5
    let number := match e.source with | .programme p => p.val | .lane l => l.val | _ => 0
    let flags := (if e.acked then 1 else 0) + (if e.observed.isSome then 2 else 0)
    body.length = (if e.observed.isSome then 22 else 18)
      ∧ fieldAt body 0 1 = id ∧ fieldAt body 1 1 = (match change with | .raised => 1 | .cleared => 2 | .acknowledged => 3)
      ∧ fieldAt body 2 1 = e.severity ∧ fieldAt body 3 1 = kind ∧ fieldAt body 4 1 = number ∧ fieldAt body 5 1 = flags
      ∧ fieldAt body 6 6 = e.raised ∧ fieldAt body 12 6 = clock ∧ (∀ v, e.observed = some v → signedAt body 18 4 = v)
      ∧ e.listBytes.length = 15 ∧ fieldAt e.listBytes 0 1 = id ∧ fieldAt e.listBytes 1 1 = e.severity
      ∧ fieldAt e.listBytes 2 1 = kind ∧ fieldAt e.listBytes 3 1 = number ∧ fieldAt e.listBytes 4 1 = flags
      ∧ fieldAt e.listBytes 5 6 = e.raised ∧ signedAt e.listBytes 11 4 = e.observed.getD 0)
  ∧ (let refCode (r : RefState) : Nat := match r with | .free => 0 | .locked => 1 | .holdover => 2 | .relock => 3
     ∀ (new left : RefState) (latch : Bool) (clock : Nat), clock < 2 ^ 48 → let body := (Notice.ref new left latch clock).body
      body.length = 9 ∧ fieldAt body 0 1 = refCode new ∧ fieldAt body 1 1 = refCode left
        ∧ fieldAt body 2 1 = (if latch then 1 else 0) ∧ fieldAt body 3 6 = clock)
  ∧ (let laneCode (x : LaneState) : Nat := match x with
      | .absent => 0 | .detect => 1 | .sense => 2 | .rejected => 3 | .waitingBudget => 4 | .running => 5 | .disabled => 6
     ∀ (l : LaneId) (new left : LaneState) (cls : RateClass) (active : BitVec 8) (clock : Nat), clock < 2 ^ 48 →
      let body := (Notice.lane l new left cls active clock).body
      body.length = 11 ∧ fieldAt body 0 1 = l.val ∧ fieldAt body 1 1 = laneCode new ∧ fieldAt body 2 1 = laneCode left
        ∧ fieldAt body 3 1 = (match cls with | .unknown => 0 | .k32 => 1 | .k44 => 2 | .k48 => 3 | .k88 => 4 | .k96 => 5)
        ∧ fieldAt body 4 1 = active.toNat ∧ fieldAt body 5 6 = clock)
  ∧ (∀ (p : ProgId) (reached requested funded deficit : Nat) (kind : DoneKind) (clock : Nat), reached < 2 ^ 32 →
      requested < 2 ^ 32 → funded < 2 ^ 32 → deficit < 2 ^ 32 → clock < 2 ^ 48 →
      let body := (Notice.doneDelay p reached requested funded deficit kind clock).body
      body.length = 25 ∧ fieldAt body 0 1 = 0 ∧ fieldAt body 1 1 = p.val ∧ fieldAt body 2 4 = reached ∧ fieldAt body 6 4 = requested
        ∧ fieldAt body 10 4 = funded ∧ fieldAt body 14 4 = deficit
        ∧ fieldAt body 18 1 = (match kind with | .none => 0 | .glide => 1 | .jump => 2) ∧ fieldAt body 19 6 = clock)
  ∧ (∀ (outcome : StoreOutcome) (storeCount bodyLength : Nat) (stage : StoreStage) (address : BitVec 16) (clock : Nat),
      storeCount < 2 ^ 32 → bodyLength < 2 ^ 16 → clock < 2 ^ 48 →
      let body := (Notice.doneStore outcome storeCount bodyLength stage address clock).body
      body.length = 25 ∧ fieldAt body 0 1 = 1
        ∧ fieldAt body 1 1 = (match outcome with | .none => 0 | .succeeded => 1 | .failed => 2) ∧ fieldAt body 2 4 = storeCount
        ∧ fieldAt body 6 2 = bodyLength ∧ fieldAt body 8 2 = 0
        ∧ fieldAt body 10 1 = (match stage with | .none => 0 | .body => 1 | .header => 2) ∧ fieldAt body 11 1 = 0
        ∧ fieldAt body 12 2 = address.toNat ∧ fieldAt body 14 5 = 0 ∧ fieldAt body 19 6 = clock)
  ∧ ∀ r : MeterReport, r.clock < 2 ^ 48 → r.blockIndex < 2 ^ 32 → r.clips < 2 ^ 32 → r.current < 2 ^ 32 → r.requested < 2 ^ 32 →
      r.funded < 2 ^ 32 → (∀ v, r.pending = some v → v < 2 ^ 32) → (∀ v, r.nTheta = some v → v < 2 ^ 16) →
      (∀ v ∈ [some r.results.lb, r.results.lst, r.results.li, some r.gcur], ∀ x, v = some x → -(2 ^ 15) ≤ x ∧ x < 2 ^ 15) →
      (∀ v, r.results.rho = some v → -(2 ^ 7) ≤ v ∧ v < 2 ^ 7) → -(2 ^ 31) ≤ r.lipSync → r.lipSync < 2 ^ 31 →
      (∀ ws ∈ r.words, ws.length = 4) → r.words.length ≤ 8 →
      let body := (Notice.meter r).body
      let bit (b : Bool) (n : Nat) : Nat := if b then 2 ^ n else 0
      let rho := 23 + (if r.selection.li then 4 else 0)
      let words := rho + (if r.selection.rho then 1 else 0)
      let delays := words + (if r.selection.words then 1 + 8 * r.words.length else 0)
      body.length = delays + (if r.selection.delays then 20 else 0)
        ∧ fieldAt body 0 1 = r.prog.val
        ∧ fieldAt body 1 1 = bit r.selection.li 0 + bit r.selection.rho 1 + bit r.selection.words 2 + bit r.selection.delays 3
        ∧ fieldAt body 2 6 = r.clock ∧ fieldAt body 8 4 = r.blockIndex
        ∧ fieldAt body 12 1 = bit r.results.paused 0 + bit r.results.overload 1 + bit r.results.belowGate 2
        ∧ signedAt body 13 2 = r.results.lb ∧ signedAt body 15 2 = r.results.lst.getD (-(2 ^ 15)) ∧ signedAt body 17 2 = r.gcur
        ∧ fieldAt body 19 4 = r.clips
        ∧ (r.selection.li = true → signedAt body 23 2 = r.results.li.getD (-(2 ^ 15)) ∧ fieldAt body 25 2 = r.nTheta.getD 0xFFFF)
        ∧ (r.selection.rho = true → signedAt body rho 1 = r.results.rho.getD (-(2 ^ 7)))
        ∧ (r.selection.words = true → fieldAt body words 1 = r.words.length ∧ ∀ (i j : Nat) (ws : List (BitVec 16)) (w : BitVec 16),
            r.words[i]? = some ws → ws[j]? = some w → fieldAt body (words + 1 + 8 * i + 2 * j) 2 = w.toNat)
        ∧ (r.selection.delays = true → fieldAt body delays 4 = r.current ∧ fieldAt body (delays + 4) 4 = r.requested
            ∧ fieldAt body (delays + 8) 4 = r.funded ∧ fieldAt body (delays + 12) 4 = r.pending.getD 0xFFFFFFFF
            ∧ signedAt body (delays + 16) 4 = r.lipSync)

/-- Every notice and every reply is sent as a frame (R174, R177, R195, 11.1): the sync byte, then bytes that the receiver of R175
reads as one whole frame with the notice's kind under tag 0, or kind 0x80 under the tag of the request answered. A reply's body opens
with the status code and the kind answered, and ends there when the reply carries no figure. Its figures follow in their order: those
whose bytes chapter 11 states in those bytes, and every other number most significant byte first in a width of at least one byte that
holds it; the order, the widths and the cut at 1024 bytes are the model's (log 29). -/
def Obligations.NoticesAndRepliesAreFrames : Prop :=
  (∀ n : Notice, n.body.length ≤ 1024 → n.frame.head? = some 0x7E
    ∧ frameAt n.frame.tail = .good (n.body.length + 6)
        (match n with
          | .alarm .. => 0x90 | .ref .. => 0x91 | .lane .. => 0x92 | .doneDelay .. => 0x93 | .doneStore .. => 0x93 | .meter _ => 0x94)
        0 n.body)
  ∧ ∀ r : Reply,
    let code : Byte := match r.status with
      | .ok => 0 | .clamped => 1 | .busy => 2 | .noObject => 3 | .conflict => 4 | .state => 5 | .format => 6
    r.frame.head? = some 0x7E ∧ frameAt r.frame.tail = .good (r.bodyBytes.length + 6) 0x80 r.tag r.bodyBytes
      ∧ r.bodyBytes.length ≤ 1024 ∧ r.bodyBytes.take 2 = [code, r.kind] ∧ (r.body = .empty → r.bodyBytes = [code, r.kind])
      ∧ ∃ pieces : List (List Byte), r.bodyBytes = ([code, r.kind] ++ pieces.flatten).take 1024
        ∧ List.Forall₂ (fun f piece => match f with
            | .laid bytes => piece = bytes
            | .number n => piece ≠ [] ∧ fieldAt piece 0 piece.length = n) r.body.figures pieces

/-! ## How requests are judged (R53, R177, R187, R196) -/

/-- While the profile load is in progress every request but STATUS and PROFILE_INFO, one of unknown kind included, is answered BUSY
and changes nothing (R177, R187, R189). Requests are taken oldest first: a request command whose kind is not that of the oldest
request not yet taken only lets the transmitter choose (log 2). One of unknown kind, or whose body does not fit its layout, is
answered FORMAT and changes nothing (R196). That a body with an empty presence fits no layout, whatever object it names, is log 41's
choice, and that a watch record's enable or freeze-enable byte other than 0 and 1 fits none is presumed (log 30); that any selection
byte fits is log 54's choice. -/
def Obligations.RequestsAreTakenInOrderOrRefused : Prop :=
  (∀ (s : State) (kind tag : Byte) (body : List Byte), s.powered = true → s.pfu.outcome = .loading →
    s.nextRequest = some { kind := kind, tag := tag, body := body, reply := none } → kind ≠ 0x01 → kind ≠ 0x61 →
    exec (requestCommand kind) s = .next (s.reply kind tag .busy .empty))
  ∧ (∀ (s : State) (kind tag : Byte) (body : List Byte), s.Takes kind tag body → kind ∉ requestKinds →
    exec .unknownKindRequest s = .next (s.reply kind tag .format .empty))
  ∧ (∀ (s : State) (kind : Byte), s.powered = true →
    (∀ r, s.nextRequest = some r → requestCommand r.kind ≠ requestCommand kind) →
    exec (requestCommand kind) s = .next { s with lnk := s.lnk.transmit })
  ∧ ∀ (s : State) (kind tag : Byte) (body : List Byte), s.Takes kind tag body → bodyFits kind body = false →
    exec (requestCommand kind) s = .next (s.reply kind tag .format .empty)

/-- A request that names a programme (its number is the body's first byte) is answered NO_OBJECT above 15, and NO_OBJECT or STATE,
changing nothing, as the table of R53 says for the programme's state. -/
def Obligations.ProgrammeStateRefusesRequests : Prop :=
  ∀ (s : State) (kind tag n : Byte) (rest : List Byte),
    kind ∈ [0x20, 0x21, 0x22, 0x23, 0x30, 0x31, 0x40, 0x41, 0x42, 0x43, 0x44] → s.Takes kind tag (n :: rest) →
    bodyFits kind (n :: rest) = true →
    (15 < n.toNat → exec (requestCommand kind) s = .next (s.reply kind tag .noObject .empty))
    ∧ ∀ p : ProgId, p.val = n.toNat →
      ((s.prog p).state = .undefined → kind ≠ 0x20 → exec (requestCommand kind) s = .next (s.reply kind tag .noObject .empty))
      ∧ ((s.prog p).state ≠ .undefined → kind = 0x20 → exec (requestCommand kind) s = .next (s.reply kind tag .state .empty))
      ∧ ((s.prog p).state = .waiting → kind = 0x23 → exec (requestCommand kind) s = .next (s.reply kind tag .state .empty))
      ∧ ((s.prog p).state = .releasing → kind ≠ 0x22 → kind ≠ 0x43 →
          exec (requestCommand kind) s = .next (s.reply kind tag .state .empty))

/-! ## Queries, credit, reports and flags (R19, R58, R127, R144, R145, R167 to R171, R179, R180, R185, R194) -/

/-- STATUS and the queries answer OK with each figure as it stands, and change nothing (R19, R24, R43, R58, R81, R90, R103, R127,
R149, R171, R172, R179, R194); with STATUS's clear option the latch and the loss count are reported, then cleared, and NOTICE_LOSS is
cleared. STATUS and PROFILE_INFO are taken during the load too. A programme off the page wait list reports 0 outstanding pages and
deficit by log 46; a lane's fade position is absent while no fade is in flight, and the figures' bytes are as log 29 has them. -/
def Obligations.StatusAndQueriesReportTheFigures : Prop :=
  let channels (x : Lane) : Nat := (List.finRange 8).countP fun k => x.active.getLsbD k.val
  let taps (s : State) : Nat := ((List.finRange 8).map fun l =>
    if (s.lane l).state = .running then
      (match (s.lane l).conv.granted with | .full => 64 | .short => 32 | .none => 0 | .bypass => 0) * channels (s.lane l)
    else 0).sum
  let status (s : State) : StatusReply :=
    { lineRate := s.lnk.lineRate, credit := s.lnk.credit, loss := s.lnk.loss, frameErrors := s.lnk.frameErrors,
      noticeCount := s.lnk.notices.length, requestCount := s.lnk.requests.length, refState := s.refu.state, latch := s.refu.latch,
      clock := s.refu.clock, tapsInUse := taps s, freeTaps := 2048 - taps s, admission := s.front.admission,
      freePages := s.dmc.free.length, headPage := s.dmc.free.head?, wait := s.dmc.wait, majorLevel := s.wch.majorLevel,
      freeze := s.wch.freeze, major := s.wch.major, minor := s.wch.minor, alarms := s.wch.table.length,
      unacked := s.wch.table.countP (fun e => !e.acked), highest := (s.wch.table.map (·.severity)).max?,
      selected := s.wch.selected, follow := s.wch.follow, monitored := s.wch.monitored, load := s.pfu.outcome,
      storing := s.pfu.store.isSome }
  (∀ (s : State) (tag option : Byte), s.powered = true →
    s.nextRequest = some { kind := 0x01, tag := tag, body := [option], reply := none } →
    (option = 0 → exec .status s = .next (s.reply 0x01 tag .ok (.status (status s))))
    ∧ (option = 1 →
        let v : Panel := { now := s.refu.clock, wch := s.wch, lnk := { s.lnk with loss := 0 } }
        exec .status s = .next
          ({ s with refu := { s.refu with latch := false }, wch := (v.clear .noticeLoss).wch, lnk := (v.clear .noticeLoss).lnk }.reply
            0x01 tag .ok (.status (status s)))))
  ∧ (∀ (s : State) (tag : Byte) (l : LaneId), s.Takes 0x10 tag [BitVec.ofNat 8 l.val] →
      let x := s.lane l
      exec .laneQuery s = .next (s.reply 0x10 tag .ok (.lane
        { state := x.state, settled := x.settled, active := x.active, grade := x.grade, deadRun := x.deadRun,
          senseGates := x.senseGates, mode := x.gauge.mode, gateOpen := x.gauge.mode != .closed, count := x.gauge.count,
          history := x.gauge.history, framing := x.lastFraming, invalid := x.lastInvalid, activity := x.lastActivity,
          settings := x.settings, granted := x.conv.granted, effective := x.conv.effective, forced := x.conv.forced,
          tracking := x.conv.tracking, acquisition := x.conv.acquisition, ratio := x.conv.ratio,
          settling := if x.state = .waitingBudget then x.conv.settling else none, fill := x.conv.fifo.length, latency := x.latency,
          slipCount := x.conv.slipCount, slipsInGate := x.conv.slipsInGate, gatesSinceSlip := x.conv.gatesSinceSlip,
          fade := x.conv.fade, fadePos := if x.conv.fade = .none then none else some x.conv.fadePos,
          place := (s.front.admission.findIdx? (· == l)).map (· + 1) })))
  ∧ (∀ (s : State) (tag n : Byte), 7 < n.toNat → s.Takes 0x10 tag [n] →
      exec .laneQuery s = .next (s.reply 0x10 tag .noObject .empty))
  ∧ (∀ (s : State) (tag : Byte) (p : ProgId), s.Takes 0x22 tag [BitVec.ofNat 8 p.val] → (s.prog p).state ≠ .undefined →
      let x := s.prog p
      let r := x.delay
      let live : Bool := x.state == .running || x.state == .releasing
      let pages := match x.members.head?.bind (·.ring) with | none => 0 | some ring => ring.rest.length + 1
      let when_ {α : Type} (c : Bool) (a : α) : Option α := if c then some a else none
      exec .progQuery s = .next (s.reply 0x22 tag .ok (.prog
        { state := x.state, inputStamp := x.inputStamp,
          members := x.members.map fun m =>
            { spec := m.spec, weight := m.spec.effectiveWeight, laneRunning := (s.lane m.spec.lane).state == .running,
              slotActive := (s.lane m.spec.lane).active.getLsbD m.spec.slot.val, tap := when_ live m.tap,
              latency := (s.lane m.spec.lane).latency }
          outputStamp := when_ live ((64 * (x.inputStamp : Int) - r.current) / 64), video := r.video, trim := r.trim,
          requested := r.requested, pending := r.pending, method := r.method, glideLimit := r.glideLimit,
          funded := when_ live r.funded, current := when_ live r.current, change := r.change,
          kind := when_ (r.change != .steady) r.kind,
          fadePos := when_ (r.change == .fadeOut || r.change == .fadeIn) r.fadePos, fill := when_ (r.change == .filling) r.fill,
          ahead := r.ahead, lipSync := when_ live ((r.current / 64 : Nat) - ((r.pending.getD r.requested : Nat) : Int)),
          releasePos := when_ (x.state == .releasing) r.releasePos, entryLevel := when_ (x.state == .releasing) r.entryLevel,
          pagesPerChannel := pages, pagesHeld := x.members.length * pages, holding := when_ live (max (r.current / 64) r.funded),
          place := (s.dmc.wait.findIdx? (· == p)).map (· + 1),
          outstanding := if p ∈ s.dmc.wait then x.members.length * (r.requested / 1024 + 1) - x.members.length * pages else 0,
          deficit := if p ∈ s.dmc.wait then r.requested - r.funded else 0 })))
  ∧ (∀ (s : State) (tag : Byte) (p : ProgId), s.Takes 0x43 tag [BitVec.ofNat 8 p.val] → (s.prog p).state ≠ .undefined →
      let m := (s.prog p).meter
      let g := (s.prog p).gain
      exec .loudQuery s = .next (s.reply 0x43 tag .ok (.loud
        { window := m.window, relGate := m.relGate, minCount := m.minCount, paused := g.paused, subBlocks := m.subBlocks,
          frameCount := m.frameCount, blockIndex := m.blockIndex, recorded := m.levels.length,
          total := (m.histogram.map (·.2)).sum, gate := m.gate, results := m.results,
          words := (s.prog p).members.map fun x => (x.words.map (·.bits)).reverse, settings := g.settings, gcur := g.gcur,
          moving := g.moving, desired := g.desired, applied := g.applied, factor := g.factor, rampStart := g.rampStart,
          rampEnd := g.rampEnd, rampPos := g.rampPos, cues := g.cues, clips := g.clips })))
  ∧ (∀ (s : State) (tag : Byte) (w : WatchId), s.Takes 0x51 tag [BitVec.ofNat 8 w.val] →
      exec .watchQuery s = .next (s.reply 0x51 tag .ok (.watch
        { watch := s.wch.watches[w], entry := s.wch.table.find? fun e => e.id == .watch w, freeze := s.wch.freeze,
          majorLevel := s.wch.majorLevel })))
  ∧ (∀ (s : State) (tag n : Byte), 31 < n.toNat → s.Takes 0x51 tag [n] →
      exec .watchQuery s = .next (s.reply 0x51 tag .noObject .empty))
  ∧ (∀ (s : State) (tag : Byte), s.powered = true →
      s.nextRequest = some { kind := 0x61, tag := tag, body := [], reply := none } →
      exec .profileInfo s = .next (s.reply 0x61 tag .ok (.profile
        { outcome := s.pfu.outcome, bodyLength := s.pfu.bodyLength, defined := s.pfu.defined, skipped := s.pfu.skipped,
          storeCount := s.pfu.storeCount, lastStore := s.pfu.lastStore, storing := s.pfu.store.isSome })))

/-- CREDIT with an amount n, 0 taken as 1: the credit count becomes the smaller of its old value plus n and 255, and an idle
transmitter begins a notice that waits at once, before the reply is formed (log 5); CLAMPED when n was 0 or the sum exceeded 255; the
reply reports the amount taken and the count after (R180). REPORT_SET on a WAITING or RUNNING programme stores the fields present, a
period above 600 as 600 and then CLAMPED, sets the report counter to 0, and reports what is stored (R185). LOUD_PAUSE, LOUD_RESUME,
FREEZE and MONITOR_SET each set the flags they carry and nothing else, and report them (R144, R145, R167, R168, R169). The codes 0
off and 1 on are section 11.2's; that bits 4 to 7 of a selection byte are ignored is log 54's choice. -/
def Obligations.CreditReportAndFlagRequestsStoreTheirValues : Prop :=
  (∀ (s : State) (tag n : Byte), s.Takes 0x02 tag [n] →
    let asked := if n = 0 then 1 else n.toNat
    let credit := min (s.lnk.credit + asked) 255
    exec .credit s = .next (({ s with lnk := ({ s.lnk with credit := credit } : Lnk).transmit }).reply 0x02 tag
      (if n = 0 ∨ 255 < s.lnk.credit + asked then .clamped else .ok) (.credit (credit - s.lnk.credit) credit)))
  ∧ (∀ (s : State) (tag : Byte) (body : List Byte) (p : ProgId) (period : Option Nat) (selection : Option Selection),
    s.Takes 0x44 tag body → bodyReportSet body = some (p.val, period, selection) →
    (s.prog p).state = .waiting ∨ (s.prog p).state = .running →
    let old := (s.prog p).report
    let new : ReportRec := { period := (period.map fun n => min n 600).getD old.period, selection := selection.getD old.selection,
                             counter := 0 }
    exec .reportSet s = .next ((s.setProg p { s.prog p with report := new }).reply 0x44 tag
      (if ∃ n, period = some n ∧ 600 < n then .clamped else .ok) (.report new.period new.selection)))
  ∧ (∀ (s : State) (tag : Byte) (p : ProgId), (s.prog p).state = .waiting ∨ (s.prog p).state = .running →
    (s.Takes 0x41 tag [BitVec.ofNat 8 p.val] → exec .loudPause s = .next
      ((s.setProg p { s.prog p with gain := { (s.prog p).gain with paused := true } }).reply 0x41 tag .ok (.paused true)))
    ∧ (s.Takes 0x42 tag [BitVec.ofNat 8 p.val] → exec .loudResume s = .next
      ((s.setProg p { s.prog p with gain := { (s.prog p).gain with paused := false } }).reply 0x42 tag .ok (.paused false))))
  ∧ (∀ (s : State) (tag setting : Byte), setting = 0 ∨ setting = 1 → s.Takes 0x54 tag [setting] →
      exec .freeze s = .next ({ s with wch := { s.wch with freeze := setting == 1 } }.reply 0x54 tag .ok (.freeze (setting == 1))))
  ∧ (∀ (s : State) (tag : Byte) (body : List Byte) (selected : Option Nat) (follow : Option Bool), s.Takes 0x55 tag body →
      bodyMonitorSet body = some (selected, follow) →
      ((∃ n, selected = some n ∧ 15 < n ∧ n ≠ 0xFF) → exec .monitorSet s = .next (s.reply 0x55 tag .noObject .empty))
      ∧ ∀ selection : Option ProgId,
        (selected = none ∧ selection = s.wch.selected ∨ selected = some 0xFF ∧ selection = none
          ∨ ∃ p : ProgId, selected = some p.val ∧ selection = some p) →
        ∃ monitored : Option ProgId,
          exec .monitorSet s = .next ({ s with wch := { s.wch with
            selected := selection, follow := follow.getD s.wch.follow, monitored := monitored } }.reply 0x55 tag .ok
              (.monitor selection (follow.getD s.wch.follow) monitored))
          /- R168: without a qualifying entry, or with follow off, the selected programme; otherwise the programme of the
          qualifying entry no other is heard before. -/
          ∧ ((follow.getD s.wch.follow = false ∨ ∀ e ∈ s.wch.table, e.acked = true ∨ ∀ p, e.source ≠ .programme p) →
              monitored = selection)
          ∧ (follow.getD s.wch.follow = true → ∀ e ∈ s.wch.table, ∀ p, e.acked = false → e.source = .programme p →
              (∀ x ∈ s.wch.table, x.acked = false → (∃ q, x.source = .programme q) → x ≠ e →
                x.severity < e.severity ∨ (x.severity = e.severity
                  ∧ (x.raised < e.raised ∨ (x.raised = e.raised ∧ x.id.code < e.id.code)))) →
              monitored = some p))

/-! ## The alarm table's requests (R162, R163, R166 to R170) -/

/-- ALARM_LIST answers OK with the count and at most 40 entries from the first position in the order of R162, and changes nothing; a
malformed body is answered FORMAT. -/
def Obligations.AlarmListOrdersTheTable : Prop :=
  (∀ (s : State) (tag first : Byte), s.Takes 0x52 tag [first] →
    ∃ sorted : List AlarmEntry, sorted.Perm s.wch.table
      ∧ sorted.Pairwise (fun a b => b.severity < a.severity ∨ (b.severity = a.severity
          ∧ (a.raised < b.raised ∨ (a.raised = b.raised ∧ a.id.code ≤ b.id.code))))
      ∧ exec .alarmList s = .next (s.reply 0x52 tag .ok
          (.alarms s.wch.table.length ((sorted.drop first.toNat).take 40))))
  ∧ ∀ (s : State) (tag : Byte) (body : List Byte), s.Takes 0x52 tag body → body.length ≠ 1 →
    exec .alarmList s = .next (s.reply 0x52 tag .format .empty)

/-- ALARM_ACK (R163): NO_OBJECT above id 74, FORMAT when malformed, STATE for an alarm not raised, OK and no change for one already
acknowledged, and for a raised one the flag set, an ACKNOWLEDGED notice offered, and the lines and the monitor following. -/
def Obligations.AlarmAckAcknowledgesARaisedAlarm : Prop :=
  ∀ (s : State) (tag : Byte) (body : List Byte), s.Takes 0x53 tag body →
    (body.length ≠ 1 → exec .alarmAck s = .next (s.reply 0x53 tag .format .empty))
    ∧ ∀ n : Byte, body = [n] →
      (74 < n.toNat → exec .alarmAck s = .next (s.reply 0x53 tag .noObject .empty))
      ∧ ∀ id : AlarmId, id.code = n.toNat →
        (s.wch.isRaised id = false → exec .alarmAck s = .next (s.reply 0x53 tag .state .empty))
        ∧ ∀ before e after, s.wch.table = before ++ e :: after → e.id = id → (∀ x ∈ before ++ after, x.id ≠ id) →
          (e.acked = true → exec .alarmAck s = .next (s.reply 0x53 tag .ok (.alarm e)))
          ∧ (e.acked = false →
            let e' := { e with acked := true }
            let v : Panel := Panel.offer (.alarm e' .acknowledged s.refu.clock)
              { now := s.refu.clock, lnk := s.lnk,
                wch := ({ s.wch with table := before ++ e' :: after } : Wch).settleLines.decideMonitor }
            exec .alarmAck s = .next ({ s with wch := v.wch, lnk := v.lnk }.reply 0x53 tag .ok (.alarm e')))

/-- WATCH_SET (R166, R170). A watch above 31 or an object that does not exist is answered NO_OBJECT, a measure that does not belong to
the merged object's kind FORMAT; then neither part is taken. Otherwise the fields present are stored, clamped, the watch's alarm is
cleared when raised, and the watch starts afresh, in QUIET when enabled and OFF when not, every count 0; no other watch changes; and a
major level with it, or alone, is clamped, stored and applied to MAJOR over the table as it then stands. That the stored measure's
code is read within a changed source kind, where the request carries no measure, is log 35's reading (DEDUCED). -/
def Obligations.WatchSetRestartsTheWatch : Prop :=
  (∀ (s : State) (tag : Byte) (body : List Byte) (n : Nat) (b : WatchBody) (level : Option Nat), s.Takes 0x50 tag body →
    bodyWatchSet body = some { watch := some (n, b), majorLevel := level } →
    (31 < n → exec .watchSet s = .next (s.reply 0x50 tag .noObject .empty))
    ∧ ∀ w : WatchId, w.val = n →
      let old := (s.wch.watches[w]).record
      let source := b.object.getD (old.object.kind, old.object.number)
      (source.1.measures[b.measure.getD old.measure.code]? = none →
        exec .watchSet s = .next (s.reply 0x50 tag .format .empty))
      ∧ ∀ measure, source.1.measures[b.measure.getD old.measure.code]? = some measure →
        (source.1 = .programme ∧ 15 < source.2 ∨ source.1 = .lane ∧ 7 < source.2 →
          exec .watchSet s = .next (s.reply 0x50 tag .noObject .empty))
        ∧ ∀ object : WatchObject, object.kind = source.1 →
          (source.1 = .programme ∨ source.1 = .lane → object.number = source.2) →
          let within (v : Option Nat) (hi was : Nat) : Nat := (v.map fun n => max 1 (min n hi)).getD was
          let outside (v : Option Nat) (hi : Nat) : Prop := ∃ n, v = some n ∧ (n < 1 ∨ hi < n)
          let new : WatchRecord :=
            { enable := b.enable.getD old.enable, object := object, measure := measure, threshold := b.threshold.getD old.threshold,
              sense := b.sense.getD old.sense, mode := b.mode.getD old.mode, raiseCount := within b.raiseCount 600 old.raiseCount,
              clearCount := within b.clearCount 600 old.clearCount, severity := within b.severity 7 old.severity,
              freezeEnable := b.freezeEnable.getD old.freezeEnable }
          let start : Watch :=
            { record := new, state := if new.enable then .quiet else .off, run := 0, entries := 0, quiet := 0,
              lastQualified := false, lastValue := none, lastStamp := none }
          let v : Panel := Panel.clear (.watch w) { now := s.refu.clock, wch := s.wch, lnk := s.lnk }
          let set : Wch := { v.wch with watches := s.wch.watches.set w start }
          let wch : Wch := match level with
            | none => set
            | some n =>
              let major := max 1 (min n 7)
              { set with
                majorLevel := major, major := set.table.any fun e => !e.acked && decide (major ≤ e.severity)
                minor := !set.table.isEmpty }
          ∃ status : Status, (status = .clamped ↔ outside b.raiseCount 600 ∨ outside b.clearCount 600 ∨ outside b.severity 7
              ∨ outside level 7)
            ∧ (status = .ok ∨ status = .clamped)
            ∧ exec .watchSet s = .next ({ s with wch := wch, lnk := v.lnk }.reply 0x50 tag status
                (.watchSet (some (new, start.state)) ((level.map fun n => max 1 (min n 7)).getD s.wch.majorLevel))))
  ∧ ∀ (s : State) (tag : Byte) (body : List Byte) (n : Nat), s.Takes 0x50 tag body →
    bodyWatchSet body = some { watch := none, majorLevel := some n } →
    let level := max 1 (min n 7)
    let asserted := s.wch.table.any fun e => !e.acked && decide (level ≤ e.severity)
    exec .watchSet s = .next ({ s with wch := { s.wch with
        majorLevel := level, major := asserted, minor := !s.wch.table.isEmpty } }.reply 0x50 tag
      (if n < 1 ∨ 7 < n then .clamped else .ok) (.watchSet none level))

/-! ## Input lanes (R2 to R14, R17, R18, R29, R33, R34, R38) -/

/-- LANE_SET without the enable setting stores the settings present, a tolerance above 200 as 200 and then CLAMPED (R17); a lane above
7 is answered NO_OBJECT. On a lane neither RUNNING nor DISABLED nothing else changes; on a DISABLED one a changed open counting opens
the gauge at count 0, or closes it with its count held (R14). On a RUNNING one a preference changed to SHORT makes a lane granted FULL
change to SHORT, one changed to FULL a lane granted SHORT take FULL where the free taps allow it, and bypass no longer allowed makes a
lane in bypass, not forced, leave it, with FULL by preference and free taps and else with SHORT; each changed grant asks for a lane
fade (R38, R40). The FULL upgrade is stated with no other lane to be upgraded before it. The order of the settings' effects is log
20's. -/
def Obligations.LaneSetStoresTheSettings : Prop :=
  ∀ (s : State) (tag : Byte) (body : List Byte) (b : LaneSetBody), s.Takes 0x11 tag body → bodyLaneSet body = some b →
    (7 < b.lane → exec .laneSet s = .next (s.reply 0x11 tag .noObject .empty))
    ∧ ∀ l : LaneId, l.val = b.lane → b.enable = none →
      let x := s.lane l
      let old := x.settings
      let new : LaneSettings :=
        { enabled := old.enabled, preference := b.preference.getD old.preference,
          bypassAllowed := b.bypassAllowed.getD old.bypassAllowed,
          tolerance := (b.tolerance.map fun n => min n 200).getD old.tolerance,
          openCounting := b.openCounting.getD old.openCounting }
      let kept := { x with settings := new }
      let channels := (List.finRange 8).countP fun k => x.active.getLsbD k.val
      let free := s.front.freeTaps
      let granted : ConvMode := match x.conv.granted with
        | .none => .none
        | .full => if old.preference = .full ∧ new.preference = .short then .short else .full
        | .short => if old.preference = .short ∧ new.preference = .full ∧ 32 * channels ≤ free then .full else .short
        | .bypass =>
          if old.bypassAllowed = true ∧ new.bypassAllowed = false ∧ x.conv.forced = false then
            if new.preference = .full ∧ 64 * channels ≤ free then .full else .short
          else .bypass
      let fades : Prop := granted ≠ x.conv.granted ∧ x.conv.fade = .none
      ∃ t : State, (((∃ n, b.tolerance = some n ∧ 200 < n) ∧ exec .laneSet s = .next (t.reply 0x11 tag .clamped (.tolerance 200)))
          ∨ ((∀ n, b.tolerance = some n → n ≤ 200) ∧ exec .laneSet s = .next (t.reply 0x11 tag .ok .empty)))
        ∧ (x.state ≠ .running → x.state ≠ .disabled → t = s.setLane l kept)
        ∧ (x.state = .disabled → t = s.setLane l { kept with
            gauge := if new.openCounting = old.openCounting then x.gauge
              else if new.openCounting then { x.gauge with mode := .opened, count := 0 } else { x.gauge with mode := .closed } })
        ∧ (x.state = .running → s.front.admission = [] →
            (x.conv.granted = .short → ∀ m, m ≠ l → (s.lane m).state = .running → (s.lane m).conv.granted = .short →
              (s.lane m).settings.preference = .short) →
            t = { s with front := t.front } ∧ t.front.admission = []
              ∧ (t.lane l).conv.granted = granted
              ∧ (fades → (t.lane l).conv.fade = .fadeOut ∧ (t.lane l).conv.fadePos = 480)
              ∧ (¬fades → (t.lane l).conv.fade = x.conv.fade ∧ (t.lane l).conv.fadePos = x.conv.fadePos)
              ∧ t.lane l = { kept with conv := { x.conv with
                  granted := granted, fade := (t.lane l).conv.fade, fadePos := (t.lane l).conv.fadePos } }
              ∧ (granted = x.conv.granted ∨ x.conv.granted = .short → ∀ m, m ≠ l → t.lane m = s.lane m)
              ∧ ∀ m, m ≠ l → (t.lane m).state = (s.lane m).state ∧ (t.lane m).settings = (s.lane m).settings
                  ∧ (t.lane m).gauge = (s.lane m).gauge ∧ (t.lane m).conv.fifo = (s.lane m).conv.fifo)

/-- A LANE_SET that only disables takes a lane from any state to DISABLED: class, slots and grade are cleared, the gauge goes to OPEN
at count 0 or to CLOSED with its count held, LANE_LOST and LANE_REJECTED for the lane are clear, a lane that ran leaves the engine
with its latency held and stands on no queue; and one that only enables takes a DISABLED lane to ABSENT, its gauge in TIMED (R14, R17,
R42). Each is answered OK, and offers the LANE notice of the change (R13) and the CLEARED notices of the alarms it clears, in log 50's
order; a lane that ran is so stated with no lane waiting for budget, as every state keeps it (R36). LANE_RESET on a lane that is not
DISABLED puts it in ABSENT, its settings, slip count, latency and running gauge kept; its budget and its place on the admission queue
are given back, LANE_LOST and LANE_REJECTED for it are clear (R18, R8, R42). On a DISABLED lane it is answered STATE, and with a lane
number above 7 NO_OBJECT (1.5), and changes nothing. The reference, the programmes, the delay memory and the profile unit are
untouched. -/
def Obligations.LaneSetAndLaneResetMoveTheLane : Prop :=
  (∀ (s : State) (tag : Byte) (body : List Byte) (b : LaneSetBody) (l : LaneId), s.Takes 0x11 tag body →
    bodyLaneSet body = some b → b.lane = l.val → b.preference = none → b.bypassAllowed = none → b.tolerance = none →
    b.openCounting = none →
    let noticed (new : LaneState) : Panel := Panel.offer (.lane l new (s.lane l).state .unknown 0 s.refu.clock)
      { now := s.refu.clock, wch := s.wch, lnk := s.lnk }
    (b.enable = some false → (s.lane l).state ≠ .disabled → ∃ u : State, let t := u.reply 0x11 tag .ok .empty
      exec .laneSet s = .next t
      ∧ (let v := ((noticed .disabled).clear (.laneLost l)).clear (.laneRejected l)
         ((s.lane l).state ≠ .running → u.wch = v.wch ∧ u.lnk = v.lnk)
         ∧ ((s.lane l).state = .running → s.front.admission = [] →
            u.wch = (v.clear (.slip l)).wch ∧ u.lnk = (v.clear (.slip l)).lnk))
      ∧ (t.lane l).state = .disabled ∧ (t.lane l).settled = .unknown ∧ (t.lane l).active = 0 ∧ (t.lane l).grade = .none
      ∧ (t.lane l).settings = { (s.lane l).settings with enabled := false }
      ∧ ((s.lane l).settings.openCounting = true → (t.lane l).gauge.mode = .opened ∧ (t.lane l).gauge.count = 0)
      ∧ ((s.lane l).settings.openCounting = false →
          (t.lane l).gauge.mode = .closed ∧ (t.lane l).gauge.count = (s.lane l).gauge.count)
      ∧ t.wch.isRaised (.laneLost l) = false ∧ t.wch.isRaised (.laneRejected l) = false
      ∧ ((s.lane l).state = .running → (t.lane l).conv.granted = .none ∧ (t.lane l).conv.effective = .none
          ∧ (t.lane l).conv.fifo = [] ∧ (t.lane l).conv.fade = .none ∧ t.wch.isRaised (.slip l) = false)
      ∧ ((s.lane l).state = .running ∨ (s.lane l).state = .waitingBudget → l ∉ t.front.admission)
      ∧ (t.lane l).latency = (s.lane l).latency ∧ (t.lane l).conv.slipCount = (s.lane l).conv.slipCount
      ∧ t.refu = s.refu ∧ t.progs = s.progs ∧ t.dmc = s.dmc ∧ t.pfu = s.pfu ∧ t.out = s.out ∧ t.pending = s.pending
      ∧ ∀ m, m ≠ l → (t.lane m).settings = (s.lane m).settings ∧ (t.lane m).gauge = (s.lane m).gauge)
    ∧ (b.enable = some true → (s.lane l).state = .disabled → ∃ u : State, let t := u.reply 0x11 tag .ok .empty
      exec .laneSet s = .next t ∧ u.wch = (noticed .absent).wch ∧ u.lnk = (noticed .absent).lnk
      ∧ (t.lane l).state = .absent ∧ (t.lane l).gauge = { mode := .timed, count := 0, history := [], elapsed := 0 }
      ∧ (t.lane l).settings = { (s.lane l).settings with enabled := true }
      ∧ t.refu = s.refu ∧ t.progs = s.progs ∧ t.dmc = s.dmc ∧ t.pfu = s.pfu ∧ t.out = s.out ∧ t.pending = s.pending
      ∧ ∀ m, m ≠ l → t.lane m = s.lane m))
  ∧ (∀ (s : State) (tag n : Byte), 7 < n.toNat → s.Takes 0x12 tag [n] →
      exec .laneReset s = .next (s.reply 0x12 tag .noObject .empty))
  ∧ ∀ (s : State) (tag : Byte) (l : LaneId), s.Takes 0x12 tag [BitVec.ofNat 8 l.val] →
    ((s.lane l).state = .disabled → exec .laneReset s = .next (s.reply 0x12 tag .state .empty))
    ∧ ((s.lane l).state ≠ .disabled → ∃ u : State, let t := u.reply 0x12 tag .ok .empty
      exec .laneReset s = .next t
      ∧ (let v : Panel := Panel.offer (.lane l .absent (s.lane l).state .unknown 0 s.refu.clock)
           { now := s.refu.clock, wch := s.wch, lnk := s.lnk }
         let cleared (v : Panel) : Panel := (v.clear (.laneLost l)).clear (.laneRejected l)
         ((s.lane l).state ≠ .running → u.wch = (cleared v).wch ∧ u.lnk = (cleared v).lnk)
         ∧ ((s.lane l).state = .running → s.front.admission = [] →
            u.wch = (cleared (v.clear (.slip l))).wch ∧ u.lnk = (cleared (v.clear (.slip l))).lnk))
      ∧ (t.lane l).state = .absent ∧ (t.lane l).settled = .unknown ∧ (t.lane l).active = 0 ∧ (t.lane l).grade = .none
      ∧ (t.lane l).senseGates = 0 ∧ (t.lane l).deadRun = 0
      ∧ (t.lane l).gauge = { (s.lane l).gauge with history := [] } ∧ (t.lane l).settings = (s.lane l).settings
      ∧ t.wch.isRaised (.laneLost l) = false ∧ t.wch.isRaised (.laneRejected l) = false
      ∧ ((s.lane l).state = .running → (t.lane l).conv.granted = .none ∧ (t.lane l).conv.effective = .none
          ∧ (t.lane l).conv.fifo = [] ∧ (t.lane l).conv.fade = .none ∧ t.wch.isRaised (.slip l) = false)
      ∧ ((s.lane l).state = .running ∨ (s.lane l).state = .waitingBudget → l ∉ t.front.admission)
      ∧ (t.lane l).latency = (s.lane l).latency ∧ (t.lane l).conv.slipCount = (s.lane l).conv.slipCount
      ∧ t.refu = s.refu ∧ t.progs = s.progs ∧ t.dmc = s.dmc ∧ t.pfu = s.pfu ∧ t.out = s.out ∧ t.pending = s.pending
      ∧ ∀ m, m ≠ l → (t.lane m).settings = (s.lane m).settings ∧ (t.lane m).gauge = (s.lane m).gauge)

/-- A transition on the bit clock sets the lane's activity indicator, and takes a lane in ABSENT to DETECT with a LANE notice (R2, R8,
R13); so does a marker, whose frame is then open. A frame marker that opens a frame only counts. One that closes a frame on a RUNNING
lane hands the converter exactly one frame, which is discarded at 256: zero in every slot unless the frame has 256 bit periods and the
slot is active, of correct parity and valid; a bad frame counts as a framing error, an invalid active sample as such (R2, R3, R28). A
fill that this brings, or leaves, outside 16 to 240 wants a slip; one outside 96 to 160 makes a lane in bypass by choice leave it for
FULL by preference and free taps and else for SHORT, which can take other lanes from FULL to SHORT; either asks for a lane fade (R30,
R34, R36, R40). One that closes the first sound frame of a lane in DETECT takes it to SENSE with a LANE notice (R8, R9); one that is
not sound counts as a framing error. In SENSE, ADMIT, REJECTED and DISABLED a closed frame is counted, in the valid record or as a
framing error. That an active slot of wrong parity counts as invalid is log 23's reading, that a marker's bit periods set the activity
and that the frame after entry to DETECT is not closed by its first marker log 32's (both DEDUCED), and the gate of a frame that
straddles two log 42's. -/
def Obligations.ActivityAndFrameMarkers : Prop :=
  (∀ (s : State) (l : LaneId), s.powered = true → let x := s.lane l
    (x.state ≠ .absent → exec (.laneActivity l) s = .next (s.setLane l { x with activity := true }).transmit)
    ∧ (x.state = .absent →
        let v : Panel := Panel.offer (.lane l .detect .absent x.settled x.active s.refu.clock)
          { now := s.refu.clock, wch := s.wch, lnk := s.lnk }
        let t := s.setLane l { x with activity := true, state := .detect, frameOpen := false }
        exec (.laneActivity l) s = .next { t with wch := v.wch, lnk := v.lnk }.transmit))
  ∧ ∀ (s : State) (l : LaneId) (f : LaneFrame), s.powered = true → 0 < f.bitPeriods →
    let x := s.lane l
    let gauge := { x.gauge with count := if x.gauge.mode = .closed then x.gauge.count else x.gauge.count + 1 }
    let word (k : SlotId) : SlotWord := f.slots.getD k.val 0
    let whole := f.bitPeriods = 256
    let sound := whole ∧ ∀ k : SlotId, slotParityCorrect (word k) = true
    (x.state = .absent →
      let v : Panel := Panel.offer (.lane l .detect .absent x.settled x.active s.refu.clock)
        { now := s.refu.clock, wch := s.wch, lnk := s.lnk }
      let t := s.setLane l { x with activity := true, gauge := gauge, state := .detect, frameOpen := true }
      exec (.laneFrameClosed l f) s = .next { t with wch := v.wch, lnk := v.lnk }.transmit)
    ∧ (x.frameOpen = false → x.state ≠ .absent →
      exec (.laneFrameClosed l f) s = .next (s.setLane l { x with activity := true, gauge := gauge, frameOpen := true }).transmit)
    ∧ (x.frameOpen = true → x.state = .running →
      ∃ (samples : Frame) (framing invalid : Nat) (valid : BitVec 8) (front : Front), samples.length = 8
        ∧ (∀ k : SlotId, samples[k.val]? = some
            (if f.bitPeriods = 256 ∧ x.active.getLsbD k.val = true ∧ slotParityCorrect (word k) = true ∧ slotValid (word k) = true
              then slotSample (word k) else 0))
        ∧ (sound → framing = x.framing) ∧ (¬sound → framing = min 65535 (x.framing + 1))
        ∧ (¬whole → invalid = min 65535 x.invalid)
        ∧ (whole → invalid = min 65535 (x.invalid
            + ((List.finRange 8).countP fun k => x.active.getLsbD k.val && !slotValid (word k))))
        ∧ exec (.laneFrameClosed l f) s = .next { s with front := front }.transmit
        ∧ (let c := x.conv
           let fifo := if c.fifo.length < 256 then c.fifo ++ [samples] else c.fifo
           let fill := fifo.length
           let slips : Bool := !c.slipWanted && (decide (fill < 16) || decide (240 < fill))
           let leaves : Bool := c.granted == .bypass && !c.forced && (decide (fill < 96) || decide (160 < fill))
           let channels := (List.finRange 8).countP fun k => x.active.getLsbD k.val
           let granted : ConvMode :=
             if leaves then if x.settings.preference = .full ∧ 64 * channels ≤ s.front.freeTaps then .full else .short else c.granted
           let fades : Bool := c.fade == .none && (slips || leaves)
           front.admission = s.front.admission
           ∧ front.lanes[l] = { x with
               activity := true, gauge := gauge, framing := framing, invalid := invalid, validAll := valid,
               conv := { c with
                 fifo := fifo, slipWanted := c.slipWanted || slips, granted := granted,
                 fade := if fades then .fadeOut else c.fade, fadePos := if fades then 480 else c.fadePos } }
           ∧ (leaves = false ∨ 32 * channels ≤ s.front.freeTaps → ∀ m, m ≠ l → front.lanes[m] = s.lane m)
           ∧ ∀ m, m ≠ l → front.lanes[m] = s.lane m
             ∨ ((s.lane m).state = .running ∧ (s.lane m).conv.granted = .full
                ∧ front.lanes[m] = { s.lane m with conv := { (s.lane m).conv with
                    granted := .short
                    fade := if (s.lane m).conv.fade = .none then .fadeOut else (s.lane m).conv.fade
                    fadePos := if (s.lane m).conv.fade = .none then 480 else (s.lane m).conv.fadePos } })))
    ∧ (x.frameOpen = true → x.state = .detect → sound → ∃ valid : BitVec 8,
      let v : Panel := Panel.offer (.lane l .sense .detect x.settled x.active s.refu.clock)
        { now := s.refu.clock, wch := s.wch, lnk := s.lnk }
      let t := s.setLane l { x with
        activity := true, gauge := gauge, validAll := valid, state := .sense, prevSense := none, deadRun := 0, gateInSense := false }
      exec (.laneFrameClosed l f) s = .next { t with wch := v.wch, lnk := v.lnk }.transmit)
    ∧ (x.frameOpen = true → x.state ≠ .running → x.state ≠ .absent → (x.state = .detect → ¬sound) → ∃ (framing : Nat) (valid : BitVec 8),
      (sound → framing = x.framing ∧ ∀ k : SlotId, valid.getLsbD k.val = (x.validAll.getLsbD k.val && slotValid (word k)))
      ∧ (¬sound → framing = min 65535 (x.framing + 1) ∧ valid = x.validAll)
      ∧ exec (.laneFrameClosed l f) s = .next (s.setLane l { x with
          activity := true, gauge := gauge, framing := framing, validAll := valid }).transmit)

/-- A gate expiry of a lane that is not RUNNING, and the loss of one that is (R4 to R11, R13). The count goes to the head of the
history, which keeps at most four, the counts start again, and the grade is DEAD with a framing error, else WEAK beyond the tolerance
of the nominal count of the settled class (or of the gate's own class, when there is none), or when neither class is known, else GOOD.
ABSENT, ADMIT, DISABLED, and DETECT and REJECTED with activity stay as they are, and so does SENSE at a gate that began before it, or
that is neither the second of a settling pair nor the tenth; the tenth takes it to REJECTED, with LANE_REJECTED raised. DETECT or
REJECTED without activity falls to ABSENT, LANE_REJECTED cleared. A lane in SENSE, ADMIT or RUNNING is lost with a count of 0 or a
third DEAD grade running, and then is ABSENT, with LANE_LOST raised when it was in ADMIT or RUNNING. The dead run outside SENSE, ADMIT
and RUNNING is log 37's reading; that the LANE notice is offered before LANE_REJECTED or LANE_LOST is raised or cleared is log 50's
choice, and that a gate of another class in ADMIT is graded by the tolerance alone is log 55's. -/
def Obligations.GateExpiryGradesOrLosesTheLane : Prop :=
  ∀ (s : State) (l : LaneId), s.powered = true → (s.lane l).gauge.mode = .timed → 4800 ≤ (s.lane l).gauge.elapsed →
    let x := s.lane l
    let c := x.gauge.count.toNat
    let nominal : Option Nat := if x.settled = .unknown then (classOf c).nominal else x.settled.nominal
    let grade : Grade :=
      if 0 < x.framing then .dead
      else match nominal with
        | none => .weak
        | some n => if (x.settings.tolerance : Int) < |(c : Int) - n| then .weak else .good
    let dead := if grade = .dead then min 3 (x.deadRun + 1) else 0
    let lost : Prop := c = 0 ∨ (grade = .dead ∧ dead = 3)
    let ended : Lane := { x with
      gauge := { x.gauge with count := 0, history := (x.gauge.count :: x.gauge.history).take 4, elapsed := 0 },
      lastFraming := x.framing, lastInvalid := x.invalid, lastActivity := x.activity, framing := 0, invalid := 0,
      activity := false, grade := grade, deadRun := dead, gateInSense := false, validAll := BitVec.allOnes 8 }
    let clean : Bool := decide (x.framing = 0) && classOf c != .unknown
    let panel : Panel := { now := s.refu.clock, wch := s.wch, lnk := s.lnk }
    (x.state = .absent ∨ x.state = .disabled ∨ (x.state = .detect ∨ x.state = .rejected) ∧ x.activity = true →
      exec (.gateExpiry l) s = .next (s.setLane l { ended with
        deadRun := if grade = .dead then x.deadRun else 0 }).transmit)
    ∧ (x.state = .waitingBudget → ¬lost → exec (.gateExpiry l) s = .next (s.setLane l ended).transmit)
    ∧ (x.state = .sense → x.gateInSense = false → ¬lost →
      exec (.gateExpiry l) s = .next (s.setLane l { ended with gateInSense := true }).transmit)
    ∧ (x.state = .sense → x.gateInSense = true → ¬lost →
      (∀ prev, x.prevSense = some prev →
        ¬(prev.clean = true ∧ clean = true ∧ prev.cls = classOf c ∧ prev.valid &&& x.validAll ≠ 0)) →
      (x.senseGates + 1 < 10 → exec (.gateExpiry l) s = .next (s.setLane l { ended with
        gateInSense := true, senseGates := x.senseGates + 1,
        prevSense := some { cls := classOf c, clean := clean, valid := x.validAll } }).transmit)
      ∧ (10 ≤ x.senseGates + 1 →
        let v := (panel.offer (.lane l .rejected .sense x.settled x.active s.refu.clock)).raise (.laneRejected l)
        exec (.gateExpiry l) s = .next { s.setLane l { ended with state := .rejected, senseGates := 10 } with
          wch := v.wch, lnk := v.lnk }.transmit))
    ∧ (x.state = .detect ∨ x.state = .rejected → x.activity = false →
      let v := panel.offer (.lane l .absent x.state .unknown 0 s.refu.clock)
      let u := if x.state = .rejected then v.clear (.laneRejected l) else v
      exec (.gateExpiry l) s = .next { s.setLane l { ended with
        state := .absent, settled := .unknown, active := 0, senseGates := 0, prevSense := none, deadRun := 0, grade := .none,
        gauge := { x.gauge with count := 0, history := [], elapsed := 0 }, lastFraming := 0, lastInvalid := 0,
        conv := { x.conv with settling := none } } with wch := u.wch, lnk := u.lnk }.transmit)
    ∧ (x.state = .sense ∨ x.state = .waitingBudget ∨ x.state = .running → lost →
      ∃ t, exec (.gateExpiry l) s = .next t ∧ (t.lane l).state = .absent ∧ (t.lane l).settled = .unknown ∧ (t.lane l).active = 0
      ∧ (t.lane l).gauge = { x.gauge with count := 0, history := [], elapsed := 0 } ∧ (t.lane l).grade = .none
      ∧ (t.lane l).deadRun = 0 ∧ (t.lane l).senseGates = 0 ∧ (t.lane l).prevSense = none
      ∧ (t.lane l).settings = x.settings ∧ (t.lane l).latency = x.latency
      ∧ (x.state ≠ .sense → t.wch.isRaised (.laneLost l) = true ∧ l ∉ t.front.admission)
      ∧ (x.state = .sense → t.wch.isRaised (.laneLost l) = s.wch.isRaised (.laneLost l))
      ∧ t.refu = s.refu ∧ t.progs = s.progs ∧ t.dmc = s.dmc ∧ t.pfu = s.pfu ∧ t.out = s.out)

/-- A gate expiry of a RUNNING lane that is not lost. The ratio estimate moves by a half of its error, and by a sixteenth with the
fill's term once it tracks, from the eighth gate on (R29). A lane in bypass by choice leaves it when the count is off by more than 1;
an eligible lane (48 k, bypass allowed, tracking, four counts of 4800, a fill of 120 to 136) enters it from FULL or SHORT (R33, R34);
a changed grant asks for a lane fade (R40). The gates since a slip and the slips in gate are settled, and SLIP cleared at 50 (R31).
The watches on the lane judge its five figures (R151). That a gate of another class than the settled one is graded by the tolerance
alone is log 55's choice. It is stated with no lane waiting for budget, as every state keeps it (R36). -/
def Obligations.GateOfARunningLaneSteersItsConverter : Prop :=
  ∀ (s : State) (l : LaneId), s.powered = true → (s.lane l).gauge.mode = .timed → 4800 ≤ (s.lane l).gauge.elapsed →
    (s.lane l).state = .running → s.front.admission = [] →
    let x := s.lane l
    let k := x.conv
    let c := x.gauge.count.toNat
    let nominal : Option Nat := if x.settled = .unknown then (classOf c).nominal else x.settled.nominal
    let grade : Grade :=
      if 0 < x.framing then .dead
      else match nominal with
        | none => .weak
        | some n => if (x.settings.tolerance : Int) < |(c : Int) - n| then .weak else .good
    let dead := if grade = .dead then min 3 (x.deadRun + 1) else 0
    0 < c → ¬(grade = .dead ∧ dead = 3) →
    let history := (x.gauge.count :: x.gauge.history).take 4
    let channels := (List.finRange 8).countP fun i => x.active.getLsbD i.val
    let measured : Int := ⌊((c : ℚ) * 2 ^ 24 / 4800) + 1 / 2⌋
    let error : ℚ := measured - k.ratio
    let moved : Int := match k.tracking with
      | .acquire => k.ratio + ⌊error / 2 + 1 / 2⌋
      | .track => k.ratio + ⌊error / 16 + 1 / 2⌋ + ((k.fifo.length : Int) - 128) * 64
    let acquisition := if k.tracking = .acquire then k.acquisition + 1 else k.acquisition
    let tracking : Tracking := if k.tracking = .acquire ∧ acquisition < 8 then .acquire else .track
    let exits : Prop := k.granted = .bypass ∧ k.forced = false ∧ (c < 4799 ∨ 4801 < c)
    let eligible : Prop := x.settled = .k48 ∧ x.settings.bypassAllowed = true ∧ tracking = .track
      ∧ history = [4800, 4800, 4800, 4800] ∧ 120 ≤ k.fifo.length ∧ k.fifo.length ≤ 136
    let since := if k.slipsInGate = 0 then min 50 (k.gatesSinceSlip + 1) else 0
    let values : Measure → Option Int := fun
      | .deviation => x.settled.nominal.map fun n => (c : Int) - n
      | .slips => some k.slipsInGate
      | .framing => some x.framing
      | .fill => some k.fifo.length
      | .grade => some (match grade with | .dead => 2 | .weak => 1 | _ => 0)
      | _ => none
    let seen : Panel := Panel.observe (.lane l) values { now := s.refu.clock, wch := s.wch, lnk := s.lnk }
    let v := if since = 50 then seen.clear (.slip l) else seen
    ∃ front : Front, exec (.gateExpiry l) s = .next { s with front := front, wch := v.wch, lnk := v.lnk }.transmit
      ∧ front.admission = []
      ∧ (let y := front.lanes[l]
         y = { x with
          gauge := { x.gauge with count := 0, history := history, elapsed := 0 },
          lastFraming := x.framing, lastInvalid := x.invalid, lastActivity := x.activity, framing := 0, invalid := 0,
          activity := false, grade := grade, deadRun := dead, gateInSense := false, validAll := BitVec.allOnes 8,
          conv := { k with
            ratio := (max 1 (min moved (2 ^ 26 - 1))).toNat, acquisition := acquisition, tracking := tracking,
            granted := y.conv.granted, forced := y.conv.forced, fade := y.conv.fade, fadePos := y.conv.fadePos,
            gatesSinceSlip := since, slipsInGate := 0 } }
        ∧ (exits → y.conv.granted =
            if x.settings.preference = .full ∧ 64 * channels ≤ s.front.freeTaps then .full else .short)
        ∧ (eligible → k.granted = .full ∨ k.granted = .short → y.conv.granted = .bypass)
        ∧ (¬exits → ¬(eligible ∧ (k.granted = .full ∨ k.granted = .short)) → y.conv.granted = k.granted)
        ∧ (eligible → k.granted = .bypass → y.conv.forced = false)
        ∧ (¬(eligible ∧ k.granted = .bypass) → y.conv.forced = k.forced)
        ∧ (y.conv.granted ≠ k.granted → k.fade = .none → y.conv.fade = .fadeOut ∧ y.conv.fadePos = 480)
        ∧ (y.conv.granted = k.granted ∨ k.fade ≠ .none → y.conv.fade = k.fade ∧ y.conv.fadePos = k.fadePos)
        ∧ (y.conv.granted = k.granted → ∀ m, m ≠ l → front.lanes[m] = s.lane m))
      ∧ ∀ m, m ≠ l → (front.lanes[m]).state = (s.lane m).state ∧ (front.lanes[m]).settings = (s.lane m).settings
          ∧ (front.lanes[m]).gauge = (s.lane m).gauge ∧ (front.lanes[m]).conv.fifo = (s.lane m).conv.fifo

/-- The second of two clean SENSE gates of one class, with a slot valid throughout both, settles the lane; its ask is granted FULL
when that is preferred and 64 taps a channel are free, else SHORT, so the lane is RUNNING at once, its converter set up with the
ratio round-half-up(c × 2^24 / 4800), 128 silent frames and an admission fade (R9, R12, R27, R36). -/
def Obligations.SettlingPairAdmitsTheLane : Prop :=
  ∀ (s : State) (l : LaneId) (prev : SenseGate), s.powered = true → (s.lane l).gauge.mode = .timed →
    4800 ≤ (s.lane l).gauge.elapsed → (s.lane l).state = .sense → (s.lane l).gateInSense = true → (s.lane l).framing = 0 →
    (s.lane l).prevSense = some prev → prev.clean = true → prev.cls = classOf (s.lane l).gauge.count.toNat →
    classOf (s.lane l).gauge.count.toNat ≠ .unknown → prev.valid &&& (s.lane l).validAll ≠ 0 →
    let c := (s.lane l).gauge.count.toNat
    let channels := (List.finRange 8).countP fun k => (prev.valid &&& (s.lane l).validAll).getLsbD k.val
    ∃ t, exec (.gateExpiry l) s = .next t ∧ (t.lane l).state = .running ∧ (t.lane l).settled = classOf c
      ∧ (t.lane l).active = prev.valid &&& (s.lane l).validAll
      ∧ ((s.lane l).settings.preference = .full → 64 * channels ≤ s.front.freeTaps → (t.lane l).conv.granted = .full)
      ∧ ((s.lane l).settings.preference = .short ∨ s.front.freeTaps < 64 * channels → (t.lane l).conv.granted = .short)
      ∧ (t.lane l).conv.effective = .none ∧ (t.lane l).conv.forced = false ∧ (t.lane l).conv.tracking = .acquire
      ∧ ((t.lane l).conv.ratio : Int) = ⌊((c : ℚ) * 2 ^ 24 / 4800) + 1 / 2⌋
      ∧ (t.lane l).conv.fifo = List.replicate 128 (List.replicate 8 0)
      ∧ (t.lane l).conv.fade = .fadeOut ∧ (t.lane l).conv.fadePos = 480 ∧ (t.lane l).latency = (s.lane l).latency
      ∧ t.wch.isRaised (.laneLost l) = false
      ∧ t.refu = s.refu ∧ t.progs = s.progs ∧ t.dmc = s.dmc ∧ t.pfu = s.pfu ∧ t.out = s.out

/-! ## Lane fades (R30, R39, R40, R89) -/

/-- The faded point of a lane fade: the effective mode becomes the granted mode and the lane latency that mode's; the tap of every
member on the lane, in every RUNNING or RELEASING programme, moves by the old latency minus the new; a wanted slip brings the FIFO to
128 frames and is counted, with SLIP raised, or left raised as it stands and then the gates since a slip set to 0; and FADE_IN begins
at 0 (R30, R31, R39, R89). That the faded point is a command of its own, after its boundary, is log 18's choice. -/
def Obligations.LaneFadedPointAppliesTheGrant : Prop :=
  ∀ (s : State) (l : LaneId), s.powered = true → (s.lane l).state = .running → (s.lane l).conv.fade = .fadeOut →
    (s.lane l).conv.fadePos = 0 →
    let x := s.lane l
    let latency := if x.conv.granted = x.conv.effective then x.latency else
      match x.conv.granted with | .short => 24 | .bypass => 4 | _ => 48
    let moved (q : Prog) : Prog :=
      if q.state = .running ∨ q.state = .releasing then
        { q with members := q.members.map fun m =>
            if m.spec.lane = l then { m with tap := m.tap + 64 * ((x.latency : Int) - latency) } else m }
      else q
    (x.conv.slipWanted = false →
      exec (.laneFadeFadedPoint l) s = .next ({ s.setLane l { x with
        latency := latency, conv := { x.conv with effective := x.conv.granted, fade := .fadeIn, fadePos := 0 } } with
          progs := s.progs.map moved }).transmit)
    ∧ (x.conv.slipWanted = true → ∃ t, exec (.laneFadeFadedPoint l) s = .next t
      ∧ (t.lane l).conv.fifo.length = 128 ∧ (128 ≤ x.conv.fifo.length → (t.lane l).conv.fifo = x.conv.fifo.drop (x.conv.fifo.length - 128))
      ∧ (∀ f rest, x.conv.fifo = f :: rest → x.conv.fifo.length < 128 →
          (t.lane l).conv.fifo = List.replicate (128 - x.conv.fifo.length) f ++ x.conv.fifo)
      ∧ (t.lane l).conv.slipWanted = false ∧ (t.lane l).conv.slipCount = min 65535 (x.conv.slipCount + 1)
      ∧ (t.lane l).conv.slipsInGate = min 65535 (x.conv.slipsInGate + 1) ∧ (t.lane l).conv.tracking = .acquire
      ∧ (t.lane l).conv.gatesSinceSlip = (if s.wch.isRaised (.slip l) = true then 0 else x.conv.gatesSinceSlip)
      ∧ (t.lane l).conv.acquisition = 0 ∧ t.wch.isRaised (.slip l) = true
      ∧ (t.lane l).conv.effective = x.conv.granted ∧ (t.lane l).conv.fade = .fadeIn ∧ (t.lane l).conv.fadePos = 0
      ∧ (t.lane l).conv.phase = x.conv.phase ∧ (t.lane l).conv.ratio = x.conv.ratio ∧ (t.lane l).latency = latency
      ∧ t.progs = s.progs.map moved ∧ t.refu = s.refu ∧ t.dmc = s.dmc ∧ t.pfu = s.pfu ∧ t.out = s.out
      ∧ ∀ m, m ≠ l → t.lane m = s.lane m)

/-- Completions that only end what they complete (R40, R92, R96, R101, R140): a lane fade at position 480 ends, and a grant or slip
that waits begins a new one; a glide at its target leaves the programme STEADY with a DONE notice of kind GLIDE; FILLING at 0 becomes
FADE_IN at 0; a gain ramp at position 480 leaves the factor at its end. Each is a command of its own (log 3); the DONE notice gives the
delay reached in frames (log 49). -/
def Obligations.CompletionsEndWhatTheyComplete : Prop :=
  (∀ (s : State) (l : LaneId), s.powered = true → (s.lane l).state = .running → (s.lane l).conv.fade = .fadeIn →
    480 ≤ (s.lane l).conv.fadePos →
    let c := (s.lane l).conv
    (c.granted = c.effective ∧ c.slipWanted = false →
      exec (.laneFadeComplete l) s = .next (s.setLane l { s.lane l with conv := { c with fade := .none, fadePos := 0 } }).transmit)
    ∧ (c.granted ≠ c.effective ∨ c.slipWanted = true →
      exec (.laneFadeComplete l) s = .next
        (s.setLane l { s.lane l with conv := { c with fade := .fadeOut, fadePos := 480 } }).transmit))
  ∧ (∀ (s : State) (p : ProgId), s.powered = true → (s.prog p).state = .running → (s.prog p).delay.change = .gliding →
    (s.prog p).delay.current = 64 * (s.prog p).delay.funded →
    let r := (s.prog p).delay
    let v : Panel := Panel.offer (.doneDelay p (r.current / 64) r.requested r.funded (r.requested - r.funded) .glide s.refu.clock)
      { now := s.refu.clock, wch := s.wch, lnk := s.lnk }
    exec (.glideComplete p) s = .next
      { s.setProg p { s.prog p with delay := { r with change := .steady } } with wch := v.wch, lnk := v.lnk }.transmit)
  ∧ (∀ (s : State) (p : ProgId), s.powered = true → (s.prog p).state = .running → (s.prog p).delay.change = .filling →
    (s.prog p).delay.fill = 0 →
    exec (.fillingEnd p) s = .next
      (s.setProg p { s.prog p with delay := { (s.prog p).delay with change := .fadeIn, fadePos := 0 } }).transmit)
  ∧ (∀ (s : State) (p : ProgId), s.powered = true → (s.prog p).gain.ramping = true → 480 ≤ (s.prog p).gain.rampPos →
    exec (.gainRampComplete p) s = .next
      (s.setProg p { s.prog p with gain := { (s.prog p).gain with factor := (s.prog p).gain.rampEnd, ramping := false } }).transmit)

/-! ## The reference unit and the output frame boundary (R15, R16, R21 to R25, R28, R54, R65, R92, R93, R100, R105) -/

/-- The changes of reference state (R22 to R25): FREE to LOCKED and HOLDOVER to RELOCK at a presence count of 4800; LOCKED or RELOCK
to HOLDOVER at a silence count of 48, the unlock latch set; RELOCK to LOCKED at a strobe whose phase error is below 1/64 frame (its
operand is log 26's). Each offers a REF notice with the new state, the state left and the latch, the watches on the reference then
judge the new state's code, and REF_LOST is raised on HOLDOVER from LOCKED and cleared on LOCKED from RELOCK. That the three stand in
this order is log 50's choice. A strobe counts for the frame in progress. -/
def Obligations.ReferenceStateChanges : Prop :=
  ∀ (s : State), s.powered = true →
    let code (r : RefState) : Int := match r with | .free => 0 | .locked => 1 | .holdover => 2 | .relock => 3
    let changed (new : RefState) (latch : Bool) : Panel :=
      ((({ now := s.refu.clock, wch := s.wch, lnk := s.lnk } : Panel).offer (.ref new s.refu.state latch s.refu.clock)).observe .reference
        (fun | .refState => some (code new) | _ => none))
    let after (new : RefState) (latch strobe : Bool) (v : Panel) : State :=
      { s with refu := { s.refu with state := new, latch := latch, strobeSeen := strobe }, wch := v.wch, lnk := v.lnk }.transmit
    (s.refu.state = .free → 4800 ≤ s.refu.presence →
      exec .presenceCountReached s = .next (after .locked s.refu.latch s.refu.strobeSeen (changed .locked s.refu.latch)))
    ∧ (s.refu.state = .holdover → 4800 ≤ s.refu.presence →
      exec .presenceCountReached s = .next (after .relock s.refu.latch s.refu.strobeSeen (changed .relock s.refu.latch)))
    ∧ (s.refu.state = .locked → 48 ≤ s.refu.silence →
      exec .silenceCountReached s = .next (after .holdover true s.refu.strobeSeen ((changed .holdover true).raise .refLost)))
    ∧ (s.refu.state = .relock → 48 ≤ s.refu.silence →
      exec .silenceCountReached s = .next (after .holdover true s.refu.strobeSeen (changed .holdover true)))
    ∧ (s.refu.state = .relock →
      exec (.refStrobe 0) s = .next (after .locked s.refu.latch true ((changed .locked s.refu.latch).clear .refLost)))
    ∧ (∀ phase : Int, s.refu.state ≠ .relock ∨ 1 ≤ phase.natAbs →
      exec (.refStrobe phase) s = .next ({ s with refu := { s.refu with strobeSeen := true } }).transmit)

/-- An output frame boundary with nothing outstanding (R4, R15, R16, R21, R22, R197, R189): the frame clock advances by 1 modulo 2^48
and the silence and presence counts follow the strobe; every timed gate grows one frame older, and the lanes' states, settings and
figures are untouched; the outputs carry each placed member's output sample, valid and of even parity, while its programme is RUNNING
or RELEASING, and zero words elsewhere, and the monitor pair the first two members of the monitored programme, or its only one twice,
as the programmes and the monitor decision stood before the boundary (R168); all of it silent while the load is in progress. What is
outstanding is log 3's reading, and that pages are given up after the outputs have gone out is log 19's choice. -/
def Obligations.FrameBoundaryAdvancesTheClockAndDrivesTheOutputs : Prop :=
  ∀ s : State, s.powered = true → s.NothingOutstanding → ∃ t, exec .outputFrameBoundary s = .next t
    ∧ (let silence := if s.refu.strobeSeen then 0 else min 48 (s.refu.silence + 1)
       t.refu = { s.refu with
         clock := (s.refu.clock + 1) % 2 ^ 48, silence := silence, strobeSeen := false,
         presence := if silence ≤ 1 then min 4800 (s.refu.presence + 1) else 0 })
    ∧ (∀ l : LaneId, t.lane l = { s.lane l with
        conv := (t.lane l).conv
        gauge := if (s.lane l).gauge.mode = .timed then { (s.lane l).gauge with elapsed := (s.lane l).gauge.elapsed + 1 }
          else (s.lane l).gauge })
    ∧ t.pfu = s.pfu ∧ t.pending = s.pending ∧ t.powered = true
    ∧ t.out.slots.length = 64 ∧ t.out.monitor.length = 2
    ∧ (s.pfu.outcome = .loading → ∀ w ∈ t.out.slots ++ t.out.monitor, w = 0)
    ∧ (s.pfu.outcome ≠ .loading →
      (∀ (l : LaneId) (k : SlotId) (w : SlotWord), t.out.slots[8 * l.val + k.val]? = some w →
        ((∀ (p : ProgId), ∀ m ∈ (t.prog p).members, m.spec.placement ≠ some (l, k)) → w = 0)
        ∧ ∀ (p : ProgId), ∀ m ∈ (t.prog p).members, m.spec.placement = some (l, k) →
            (∀ (q : ProgId), ∀ n ∈ (t.prog q).members, n.spec.placement = some (l, k) → q = p ∧ n = m) →
            ((s.prog p).state = .running ∨ (s.prog p).state = .releasing → SlotWord.Carries w m.out)
            ∧ ((s.prog p).state ≠ .running → (s.prog p).state ≠ .releasing → w = 0))
      ∧ (s.wch.monitored = none → t.out.monitor = [0, 0])
      ∧ ∀ p : ProgId, s.wch.monitored = some p →
        ((s.prog p).state ≠ .running → (s.prog p).state ≠ .releasing → t.out.monitor = [0, 0])
        ∧ ∀ first rest, (s.prog p).state = .running ∨ (s.prog p).state = .releasing → (t.prog p).members = first :: rest →
          ∃ a b : SlotWord, t.out.monitor = [a, b] ∧ SlotWord.Carries a first.out ∧ SlotWord.Carries b (rest.headD first).out)

/-- What the boundary does to the converters (R28, R30, R34, R39, R40). A RUNNING lane's fade moves by one position; its FIFO gives up
1 frame in BYPASS, and in FULL and SHORT as many as the read phase passes when the ratio is added (by the granted mode while there is
no effective one); one frame is produced, in BYPASS the frame removed; what was produced as many boundaries ago as the effective
mode's latency goes out, just after a mode changed too, from the last 49 kept (log 11's choice), times position/480 to within one unit
(which unit is log 12's), silence with no effective mode. A fill outside 16 to 240 wants a slip; a fill outside 96 to 160 makes a lane
in BYPASS by choice leave it, which can take FULL from another to SHORT (R36); either asks for a lane fade. A lane that does not run
only grows its gate. -/
def Obligations.FrameBoundaryAdvancesTheConverters : Prop :=
  ∀ s : State, s.powered = true → s.NothingOutstanding → ∃ t, exec .outputFrameBoundary s = .next t
    ∧ ∀ l : LaneId, ((s.lane l).state ≠ .running → (t.lane l).conv = (s.lane l).conv)
      ∧ ((s.lane l).state = .running →
        let c := (s.lane l).conv
        let d := (t.lane l).conv
        let pos := match c.fade with | .none => c.fadePos | .fadeOut => c.fadePos - 1 | .fadeIn => min 480 (c.fadePos + 1)
        let mode := if c.effective = .none then c.granted else c.effective
        let removed := match mode with | .none => 0 | .bypass => 1 | _ => (c.phase + c.ratio) / 2 ^ 24
        let fill := d.fifo.length
        let wanted : Prop := c.slipWanted = false ∧ (fill < 16 ∨ 240 < fill)
        let leaves : Prop := c.granted = .bypass ∧ c.forced = false ∧ (fill < 96 ∨ 160 < fill)
        let raw : Frame := match c.effective with
          | .none => List.replicate 8 0
          | .full => d.produced.getD 48 (List.replicate 8 0)
          | .short => d.produced.getD 24 (List.replicate 8 0)
          | .bypass => d.produced.getD 4 (List.replicate 8 0)
        d.fifo = c.fifo.drop removed
        ∧ d.phase = (if mode = .full ∨ mode = .short then (c.phase + c.ratio) % 2 ^ 24 else c.phase)
        ∧ (mode = .none → d.produced = c.produced)
        ∧ (mode = .bypass → d.produced = (c.fifo.headD (c.past.headD (List.replicate 8 0)) :: c.produced).take 49)
        ∧ (mode = .full ∨ mode = .short → ∃ frame : Frame, frame.length = 8 ∧ d.produced = (frame :: c.produced).take 49)
        ∧ d = { c with
            fifo := d.fifo, phase := d.phase, produced := d.produced, past := d.past, output := d.output, slipWanted := d.slipWanted,
            granted := d.granted, fade := d.fade, fadePos := d.fadePos }
        ∧ (wanted → d.slipWanted = true) ∧ (¬wanted → d.slipWanted = c.slipWanted)
        ∧ (leaves → d.granted = .full ∨ d.granted = .short)
        ∧ (¬leaves → d.granted = c.granted ∨ (c.granted = .full ∧ d.granted = .short))
        ∧ (c.fade ≠ .none → d.fade = c.fade ∧ d.fadePos = pos)
        ∧ (c.fade = .none → wanted ∨ d.granted ≠ c.granted → d.fade = .fadeOut ∧ d.fadePos = 480)
        ∧ (c.fade = .none → ¬wanted → d.granted = c.granted → d.fade = .none ∧ d.fadePos = pos)
        ∧ (c.fade = .none → d.output = raw)
        ∧ (c.fade ≠ .none → List.Forall₂ (fun x y : Int => |480 * y - x * pos| < 480) raw d.output))

/-- What the boundary does to the programmes, with nothing outstanding (R54, R55, R61, R65, R89, R92, R95 to R97, R102, R104, R105). Each
RUNNING or RELEASING one's input stamp rises by 1; a glide moves the delay, and every tap with it, by 1/64 frame toward its target; fades,
fill and release move by one; each member's bus sample (its lane's converter output while the lane runs and the slot is active, else
zero) is written at its ring's write point, which moves on; and while RUNNING each weighted sample adds its square to the energy sum, the
pair's product to the cross sum, and the frame count rises. The others are untouched, and so are the free list, the wait list and the
alarms. Then, as `State.glidesGiveUp` says, each glide that fell gives up the pages its holding delay no longer needs (R70, R91), and the
page wait list is served: the rings are trimmed in member order, the pages trimmed joining the free list, which is all that a trim does
there; what a trim keeps is stated of the rings, and what the service does of the list. Where no page is given up nothing follows. A
weighted sample is the sum of the samples since the filter state was zeroed, each times the response of its age, rounded to 2^-30, ties
away from zero; it stays below 4, and of that response what R104 states holds (log 10). Programmes are taken in ascending number, and
pages are given up after all of them (log 19). -/
def Obligations.FrameBoundaryAdvancesTheProgrammes : Prop :=
  (∀ s : State, s.powered = true → s.NothingOutstanding → ∃ u : State, exec .outputFrameBoundary s = .next u.glidesGiveUp.transmit
    ∧ (s.NoPageGivenUp → u.glidesGiveUp = u) ∧ u.wch = s.wch ∧ u.lnk = s.lnk
    ∧ (let bus (m : Member) : Int :=
        let y := u.lane m.spec.lane
        if y.state = .running ∧ y.active.getLsbD m.spec.slot.val = true then y.conv.output.getD m.spec.slot.val 0 else 0
      let heard := (List.finRange 16).flatMap fun p =>
        if (s.prog p).state = .running ∨ (s.prog p).state = .releasing then (s.prog p).members else []
      u.dmc = { s.dmc with dram := heard.foldl (fun dram m => match m.ring with
          | none => dram
          | some r => writeSample dram r.writePage r.writeOffset (bus m)) s.dmc.dram }
      ∧ ∀ p : ProgId, let x := s.prog p
        ((x.state ≠ .running → x.state ≠ .releasing → u.prog p = x)
        ∧ (x.state = .running ∨ x.state = .releasing →
          let r := x.delay
          let target := 64 * r.funded
          let current :=
            if x.state = .running ∧ r.change = .gliding then
              if r.current < target then r.current + 1 else if target < r.current then r.current - 1 else r.current
            else r.current
          let delay : DelayRec :=
            if x.state = .releasing then { r with current := current, releasePos := r.releasePos - 1 }
            else match r.change with
              | .steady => { r with current := current }
              | .gliding => { r with current := current }
              | .fadeOut => { r with current := current, fadePos := r.fadePos - 1 }
              | .filling => { r with current := current, fill := r.fill - 1 }
              | .fadeIn => { r with current := current, fadePos := min 480 (r.fadePos + 1) }
          let history (m : Member) : List Int :=
            if x.state = .running then (if bus m = 0 ∧ m.history = [] then [] else bus m :: m.history) else m.history
          let weighted (m : Member) : Int := weightedSample (history m)
          let cross : Int := match firstOfRole .l x.members, firstOfRole .r x.members with
            | some a, some b => weighted a * weighted b
            | _, _ => 0
          (∃ outs : List Int, outs.length = x.members.length ∧ (u.prog p).members = List.zipWith (fun m out => { m with
              tap := m.tap + ((current : Int) - r.current), ring := m.ring.map Ring.advance, out := out, history := history m,
              energy := if x.state = .running then m.energy + (weighted m).natAbs ^ 2 else m.energy }) x.members outs)
          ∧ u.prog p = { x with
              members := (u.prog p).members, inputStamp := (x.inputStamp + 1) % 2 ^ 48, delay := delay, gain := (u.prog p).gain
              meter := if x.state = .running then
                  { x.meter with frameCount := x.meter.frameCount + 1, cross := x.meter.cross + cross }
                else x.meter }))))
  ∧ (∀ (v : ProgSide) (p : ProgId) (pages k : Nat), let x := v.prog p
    let w := v.resize p k
    (∀ m ∈ x.members, ∃ ring, m.ring = some ring ∧ ring.rest.length + 1 = pages) → k < pages →
    w.dmc.free = v.dmc.free ++ x.members.flatMap (fun m => match m.ring with | none => [] | some r => r.rest.take (pages - k))
    ∧ w.prog p = { x with members := x.members.map fun m => { m with
        ring := m.ring.map fun r => { r with rest := r.rest.drop (pages - k) } } }
    ∧ w.dmc = x.members.foldl (fun d m => match m.ring with | none => d | some r => (d.trim (pages - k) r).1) v.dmc
    ∧ (∀ q, q ≠ p → w.prog q = v.prog q) ∧ w.dmc.wait = v.dmc.wait ∧ w.panel = v.panel ∧ w.latencies = v.latencies)
  ∧ Config.WeightingLaw Config.weightTap
  ∧ ∀ history : List Int, (∀ x ∈ history, -(2 ^ 23) ≤ x ∧ x < 2 ^ 23) →
    let exact : ℚ := 2 ^ 7 * (history.zipIdx.map fun e => Config.weightTap e.2 * e.1).sum
    |(weightedSample history : ℚ) - exact| ≤ 1 / 2 ∧ (|(weightedSample history : ℚ) - exact| = 1 / 2 → |exact| < |weightedSample history|)
      ∧ |weightedSample history| < 2 ^ 32

/-- The delay output of a boundary, with nothing outstanding and every page whole, before falling glides give up pages (R55, R66, R90,
R93, R100, R102, R137, R140, R142, R143). The cues at or before the output stamp fall due, the ramp moves by one position, each member
is read at its tap, between two frames when the tap has a fraction, multiplied by the factor in force, rounded and saturated, the
saturated ones counted as clips, and multiplied by the fade's position over 480. At a jump's faded point the stamp and the taps are
those of the funded target, and at a lane's the taps those of the new latency (log 18). The stamp that the cues are judged against is
the input stamp after its rise at this boundary less the delay (log 17). That a sound is heard as soon as the tap reaches it, also
while the stamp is negative, is log 52's choice. Every rounding is to the nearest unit, ties away from zero. The pages that falling
glides then give up, and the service of the wait list that they bring, change neither the samples sent nor the gain (R91, log 19). -/
def Obligations.DelayOutputReadsGainsAndFades : Prop :=
  (∀ s : State, s.powered = true → s.NothingOutstanding → s.PagesConserved →
    ∃ u t : State, exec .outputFrameBoundary s = .next t ∧ t = u.glidesGiveUp.transmit ∧ (s.NoPageGivenUp → u.glidesGiveUp = u)
    ∧ ∀ p : ProgId, (s.prog p).state = .running ∨ (s.prog p).state = .releasing →
      let y := u.prog p
      let r := y.delay
      let faded : Prop := y.state = .running ∧ r.change = .fadeOut ∧ r.fadePos = 0
      let delay := if faded then 64 * r.funded else r.current
      let stamp : Int := (64 * (y.inputStamp : Int) - delay) / 64
      let g := (s.prog p).gain.takeDue stamp
      let h : GainRec :=
        if g.ramping = true ∧ g.rampPos < 480 then
          { g with rampPos := g.rampPos + 1, factor := rampFactor g.rampStart g.rampEnd (g.rampPos + 1) }
        else g
      let shift (l : LaneId) : Int :=
        let c := (u.lane l).conv
        if (u.lane l).state = .running ∧ c.fade = .fadeOut ∧ c.fadePos = 0 ∧ c.granted ≠ c.effective then
          ((u.lane l).latency : Int) - (match c.granted with | .short => 24 | .bypass => 4 | _ => 48)
        else 0
      let read (m : Member) : Int := match m.ring with
        | none => 0
        | some ring =>
          let tap := m.tap + ((delay : Int) - r.current) + 64 * shift m.spec.lane
          let at_ (n : Nat) : Int := ring.frameAt u.dmc.dram ((y.inputStamp : Int) - 1) n
          if tap % 64 = 0 then at_ (tap / 64).toNat
          else roundAway (at_ (tap / 64).toNat * (64 - tap % 64) + at_ ((tap / 64).toNat + 1) * (tap % 64)) 64
      let position : Nat :=
        if y.state = .releasing then min r.releasePos r.entryLevel
        else match r.change with
          | .steady => 480 | .gliding => 480 | .fadeOut => r.fadePos | .filling => 0 | .fadeIn => r.fadePos
      (∀ m ∈ y.members, m.out = roundAway (gained h.factor (read m) * position) 480)
      ∧ (t.prog p).gain = y.gain ∧ (t.prog p).members.map (fun m => (m.spec, m.out)) = y.members.map (fun m => (m.spec, m.out))
      ∧ y.gain = { h with clips := min 153600 (h.clips + clipped h.factor (y.members.map read)) })
  ∧ (∀ (factor : Nat) (x : Int), let y := roundAway (x * factor) (2 ^ 20)
      gained factor x = max (-(2 ^ 23)) (min y (2 ^ 23 - 1)) ∧ (clipped factor [x] = if y < -(2 ^ 23) ∨ 2 ^ 23 - 1 < y then 1 else 0)
      ∧ ∀ xs : List Int, clipped factor (x :: xs) = clipped factor [x] + clipped factor xs)
  ∧ ∀ (num : Int) (den : Nat), 0 < den → let exact : ℚ := (num : ℚ) / den
      |(roundAway num den : ℚ) - exact| ≤ 1 / 2
        ∧ (|(roundAway num den : ℚ) - exact| = 1 / 2 → |exact| < |(roundAway num den : ℚ)|)

/-! ## The delay memory (R61, R64 to R68) -/

/-- What a ring writes it reads back, until it comes round again (R61, R64 to R66): after a sample is written at the write point, which
then moves on, distance 0 reads that sample, and every distance below the reach reads one further back what it read before; and a
frame whose stamp is negative or before the history start reads as zero. A splice lengthens a ring and a trim shortens it, and every
frame still within reach reads at the distance at which it read before; what a splice brings newly within reach reads as zero. The
spliced pages are the free list's first, in order, next to the write page; the trimmed pages are those after the write page, appended
to the free list in that order (R63, R67, R68). -/
def Obligations.RingsReadBackThroughSplicesAndTrims : Prop :=
  (∀ (dram : Memory) (r : Ring) (newest : Int) (sample : Int), Memory.wf dram → r.chain.Nodup →
    -(2 ^ 23) ≤ sample → sample < 2 ^ 23 →
    (0 ≤ newest → r.historyStart ≤ newest →
      r.advance.frameAt (writeSample dram r.writePage r.writeOffset sample) newest 0 = sample)
    ∧ (∀ d : Nat, d + 1 < r.capacity →
        r.advance.frameAt (writeSample dram r.writePage r.writeOffset sample) newest (d + 1) = r.frameAt dram (newest - 1) d)
    ∧ (∀ d : Nat, newest - d < 0 ∨ newest - d < r.historyStart → r.frameAt dram newest d = 0))
  ∧ (∀ (d : Dmc) (r : Ring) (j : Nat) (newest : Int), Memory.wf d.dram → (r.chain ++ d.free).Nodup → 1 ≤ j → j ≤ d.free.length →
    let q := d.splice j newest r
    q.1.free = d.free.drop j ∧ q.2.chain = r.writePage :: (d.free.take j ++ r.rest) ∧ q.2.writeOffset = r.writeOffset
      ∧ q.1.wait = d.wait
      ∧ (∀ dist : Nat, dist < r.capacity → q.2.frameAt q.1.dram newest dist = r.frameAt d.dram newest dist)
      ∧ (∀ dist : Nat, r.capacity ≤ dist → q.2.frameAt q.1.dram newest dist = 0))
  ∧ (∀ (d : Dmc) (r : Ring) (j : Nat) (newest : Int), Memory.wf d.dram → r.chain.Nodup → 1 ≤ j → j ≤ r.rest.length →
    let q := d.trim j r
    q.1.free = d.free ++ r.rest.take j ∧ q.2.chain = r.writePage :: r.rest.drop j ∧ q.2.writeOffset = r.writeOffset
      ∧ q.2.historyStart = r.historyStart ∧ q.1.wait = d.wait
      ∧ (∀ dist : Nat, dist < q.2.capacity → q.2.frameAt q.1.dram newest dist = r.frameAt d.dram newest dist))

/-! ## Programmes (R47, R48, R50 to R52, R57, R74, R123, R146, R147) -/

/-- PROG_DEFINE for an UNDEFINED programme. The first member, in member order, that meets a condition of R47 makes it CONFLICT, with
that member's index, the kind of the first condition met in log 34's order, and the programme that holds the channel or the slot claimed;
and nothing changes. With none, the reply is OK with the new state, the members are stored as sent, every setting takes its default
(R48, R83, R122, R128), and the programme is funded at delay 48: with a page for each member free it is RUNNING, steady at 48 with gain
0 dB, each ring one page from the free list's head, and the watches on the pool judge the free pages left (R80, R151); otherwise it is
WAITING on the page wait list, with DELAY_DEFICIT raised (R47, R48, R50, R74, R84, R146). Other programmes, the lanes, the reference
and the profile unit are untouched. What DelayRec.fresh holds beside the values named is log 40's; the six kinds of conflict, and the
order in which one member's conditions are judged, are log 34's choice, R47 ordering the members only. -/
def Obligations.ProgDefineTakenOrConflict : Prop :=
  ∀ (s : State) (tag : Byte) (body : List Byte) (ms : List MemberBody) (p : ProgId), s.Takes 0x20 tag body →
    bodyProgDefine body = some (p.val, ms) → (s.prog p).state = .undefined →
    (∀ (i : Nat) (m : MemberBody), ms[i]? = some m →
      (∀ (j : Nat) (n : MemberBody), j < i → ms[j]? = some n → MemberFits s.progs (ms.take j) n) →
      let answers (kind : ConflictKind) (holder : Option ProgId) : Prop :=
        exec .progDefine s = .next (s.reply 0x20 tag .conflict (.conflict i kind holder))
      let outside : Prop := 8 ≤ m.lane ∨ 8 ≤ m.slot
      let outputOutside : Prop := ∃ o, m.placement = some o ∧ (8 ≤ o.1 ∨ 8 ≤ o.2)
      let holds (q : ProgId) : Prop := ∃ x ∈ (s.prog q).members, x.spec.lane.val = m.lane ∧ x.spec.slot.val = m.slot
      let again : Prop := ∃ e ∈ ms.take i, e.lane = m.lane ∧ e.slot = m.slot
      let feeds (q : ProgId) : Prop := ∃ x ∈ (s.prog q).members, ∃ o, x.spec.placement = some o ∧ m.placement = some (o.1.val, o.2.val)
      let outputAgain : Prop := ∃ e ∈ ms.take i, e.placement.isSome = true ∧ e.placement = m.placement
      (outside → answers .inputRange none)
      ∧ (¬outside → outputOutside → answers .outputRange none)
      ∧ (¬outside → ¬outputOutside →
          (∀ q, holds q → (∀ e, e < q → ¬holds e) → answers .inputTaken (some q))
          ∧ ((∀ q, ¬holds q) → again → answers .inputRepeated none)
          ∧ ((∀ q, ¬holds q) → ¬again → ∀ q, feeds q → (∀ e, e < q → ¬feeds e) → answers .outputTaken (some q))
          ∧ ((∀ q, ¬holds q) → ¬again → (∀ q, ¬feeds q) → outputAgain → answers .outputRepeated none)))
    ∧ ((∀ (i : Nat) (m : MemberBody), ms[i]? = some m → MemberFits s.progs (ms.take i) m) →
      ∃ u : State, let t := u.reply 0x20 tag .ok (.defined (u.prog p).state)
        let x := u.prog p
        exec .progDefine s = .next t ∧ List.Forall₂ MemberDef.Of (x.members.map (·.spec)) ms
        ∧ x.meter.window = 600 ∧ x.meter.relGate = 100 ∧ x.meter.minCount = 30 ∧ x.gain.paused = false
        ∧ x.gain.settings = { target := -230, gmax := 100, gmin := -200, upSlew := 1, downSlew := 5, band := 10, g0 := 0 }
        ∧ x.report.period = 0 ∧ x.report.selection = { li := false, rho := false, words := false, delays := false }
        ∧ (ms.length ≤ s.dmc.free.length → x.state = .running ∧ x.inputStamp = 0
            ∧ x.delay = { DelayRec.fresh with
                video := 0, trim := 0, method := .auto, glideLimit := 2400, requested := 48, pending := none, funded := 48,
                current := 64 * 48, change := .steady }
            ∧ x.gain.gcur = some 0 ∧ x.gain.applied = some 0 ∧ x.gain.factor = 2 ^ 20
            ∧ x.gain.moving = false ∧ x.gain.cues = [] ∧ x.gain.clips = 0
            ∧ x.meter.levels = [] ∧ x.meter.frameCount = 0
            ∧ (∀ m ∈ x.members, m.tap = 64 * (48 - ((s.lane m.spec.lane).latency : Int)) ∧ m.words = []
                ∧ ∃ page ∈ s.dmc.free.take ms.length,
                    m.ring = some { writePage := page, rest := [], writeOffset := 0, historyStart := 0 })
            ∧ t.dmc.free = s.dmc.free.drop ms.length ∧ t.dmc.wait = s.dmc.wait
            ∧ t.wch = (Panel.observe .pool (fun | .freePages => some ((s.dmc.free.length : Int) - ms.length) | _ => none)
                { now := s.refu.clock, wch := s.wch, lnk := s.lnk }).wch)
        ∧ (s.dmc.free.length < ms.length → p ∉ s.dmc.wait → x.state = .waiting ∧ x.inputStamp = 0
            ∧ (∀ m ∈ x.members, m.ring = none)
            ∧ x.delay = { DelayRec.fresh with
                video := 0, trim := 0, method := .auto, glideLimit := 2400, requested := 48, pending := none, change := .steady }
            ∧ t.dmc.free = s.dmc.free ∧ t.dmc.wait = s.dmc.wait ++ [p] ∧ t.wch.isRaised (.delayDeficit p) = true)
        ∧ (∀ q, q ≠ p → t.prog q = s.prog q) ∧ t.dmc.dram = s.dmc.dram
        ∧ t.front = s.front ∧ t.refu = s.refu ∧ t.pfu = s.pfu ∧ t.out = s.out)

/-- PROG_UNDEFINE on a WAITING programme discards it at once: it leaves the wait list, with DELAY_DEFICIT cleared, and every enabled
watch on it, and no other, stands restarted in QUIET, its alarm clear (R51, R60, R78, R158; in log 45's order). On a RUNNING one it
begins the release: the members stay, a change in flight ends with the delay at its whole part, every tap with it, and the release
fade starts at 480 from the fade factor in force; it leaves the wait list, and each ring keeps just the pages of that delay, those
trimmed going to the free list, oldest first and ring by ring, whereupon the pool is observed, after the alarm by log 50 (R51, R52,
R70, R78, R80, R102; who is raised or started by the service that a trim begins is not said here). That a cue which the output stamp
so reaches stays queued until the next boundary is log 57's choice. Each is answered OK. PROG_RESET on a RUNNING programme starts its
measurement and correction again: the meter's record is empty but for its settings, the gain is G0 with its factor, no cue queued and
no ramp running, and the report counter is 0; the delay, the pages, the stamp and the settings are untouched, and so is everything
else (R57, R123, R147, R185). -/
def Obligations.ProgUndefineAndProgReset : Prop :=
  (∀ (s : State) (tag : Byte) (p : ProgId), s.Takes 0x21 tag [BitVec.ofNat 8 p.val] →
    let v : Panel := { now := s.refu.clock, wch := s.wch, lnk := s.lnk }
    ((s.prog p).state = .waiting → p ∈ s.dmc.wait → ∃ u : State, let t := u.reply 0x21 tag .ok .empty
      exec .progUndefine s = .next t ∧ t.prog p = Prog.undefined
      ∧ t.dmc = { s.dmc with wait := s.dmc.wait.filter (fun q => q != p) } ∧ t.wch.isRaised (.delayDeficit p) = false
      ∧ (∀ q, q ≠ p → t.prog q = s.prog q)
      ∧ (∀ w : WatchId, let x := s.wch.watches[w]
          let watched : Prop := x.record.enable = true ∧ x.record.object = .programme p
          (watched → t.wch.isRaised (.watch w) = false ∧ t.wch.watches[w] = { x with
              state := .quiet, run := 0, entries := 0, quiet := 0, lastQualified := false, lastValue := none, lastStamp := none })
          ∧ (¬watched → t.wch.isRaised (.watch w) = s.wch.isRaised (.watch w) ∧ t.wch.watches[w] = x))
      ∧ (let restarted : Panel := (List.finRange 32).foldl
           (fun (v : Panel) (w : WatchId) =>
             let x := s.wch.watches[w]
             if x.record.enable = true ∧ x.record.object = .programme p then
               let c := v.clear (.watch w)
               { c with wch := { c.wch with watches := c.wch.watches.set w { x with
                   state := .quiet, run := 0, entries := 0, quiet := 0, lastQualified := false, lastValue := none,
                   lastStamp := none } } }
             else v) (v.clear (.delayDeficit p))
         u.wch = restarted.wch ∧ u.lnk = restarted.lnk)
      ∧ t.front = s.front ∧ t.refu = s.refu ∧ t.pfu = s.pfu ∧ t.out = s.out)
    ∧ ((s.prog p).state = .running → ∃ u : State, let t := u.reply 0x21 tag .ok .empty
      exec .progUndefine s = .next t ∧ (t.prog p).state = .releasing
      ∧ (let r := (s.prog p).delay
         let factor := match r.change with
           | .steady => 480 | .gliding => 480 | .fadeOut => r.fadePos | .filling => 0 | .fadeIn => r.fadePos
         (t.prog p).delay = { r with
           current := 64 * (r.current / 64), funded := r.current / 64, change := .steady, fadePos := 0, fill := 0, ahead := false,
           releasePos := 480, entryLevel := factor })
      ∧ (t.prog p).members.map (·.spec) = (s.prog p).members.map (·.spec)
      ∧ (∀ m ∈ (t.prog p).members, m.energy = 0) ∧ (t.prog p).meter.frameCount = 0
      ∧ (t.prog p).gain = (s.prog p).gain ∧ (t.prog p).inputStamp = (s.prog p).inputStamp
      ∧ (t.prog p).members.map (fun m => { m with ring := none }) = (s.prog p).members.map (fun m => { m with
          tap := m.tap + ((64 * ((s.prog p).delay.current / 64) : Int) - (s.prog p).delay.current), energy := 0, ring := none })
      ∧ p ∉ t.dmc.wait ∧ (p ∈ s.dmc.wait → t.wch.isRaised (.delayDeficit p) = false)
      ∧ (s.DelayMemoryLaws → let d := (s.prog p).delay.current / 64
          (∀ m ∈ (t.prog p).members, ∃ ring, m.ring = some ring ∧ ring.rest.length + 1 = d / 1024 + 1)
          ∧ ((∀ q ∈ s.dmc.wait, q = p) → t.dmc.wait = [] ∧ (∀ q, q ≠ p → t.prog q = s.prog q)
            ∧ t.dmc.free = s.dmc.free ++ (s.prog p).members.flatMap (fun m =>
                match m.ring with | none => [] | some r => r.rest.take (r.rest.length - d / 1024))
            ∧ (t.prog p).members.map (·.ring) = (s.prog p).members.map (fun m =>
                m.ring.map fun r => { r with rest := r.rest.drop (r.rest.length - d / 1024) })
            ∧ (let cleared := if p ∈ s.dmc.wait then v.clear (.delayDeficit p) else v
               let w := if t.dmc.free.length = s.dmc.free.length then cleared
                 else cleared.observe .pool (fun | .freePages => some (t.dmc.free.length : Int) | _ => none)
               u.wch = w.wch ∧ u.lnk = w.lnk)))
      ∧ t.front = s.front ∧ t.refu = s.refu ∧ t.pfu = s.pfu ∧ t.out = s.out))
  ∧ ∀ (s : State) (tag : Byte) (p : ProgId), s.Takes 0x23 tag [BitVec.ofNat 8 p.val] → (s.prog p).state = .running →
    let x := s.prog p
    let g := gainFactor x.gain.settings.g0
    exec .progReset s = .next ((s.setProg p { x with
      members := x.members.map fun m => { m with history := [], energy := 0, words := [] }
      meter := { window := x.meter.window, relGate := x.meter.relGate, minCount := x.meter.minCount, frameCount := 0, cross := 0,
                 subBlocks := 0, blockIndex := 0, ringed := 0, corr := [], levels := [], histogram := [], gate := none,
                 results := none }
      gain := { settings := x.gain.settings, paused := x.gain.paused, gcur := some x.gain.settings.g0, moving := false,
                desired := none, cues := [], applied := some x.gain.settings.g0, factor := g, rampStart := g, rampEnd := g,
                rampPos := 480, ramping := false, clips := 0 }
      report := { x.report with counter := 0 } }).reply 0x23 tag .ok .empty)

/-! ## Delays (R72 to R77, R85 to R88, R94 to R99, R101) -/

/-- VIDEO_LATENCY and DELAY_SET. V + trim clamped to 48 to 96,000 is the new requested delay. A WAITING programme stores it; one whose
jump is in flight holds it as the pending target; a STEADY or GLIDING one has it acted on as `ActedOn` says: funded in full or in
part, and a glide or a jump begun, gone on with, stopped, or none, a DONE notice offered at once when the delay is then the funded
target (R101; before the reply is formed, by log 5, its place among the notices by log 50, its delay in frames by log 49). Each reply
is OK or CLAMPED with every figure of R86, those of the acted on as the action leaves them. WAITING, STEADY and GLIDING ones are
stated without a pending target, as every state keeps them (R98). A DELAY_SET without a trim stores the method and the limit and moves
nothing (R72, R73, R77, R85 to R88, R94, R98). Such a DELAY_SET is OK unless its glide limit was clamped (log 47), and its reply's
figures are the latest request and the target that stands (log 48), and a cue that a stopped glide's output stamp reaches stays queued
until the next boundary (log 57): the model's choices. -/
def Obligations.DelayRequestsMoveTheRequestedDelay : Prop :=
  (∀ (s : State) (tag : Byte) (body : List Byte) (p : ProgId) (latency : Nat), s.Takes 0x31 tag body →
    bodyVideoLatency body = some (p.val, latency) →
    let x := s.prog p
    let video := min latency 96000
    let request := (max 48 (min 96000 ((video : Int) + x.delay.trim))).toNat
    let status : Status := if 96000 < latency ∨ (video : Int) + x.delay.trim < 48 ∨ 96000 < (video : Int) + x.delay.trim then .clamped
      else .ok
    (x.state = .waiting → s.RequestsBounded → exec .videoLatency s = .next
      ((s.setProg p { x with delay := { x.delay with video := video, requested := request } }).reply 0x31 tag status
        (.videoLatency { video := video, trim := x.delay.trim, requested := request, change := x.delay.change, funded := none,
                         pending := none })))
    ∧ (x.state = .running → x.delay.change = .fadeOut ∨ x.delay.change = .filling ∨ x.delay.change = .fadeIn →
      exec .videoLatency s = .next
        ((s.setProg p { x with delay := { x.delay with video := video, pending := some request } }).reply 0x31 tag status
          (.videoLatency { video := video, trim := x.delay.trim, requested := request, change := x.delay.change, funded := none,
                           pending := some request })))
    ∧ (x.state = .running → x.delay.change = .steady ∨ x.delay.change = .gliding → s.RequestsBounded → s.DelayMemoryLaws →
      ∃ u : State, ActedOn s { now := s.refu.clock, wch := s.wch, lnk := s.lnk } u p { x with delay := { x.delay with video := video } }
          request
        ∧ exec .videoLatency s = .next (u.reply 0x31 tag status (.videoLatency
            { video := video, trim := x.delay.trim, requested := request, change := (u.prog p).delay.change,
              funded := some (u.prog p).delay.funded, pending := none }))))
  ∧ ∀ (s : State) (tag : Byte) (body : List Byte) (b : DelaySetBody) (p : ProgId), s.Takes 0x30 tag body →
    bodyDelaySet body = some b → b.prog = p.val →
    let x := s.prog p
    let method := b.method.getD x.delay.method
    let limit := (b.glideLimit.map fun n => min n 4800).getD x.delay.glideLimit
    (b.trim = none → x.state = .waiting ∨ x.state = .running →
      exec .delaySet s = .next ((s.setProg p { x with delay := { x.delay with method := method, glideLimit := limit } }).reply
        0x30 tag (if ∃ n, b.glideLimit = some n ∧ 4800 < n then .clamped else .ok) (.delaySet
          { video := x.delay.video, trim := x.delay.trim, requested := x.delay.pending.getD x.delay.requested,
            change := x.delay.change, pending := x.delay.pending
            funded := if x.state = .running ∧ x.delay.pending = none then some x.delay.funded else none } method limit)))
    ∧ ∀ trim : Int, b.trim = some trim →
      let kept := max (-48000) (min 48000 trim)
      let sum := (x.delay.video : Int) + kept
      let request := (max 48 (min 96000 sum)).toNat
      let stored : DelayRec := { x.delay with method := method, glideLimit := limit, trim := kept }
      let status : Status := if trim ≠ kept ∨ (∃ n, b.glideLimit = some n ∧ 4800 < n) ∨ sum < 48 ∨ 96000 < sum then .clamped else .ok
      (x.state = .waiting → s.RequestsBounded →
        exec .delaySet s = .next ((s.setProg p { x with delay := { stored with requested := request } }).reply 0x30 tag status
          (.delaySet { video := x.delay.video, trim := kept, requested := request, change := x.delay.change, funded := none,
                       pending := none } method limit)))
      ∧ (x.state = .running → x.delay.change = .fadeOut ∨ x.delay.change = .filling ∨ x.delay.change = .fadeIn →
        exec .delaySet s = .next ((s.setProg p { x with delay := { stored with pending := some request } }).reply 0x30 tag status
          (.delaySet { video := x.delay.video, trim := kept, requested := request, change := x.delay.change, funded := none,
                       pending := some request } method limit)))
      ∧ (x.state = .running → x.delay.change = .steady ∨ x.delay.change = .gliding → s.RequestsBounded → s.DelayMemoryLaws →
        ∃ u : State, ActedOn s { now := s.refu.clock, wch := s.wch, lnk := s.lnk } u p { x with delay := stored } request
          ∧ exec .delaySet s = .next (u.reply 0x30 tag status (.delaySet
              { video := x.delay.video, trim := kept, requested := request, change := (u.prog p).delay.change,
                funded := some (u.prog p).delay.funded, pending := none } method limit)))

/-- The page wait list (R73 to R76, R79, R99). A service is one pass over it, oldest programme first, each judged against the free list
that those before left. A RUNNING programme of q pages a channel that could hold p > q, 94 at most, is raised to the smaller of its
requested delay and 1024p - 1, its rings spliced to that target's pages; STEADY it begins a change, GLIDING it goes on or is turned into
a jump, in FADE_OUT it goes on, FILLING it fills more, in FADE_IN the target is marked as ahead. Otherwise it is passed over. A WAITING
programme for which a page a channel is free starts STEADY at such a delay. One then at its request leaves the list, DELAY_DEFICIT
clear; one still below it keeps its place. A new programme not funded in full joins the list, started in part or WAITING. -/
def Obligations.PageServiceRaisesAndStartsOldestFirst : Prop :=
  (∀ v : ProgSide, v.serve = v.dmc.wait.foldl ProgSide.serveWaiter v)
  ∧ (∀ (v : ProgSide) (p : ProgId) (q d : Nat), let x := v.prog p
    let n := x.members.length
    let most := min 94 ((n * q + v.dmc.free.length) / n)
    let target := min x.delay.requested (most * 1024 - 1)
    let w := v.serveWaiter p
    x.state = .running → p ∈ v.dmc.wait → (∀ m ∈ x.members, ∃ r, m.ring = some r ∧ r.rest.length + 1 = q) → x.members ≠ [] →
    x.delay.current / 64 = d → d ≤ x.delay.funded → x.delay.funded < x.delay.requested → q = x.delay.funded / 1024 + 1 →
    (x.delay.change ≠ .gliding → x.delay.current = 64 * d) →
    (most ≤ q → w = v)
    ∧ (q < most →
      let r := (w.prog p).delay
      let near : Bool := match x.delay.method with
        | .glide => true
        | .jump => false
        | .auto => decide (|(64 * target : Int) - x.delay.current| ≤ 64 * x.delay.glideLimit)
      r.funded = target ∧ r.requested = x.delay.requested ∧ x.delay.funded < target
      ∧ (∀ m ∈ (w.prog p).members, ∃ ring, m.ring = some ring ∧ ring.rest.length + 1 = target / 1024 + 1)
      ∧ w.dmc.free = v.dmc.free.drop (n * (target / 1024 + 1 - q))
      ∧ (target = x.delay.requested → w.dmc.wait = v.dmc.wait.filter (fun e => !(e == p))
          ∧ w.panel.wch.isRaised (.delayDeficit p) = false)
      ∧ (target ≠ x.delay.requested → w.dmc.wait = v.dmc.wait ∧ w.panel.wch = v.panel.wch)
      ∧ (∀ e, e ≠ p → w.prog e = v.prog e)
      ∧ (near = true → x.delay.change = .steady ∨ x.delay.change = .gliding → r.change = .gliding ∧ r.current = x.delay.current)
      ∧ (near = false → x.delay.change = .steady ∨ x.delay.change = .gliding → r.change = .fadeOut ∧ r.fadePos = 480
          ∧ r.current = 64 * d)
      ∧ (x.delay.change = .fadeOut → r = { x.delay with funded := target })
      ∧ (x.delay.change = .filling → r = { x.delay with funded := target, current := 64 * target, fill := x.delay.fill + (target - d) }
          ∧ (w.prog p).members.map (fun m => (m.spec, m.tap))
              = x.members.map fun m => (m.spec, m.tap + 64 * ((target : Int) - d)))
      ∧ (x.delay.change = .fadeIn → r = { x.delay with funded := target, ahead := true })))
  ∧ (∀ (v : ProgSide) (p : ProgId), let x := v.prog p
    let n := x.members.length
    let most := min 94 (v.dmc.free.length / n)
    let target := min x.delay.requested (most * 1024 - 1)
    let w := v.serveWaiter p
    x.state = .waiting → p ∈ v.dmc.wait → x.members ≠ [] →
    (most = 0 → w = v)
    ∧ (1 ≤ most → (w.prog p).state = .running ∧ (w.prog p).inputStamp = 0
      ∧ (w.prog p).delay = { x.delay with funded := target, current := 64 * target, change := .steady, ahead := false }
      ∧ (w.prog p).members.map (fun m => (m.spec, m.tap))
          = x.members.map (fun m => (m.spec, 64 * ((target : Int) - (v.latencies[m.spec.lane] : Nat))))
      ∧ ((w.prog p).members.map fun m => (m.ring.map Ring.chain).getD []).flatten = v.dmc.free.take (n * (target / 1024 + 1))
      ∧ (∀ m ∈ (w.prog p).members, ∃ ring, m.ring = some ring ∧ ring.rest.length + 1 = target / 1024 + 1 ∧ ring.writeOffset = 0
          ∧ ring.historyStart = 0)
      ∧ w.dmc.free = v.dmc.free.drop (n * (target / 1024 + 1)) ∧ (w.prog p).gain.gcur = some x.gain.settings.g0
      ∧ (target = x.delay.requested → w.dmc.wait = v.dmc.wait.filter (fun e => !(e == p))
          ∧ w.panel.wch.isRaised (.delayDeficit p) = false)
      ∧ (target ≠ x.delay.requested → w.dmc.wait = v.dmc.wait ∧ w.panel.wch = v.panel.wch)
      ∧ ∀ e, e ≠ p → w.prog e = v.prog e))
  ∧ ∀ (v : ProgSide) (p : ProgId), let x := v.prog p
    let n := x.members.length
    let most := min 94 (v.dmc.free.length / n)
    let w := v.fundNew p
    x.members ≠ [] → p ∉ v.dmc.wait → v.dmc.free.length < n * (x.delay.requested / 1024 + 1) →
    w.dmc.wait = v.dmc.wait ++ [p] ∧ w.panel.wch.isRaised (.delayDeficit p) = true
    ∧ (most = 0 → (w.prog p).state = .waiting ∧ w.dmc.free = v.dmc.free ∧ (w.prog p).members = x.members)
    ∧ (1 ≤ most → (w.prog p).state = .running ∧ (w.prog p).delay.change = .steady ∧ w.dmc.free = v.dmc.free.drop (n * most)
      ∧ (w.prog p).delay.funded = min x.delay.requested (most * 1024 - 1)
      ∧ (w.prog p).delay.current = 64 * min x.delay.requested (most * 1024 - 1))

/-- A jump's faded point: the current delay becomes the funded target and every tap moves with it; an increase by Δ enters FILLING
with Δ frames remaining, a decrease enters FADE_IN at position 0 (R95); and the cue queue stands judged against the output stamp that
the new delay gives (R137, R138; the moment is log 18's). This is stated for a programme off the page wait list, which no raise can
reach at that moment. A jump completes at fade position 480: the programme is STEADY and a DONE notice of kind JUMP is offered, the
delay reached in frames (log 49). With nothing pending and no target ahead that is all; toward a target ahead a glide or a jump, as
R87 chooses, then begins, without a new funding; a pending target is emptied, and after the notice acted on as `ActedOn` says for a
STEADY programme (R72, R73, R80, R87, R97, R98, R101; the notices in log 50's order): an idle transmitter with nothing else to send
begins the notice at once (log 5), and a busy one leaves it in the queue, or under its key the notice of a request that finds the
delay already there. -/
def Obligations.JumpMovesTheDelayAndCompletes : Prop :=
  (∀ (s : State) (p : ProgId) (d : Nat), s.powered = true → (s.prog p).state = .running → (s.prog p).delay.change = .fadeOut →
    (s.prog p).delay.fadePos = 0 → (s.prog p).delay.current = 64 * d → p ∉ s.dmc.wait →
    let x := s.prog p
    ∃ t, exec (.jumpFadedPoint p) s = .next t
      ∧ (t.prog p).delay = { x.delay with
          current := 64 * x.delay.funded, change := if d < x.delay.funded then .filling else .fadeIn,
          fill := x.delay.funded - d, fadePos := 0 }
      ∧ (t.prog p).members.map (fun m => (m.spec, m.tap, m.out))
          = x.members.map (fun m => (m.spec, m.tap + 64 * ((x.delay.funded : Int) - d), m.out))
      ∧ (t.prog p).state = .running ∧ (t.prog p).inputStamp = x.inputStamp ∧ (t.prog p).meter = x.meter
      ∧ (t.prog p).gain = x.gain.takeDue ((x.inputStamp : Int) - x.delay.funded)
      ∧ t.front = s.front ∧ t.refu = s.refu ∧ t.pfu = s.pfu ∧ t.out = s.out)
  ∧ ∀ (s : State) (p : ProgId), s.powered = true → (s.prog p).state = .running → (s.prog p).delay.change = .fadeIn →
    480 ≤ (s.prog p).delay.fadePos →
    let r := (s.prog p).delay
    let jump : Notice := .doneDelay p (r.current / 64) r.requested r.funded (r.requested - r.funded) .jump s.refu.clock
    let completed : Panel := Panel.offer jump { now := s.refu.clock, wch := s.wch, lnk := s.lnk }
    (r.pending = none → r.ahead = false ∨ r.current = 64 * r.funded →
      exec (.fadeInComplete p) s = .next { s.setProg p { s.prog p with delay := { r with change := .steady, ahead := false } } with
        wch := completed.wch, lnk := completed.lnk }.transmit)
    ∧ (r.pending = none → r.ahead = true → r.current ≠ 64 * r.funded →
      let next : DelayRec := if r.GlidesTo r.funded then { r with change := .gliding, kind := .glide, ahead := false }
        else { r with change := .fadeOut, kind := .jump, fadePos := 480, ahead := false }
      exec (.fadeInComplete p) s =
        .next { s.setProg p { s.prog p with delay := next } with wch := completed.wch, lnk := completed.lnk }.transmit)
    ∧ (∀ request, r.pending = some request → s.DelayMemoryLaws → ∃ u : State, let t := u.transmit
      exec (.fadeInComplete p) s = .next t
      ∧ ActedOn s completed u p { s.prog p with delay := { r with change := .steady, pending := none, ahead := false } } request
      ∧ (t.prog p).delay.pending = none ∧ (t.prog p).delay.ahead = false
      ∧ (let q := (t.prog p).delay
         let last : Notice := if q.current = 64 * q.funded then
             .doneDelay p (q.current / 64) request q.funded (request - q.funded) .none s.refu.clock else jump
         (s.lnk.tx = none → s.lnk.restart ≠ .due → s.lnk.queueReply = none → s.lnk.busy = [] → s.lnk.notices = [] → 0 < s.lnk.credit →
           ∃ frame, t.lnk.tx = some (.notice jump frame))
         ∧ (s.lnk.tx.isSome = true → s.lnk.notices.length ≤ 16 → s.dmc.wait = [] → last ∈ t.lnk.notices)))

/-- The end of the release fade: the programme is UNDEFINED with nothing kept of it, its pages go to the free list, ring by ring in
member order, each from the page after its write page with the write page last; and every enabled watch on the programme stands
restarted in QUIET, its alarm clear (R52, R69, R158). It is stated with no programme on the wait list, so that no page is taken again
in the service. -/
def Obligations.ReleaseEndsWithThePagesGivenBack : Prop :=
  ∀ (s : State) (p : ProgId), s.powered = true → (s.prog p).state = .releasing → (s.prog p).delay.releasePos = 0 →
    s.dmc.wait = [] → ∃ t, exec (.releaseFadeComplete p) s = .next t
      ∧ (t.prog p).state = .undefined ∧ (t.prog p).members = [] ∧ (t.prog p).inputStamp = 0 ∧ (t.prog p).gain.cues = []
      ∧ (t.prog p).delay.pending = none ∧ (∀ q, q ≠ p → t.prog q = s.prog q)
      ∧ t.dmc = { s.dmc with free := s.dmc.free ++ (s.prog p).members.flatMap fun m =>
          match m.ring with | none => [] | some r => r.rest ++ [r.writePage] }
      ∧ (∀ w : WatchId, (s.wch.watches[w]).record.enable = true → (s.wch.watches[w]).record.object = .programme p →
          t.wch.isRaised (.watch w) = false ∧ t.wch.watches[w] = { (s.wch.watches[w]) with
            state := .quiet, run := 0, entries := 0, quiet := 0, lastQualified := false, lastValue := none, lastStamp := none })
      ∧ t.front = s.front ∧ t.refu = s.refu ∧ t.pfu = s.pfu ∧ t.out = s.out

/-! ## Loudness (R105 to R121, R126, R129, R130) -/

/-- LOUD_SET stores every loudness setting present, clamped to its range, and brings G0 within the limits; a RUNNING programme's
decided gain is clamped to new limits at once, and when that moves it a cue carrying it is offered at the input stamp (R135, R136 as
CuesJoinAndFallDue states them); the answer is CLAMPED when a value or G0 was, and reports every setting as stored, with the decided
gain and the movement state of a RUNNING programme (R126, R129, R130). Only the window's histogram may change beside them. -/
def Obligations.LoudSetStoresTheSettingsInRange : Prop :=
  ∀ (s : State) (tag : Byte) (body : List Byte) (b : LoudBody) (p : ProgId), s.Takes 0x40 tag body →
    bodyLoudSet body = some (p.val, b) → (s.prog p).state = .waiting ∨ (s.prog p).state = .running →
    (s.prog p).gain.settings.InRange →
    let x := s.prog p
    let within (v : Option Int) (lo hi was : Int) : Int := (v.map fun n => max lo (min n hi)).getD was
    let outside (v : Option Int) (lo hi : Int) : Prop := ∃ n, v = some n ∧ (n < lo ∨ hi < n)
    let old := x.gain.settings
    let gmax := within b.gmax 0 200 old.gmax
    let gmin := within b.gmin (-300) 0 old.gmin
    let g0 := max gmin (min (b.g0.getD old.g0) gmax)
    let gcur := if x.state = .running then x.gain.gcur.map fun g => max gmin (min g gmax) else x.gain.gcur
    let cues := if gcur = x.gain.gcur then x.gain.cues else ((gcur.map fun g => x.gain.offerCue x.inputStamp g).getD x.gain).cues
    let window := (within b.window 10 3000 x.meter.window).toNat
    let relGate := within b.relGate 40 200 x.meter.relGate
    let minCount := (within b.minCount 1 3000 x.meter.minCount).toNat
    let settings : GainSettings :=
      { target := within b.target (-400) (-100) old.target, gmax := gmax, gmin := gmin, upSlew := within b.upSlew 1 50 old.upSlew,
        downSlew := within b.downSlew 1 50 old.downSlew, band := within b.band 0 100 old.band, g0 := g0 }
    ∃ (histogram : Histogram) (status : Status), (b.window = none → histogram = x.meter.histogram)
      ∧ (status = .ok ∨ status = .clamped)
      ∧ (status = .clamped ↔ outside b.window 10 3000 ∨ outside b.relGate 40 200 ∨ outside b.minCount 1 3000
          ∨ outside b.target (-400) (-100) ∨ outside b.gmax 0 200 ∨ outside b.gmin (-300) 0 ∨ outside b.upSlew 1 50
          ∨ outside b.downSlew 1 50 ∨ outside b.band 0 100 ∨ g0 ≠ b.g0.getD old.g0)
      ∧ exec .loudSet s = .next ((s.setProg p { x with
          meter := { x.meter with window := window, relGate := relGate, minCount := minCount, histogram := histogram }
          gain := { x.gain with settings := settings, gcur := gcur, cues := cues } }).reply 0x40 tag status
            (.loudSet { window := window, relGate := relGate, minCount := minCount, settings := settings,
                        gcur := if x.state = .running then gcur else none,
                        moving := if x.state = .running then some x.gain.moving else none }))

/-- A sub-block completes at 4800 bus frames: each member's energy is packed at the head of its ring of four, the pair's exact
energies at the head of the correlation ring of four, the sums and the frame count start again. The first three give no results; from
the fourth a block completes: the block index rises, the level of the block energy is recorded unless the programme is paused, the
result set carries it with the other figures and the gain decision is taken on them at the input stamp. The eight measures then go to
the watches as one observation; when the report counter comes to its period, a METER notice with the block's figures is offered
after it (the order is log 50's choice); and the clip count starts again (R90, R105, R106, R109, R112, R115, R121, R131, R134, R151,
R186). What of the notice's content a frame carries is its selection's, in `NoticesAreLaidOut`. -/
def Obligations.SubBlockCompletesAndFromTheFourthABlock : Prop :=
  ∀ (s : State) (p : ProgId), s.powered = true → (s.prog p).state = .running → 4800 ≤ (s.prog p).meter.frameCount →
    let x := s.prog p
    let ms := x.members.map fun m => { m with words := (packEnergy m.energy :: m.words).take 4, energy := 0 }
    let corr := match firstOfRole .l x.members, firstOfRole .r x.members with
      | some l, some r => ({ mL := l.energy, mR := r.energy, x := x.meter.cross } :: x.meter.corr).take 4
      | _, _ => x.meter.corr
    let lb := blockLevel ms
    let packed : MeterRec := { x.meter with
      corr := corr, cross := 0, frameCount := 0, subBlocks := (x.meter.subBlocks + 1) % 2 ^ 32, ringed := min 4 (x.meter.ringed + 1) }
    (x.meter.ringed < 3 → exec (.subBlockComplete p) s = .next (s.setProg p { x with members := ms, meter := packed }).transmit)
    ∧ (3 ≤ x.meter.ringed → ∃ (histogram : Histogram) (overload : Bool),
      (x.gain.paused = true → histogram = x.meter.histogram)
      ∧ (overload = true ↔ (∃ m ∈ ms, ∃ w ∈ m.words, w.saturated = true) ∨ 100 < exactBlockLevel ms)
      ∧ let recorded : MeterRec := { packed with
          blockIndex := (x.meter.blockIndex + 1) % 2 ^ 32, histogram := histogram,
          levels := if x.gain.paused then x.meter.levels else (lb :: x.meter.levels).take 3000 }
        let r : BlockResults := { paused := x.gain.paused, lb := lb, overload := overload, belowGate := decide (lb < -700),
                                  lst := recorded.shortTerm, li := recorded.integrated, rho := recorded.rho ms }
        let g := x.gain.decision r x.inputStamp
        let lipSync : Int := (x.delay.current / 64 : Nat) - (x.delay.pending.getD x.delay.requested : Nat)
        let seen : Panel := Panel.observe (.programme p) (fun
            | .lb => some lb | .lst => r.lst | .li => r.li | .gcur => g.gcur | .rho => r.rho | .clips => some (x.gain.clips : Int)
            | .lipSync => some lipSync | .belowGate => some (if lb < -700 then 1 else 0) | _ => none)
          { now := s.refu.clock, wch := s.wch, lnk := s.lnk }
        let report : MeterReport := {
          prog := p, selection := x.report.selection, clock := s.refu.clock, blockIndex := (x.meter.blockIndex + 1) % 2 ^ 32, results := r, gcur := g.gcur.getD 0, clips := x.gain.clips,
          nTheta := recorded.gateFigures.map (·.nTheta), words := ms.map fun m => (m.words.map (·.bits)).reverse,
          current := x.delay.current, requested := x.delay.requested, funded := x.delay.funded, pending := x.delay.pending,
          lipSync := lipSync }
        let told : Panel := if x.report.period ≠ 0 ∧ x.report.period ≤ x.report.counter + 1 then seen.offer (.meter report) else seen
        exec (.subBlockComplete p) s = .next { s.setProg p { x with
            members := ms
            meter := { recorded with gate := recorded.gateFigures, results := some r }
            gain := { g with clips := 0 }
            report := { x.report with counter := if x.report.period = 0 then x.report.counter
              else if x.report.period ≤ x.report.counter + 1 then 0 else x.report.counter + 1 } } with
          wch := told.wch, lnk := told.lnk }.transmit)

/-- The figures taken from recorded levels. The level of a mean is 100 times the decimal logarithm of the mean of 10^(b/100), rounded
half up to tenths (R118; within 10^-9 of the upper edge it may be the lower of the two, log 24). The mean level is that of the
histogram; the gate is the larger of it less the relative gate and -700; the integrated level is that of the bins at or above the
gate, absent when these count fewer blocks than the minimum count; with an empty histogram all three are absent (R116, R117). The
short-term level is that of the last 30 levels, absent when none is recorded (R119). The correlation is the cross sum over the root of the
product of the energy sums, in hundredths toward zero, absent without a pair or with an energy sum of 0 (R120). -/
def Obligations.GatedLevelsAndCorrelation : Prop :=
  (∀ m : MeterRec, (∀ c ∈ m.histogram, -700 ≤ c.1 ∧ c.1 ≤ 100 ∧ 0 < c.2) → (∀ b ∈ m.levels, -1000 ≤ b ∧ b ≤ 100) → 1 ≤ m.minCount →
    let logMean (bins : List (Int × Nat)) : ℝ :=
      100 * Real.logb 10 ((bins.map fun c => (c.2 : ℝ) * (10 : ℝ) ^ ((c.1 : ℝ) / 100)).sum / ((bins.map (·.2)).sum : ℕ))
    let rounds (level : Int) (v : ℝ) : Prop := (level : ℝ) - 1 / 2 ≤ v ∧ v < level + 1 / 2 + 1 / 10 ^ 9
    (m.histogram = [] → m.gateFigures = none ∧ m.integrated = none)
    ∧ (m.histogram ≠ [] → ∃ g, m.gateFigures = some g ∧ rounds g.lr (logMean m.histogram) ∧ g.theta = max (g.lr - m.relGate) (-700)
      ∧ let gated := m.histogram.filter fun c => decide (g.theta ≤ c.1)
        g.nTheta = (gated.map (·.2)).sum
        ∧ (g.nTheta < m.minCount → m.integrated = none)
        ∧ (m.minCount ≤ g.nTheta → ∃ level, m.integrated = some level ∧ rounds level (logMean gated)))
    ∧ (m.levels = [] → m.shortTerm = none)
    ∧ (m.levels ≠ [] → ∃ level, m.shortTerm = some level ∧ rounds level (logMean ((m.levels.take 30).map fun b => (b, 1)))))
  ∧ (∀ (m : MeterRec) (ms : List Member),
    (firstOfRole .l ms = none ∨ firstOfRole .r ms = none → m.rho ms = none)
    ∧ (firstOfRole .l ms ≠ none → firstOfRole .r ms ≠ none →
        m.rho ms = correlation (m.corr.map (·.mL)).sum (m.corr.map (·.mR)).sum (m.corr.map (·.x)).sum))
  ∧ ∀ (mL mR : Nat) (x : Int), (mL = 0 ∨ mR = 0 → correlation mL mR x = none)
    ∧ (0 < mL → 0 < mR → x.natAbs ^ 2 ≤ mL * mR → ∃ k : Int, correlation mL mR x = some k ∧ 0 ≤ k * x
      ∧ (|k| : ℝ) ≤ 100 * |(x : ℝ)| / Real.sqrt (mL * mR) ∧ 100 * |(x : ℝ)| / Real.sqrt (mL * mR) < |k| + 1)

/-- R107: a mean energy v, given as the energy sum it is the 4800th part of in units of 2^-60, packs into an energy word. The
exponent is the word's upper 5 bits, the fraction its lower 11; a fraction of 2048 carries into the exponent. -/
def Obligations.MeanEnergyPacksIntoAWord : Prop :=
  ∀ sum : Nat, let v : ℚ := (sum : ℚ) / (4800 * 2 ^ 60)
    ((4095 : ℚ) / 2048 ≤ v → packEnergy sum = { bits := 0xFFFF, saturated := true })
    ∧ (∀ e : Nat, 1 ≤ e → e ≤ 31 → (2 : ℚ) ^ e ≤ v * 2 ^ 31 → v * 2 ^ 31 < (2 : ℚ) ^ (e + 1) → v < (4095 : ℚ) / 2048 →
        (packEnergy sum).saturated = false
        ∧ ((packEnergy sum).bits.toNat : Int) = e * 2048 + ⌊(v * 2 ^ 31 / 2 ^ e - 1) * 2048 + 1 / 2⌋)
    ∧ (v * 2 ^ 30 < 1 → (packEnergy sum).saturated = false ∧ ((packEnergy sum).bits.toNat : Int) = ⌊v * 2 ^ 41 + 1 / 2⌋)

/-- The block level (R108 to R111): of the members' words, each decoded as (1 + f/2048) × 2^(e - 31), or f × 2^-41 when e is 0, the
block energy is the weighted sum of the four words' means; its level is ten times its decimal logarithm in tenths, rounded half up,
-1000 below -999 or without energy, at most +100; and the overload flag is set by a saturated word or a level above +100. -/
def Obligations.BlockLevelIsTheDecimalLogarithm : Prop :=
  ∀ ms : List Member,
    let decoded (w : EnergyWord) : ℝ :=
      if w.bits.toNat / 2048 = 0 then ((w.bits.toNat % 2048 : Nat) : ℝ) / 2 ^ 41
      else (1 + ((w.bits.toNat % 2048 : Nat) : ℝ) / 2048) * 2 ^ (w.bits.toNat / 2048) / 2 ^ 31
    let weight (m : Member) : ℝ := match m.spec.effectiveWeight with | .none => 0 | .unity => 1 | .side => 181 / 128
    let z : ℝ := (ms.map fun m => weight m * (m.words.map decoded).sum / 4).sum
    let level : Int := ⌊100 * Real.logb 10 z + 1 / 2⌋
    blockLevel ms = (if z = 0 ∨ level < -999 then -1000 else if 100 < level then 100 else level)
    ∧ (blockOverload ms = true ↔ (∃ m ∈ ms, ∃ w ∈ m.words, w.saturated = true) ∨ (z ≠ 0 ∧ 100 < level))

/-! ## Gain (R130 to R143) -/

/-- R141: the factor of a gain A is 10^(A/200) rounded to the nearest multiple of 2^-20, never at a tie, from 33,159 to 10,485,760
units; and a ramp never leaves the interval between its start and end factors. -/
def Obligations.GainFactorIsThePowerOfTen : Prop :=
  (∀ a : Int, -300 ≤ a → a ≤ 200 → |(gainFactor a : ℝ) - 2 ^ 20 * (10 : ℝ) ^ ((a : ℝ) / 200)| < 1 / 2
    ∧ 33159 ≤ gainFactor a ∧ gainFactor a ≤ 10485760)
  ∧ ∀ start stop pos : Nat, pos ≤ 480 → min start stop ≤ rampFactor start stop pos ∧ rampFactor start stop pos ≤ max start stop

/-- The gain law of a block completion (R131, R132, R133): the desired gain is held when the completion is paused, LI absent or the
block below the gate, else it is Tgt - LI within the limits; a programme beyond the band, or already moving, steps by at most its
slew toward it; it settles when it is there; a step that changed the gain offers a cue at the input stamp; and the gain stays within
its limits. -/
def Obligations.GainLawStepsTowardTheDesiredGain : Prop :=
  ∀ (g : GainRec) (r : BlockResults) (stamp : Nat) (gcur : Int), g.gcur = some gcur → g.settings.InRange →
    g.settings.gmin ≤ gcur → gcur ≤ g.settings.gmax →
    ∀ gd : Int, ((r.paused = true ∨ r.li = none ∨ r.belowGate = true) → gd = gcur) →
      (∀ li, r.paused = false → r.belowGate = false → r.li = some li →
        gd = max g.settings.gmin (min (g.settings.target - li) g.settings.gmax)) →
      let moves : Prop := g.moving = true ∨ g.settings.band < |gd - gcur|
      let t := g.decision r stamp
      t.desired = some gd ∧ t.settings = g.settings ∧ t.paused = g.paused ∧ t.applied = g.applied ∧ t.factor = g.factor
      ∧ t.clips = g.clips ∧ (t.rampStart, t.rampEnd, t.rampPos, t.ramping) = (g.rampStart, g.rampEnd, g.rampPos, g.ramping)
      ∧ (¬moves → t.gcur = some gcur ∧ t.moving = false ∧ t.cues = g.cues)
      ∧ (moves → ∃ next, t.gcur = some next ∧ g.settings.gmin ≤ next ∧ next ≤ g.settings.gmax
          ∧ (gcur < gd → next = min gd (gcur + g.settings.upSlew)) ∧ (gd < gcur → next = max gd (gcur - g.settings.downSlew))
          ∧ (gcur = gd → next = gcur) ∧ (t.moving = true ↔ next ≠ gd)
          ∧ t.cues = if next = gcur then g.cues else (g.offerCue stamp next).cues)

/-- The cue queue (R135 to R138, R140). An offered gain equal to the reference (the tail's, or the applied gain when the queue is
empty) adds nothing; at the tail's position, or with 32 cues queued, it replaces the tail's gain; else it joins at the tail. At a
boundary the cues at or before the output stamp leave the queue, the newest of them becomes the applied gain, and a ramp toward its
factor begins from the factor in force (at position 0, log 17). -/
def Obligations.CuesJoinAndFallDue : Prop :=
  (∀ (g : GainRec) (position : Nat) (gain : Int),
    (g.cues = [] → g.applied = some gain → g.offerCue position gain = g)
    ∧ (g.cues = [] → g.applied ≠ some gain →
        g.offerCue position gain = { g with cues := [{ position := position, gain := gain }] })
    ∧ ∀ before tail, g.cues = before ++ [tail] →
      (tail.gain = gain → g.offerCue position gain = g)
      ∧ (tail.gain ≠ gain → tail.position = position ∨ 32 ≤ g.cues.length →
          g.offerCue position gain = { g with cues := before ++ [{ tail with gain := gain }] })
      ∧ (tail.gain ≠ gain → tail.position ≠ position → g.cues.length < 32 →
          g.offerCue position gain = { g with cues := g.cues ++ [{ position := position, gain := gain }] }))
  ∧ ∀ (g : GainRec) (out : Int), g.cues.Pairwise (fun a b => a.position < b.position) →
    ((∀ c ∈ g.cues, out < c.position) → g.takeDue out = g)
    ∧ ∀ due newest later, g.cues = due ++ newest :: later → (newest.position : Int) ≤ out → (∀ c ∈ later, out < c.position) →
      g.takeDue out = { g with
        cues := later, applied := some newest.gain, rampStart := g.factor, rampEnd := gainFactor newest.gain, rampPos := 0,
        ramping := true }

/-! ## Watches (R151 to R157) -/

/-- An observation (R151, R152, R157): a watch of another object, a watch that is off, an absent value, and a frozen watch under the
freeze are passed over, nothing changing. Otherwise the watch qualifies a value strictly beyond its threshold, records the value, the
stamp and the judgement, and its alarm is raised, with its severity, its object and the value, or cleared as its counts say. At an
observation event each watch judges once, as if alone (R151; that they do so in ascending number is log 51's choice). -/
def Obligations.WatchTakesOrSkipsAnObservation : Prop :=
  (∀ (v : Panel) (w : WatchId) (object : WatchObject) (values : Measure → Option Int),
    let x := v.wch.watches[w]
    (x.record.object ≠ object ∨ x.state = .off ∨ values x.record.measure = none
        ∨ (v.wch.freeze = true ∧ x.record.freezeEnable = true) → v.watchObserve object values w = v)
    ∧ ∀ value, x.record.object = object → x.state ≠ .off → values x.record.measure = some value →
      v.wch.freeze = false ∨ x.record.freezeEnable = false →
      let q : Bool := match x.record.sense with
        | .above => decide (x.record.threshold < value) | .below => decide (value < x.record.threshold)
      let y : Watch := { (x.act q).1 with lastQualified := q, lastValue := some value, lastStamp := some v.now }
      let u : Panel := { v with wch := { v.wch with watches := v.wch.watches.set w y } }
      let e : AlarmEntry := { id := .watch w, severity := x.record.severity, raised := v.now, acked := false, observed := some value,
                              source := match object with
                                | .programme p => .programme p | .lane l => .lane l | .reference => .reference | .pool => .pool }
      y.record = x.record
      ∧ ((x.act q).2 = .nothing → v.watchObserve object values w = u)
      ∧ ((x.act q).2 = .clear → v.watchObserve object values w = u.clear (.watch w))
      ∧ ((x.act q).2 = .raise → v.wch.isRaised (.watch w) = false → v.watchObserve object values w =
          ({ u with wch := ({ u.wch with table := u.wch.table ++ [e] } : Wch).followTable } : Panel).offer (.alarm e .raised v.now)))
  ∧ ∀ (v : Panel) (object : WatchObject) (values : Measure → Option Int) (w : WatchId),
    (v.observe object values).wch.watches[w] = (v.watchObserve object values w).wch.watches[w]
      ∧ (v.observe object values).wch.isRaised (.watch w) = (v.watchObserve object values w).wch.isRaised (.watch w)

/-- The counting of watches (R153 to R156). A LEVEL watch in QUIET raises at exactly the Nth qualifying observation running and not
before, and one that does not qualify returns it to QUIET from RISING; a watch of either mode in RAISED clears at exactly the Mth
observation running that does not qualify, and a qualifying one returns it to RAISED from FALLING. An EDGE watch counts entries: a
qualifying observation after one that was not; M clean observations running in RISING end the spell. -/
def Obligations.WatchesCountRunsAndEntries : Prop :=
  (∀ (w : Watch) (now : Nat) (vs : List Int) (v : Int), w.record.mode = .level → w.state = .quiet →
    (∀ x ∈ vs ++ [v], w.record.qualifies x = true) →
    (vs.length + 1 < w.record.raiseCount →
      (Watch.takes now w (vs ++ [v])).1.state = .rising ∧ (Watch.takes now w (vs ++ [v])).1.run = vs.length + 1
      ∧ ∀ o ∈ (Watch.takes now w (vs ++ [v])).2, o = .nothing)
    ∧ (vs.length + 1 = w.record.raiseCount →
      (Watch.takes now w (vs ++ [v])).1.state = .raised ∧ (Watch.takes now w (vs ++ [v])).1.run = 0
      ∧ (Watch.takes now w (vs ++ [v])).2 = List.replicate vs.length .nothing ++ [.raise]))
  ∧ (∀ (w : Watch) (now : Nat) (vs : List Int) (v : Int), w.state = .raised → w.run = 0 →
    (∀ x ∈ vs ++ [v], w.record.qualifies x = false) →
    (vs.length + 1 < w.record.clearCount →
      (Watch.takes now w (vs ++ [v])).1.state = .falling ∧ (Watch.takes now w (vs ++ [v])).1.run = vs.length + 1
      ∧ ∀ o ∈ (Watch.takes now w (vs ++ [v])).2, o = .nothing)
    ∧ (vs.length + 1 = w.record.clearCount →
      (Watch.takes now w (vs ++ [v])).1.state = .quiet ∧ (Watch.takes now w (vs ++ [v])).1.run = 0
      ∧ (Watch.takes now w (vs ++ [v])).2 = List.replicate vs.length .nothing ++ [.clear]))
  ∧ (∀ (w : Watch) (now : Nat) (v : Int), let t := w.judge v now
    (w.state = .rising → w.record.mode = .level → w.record.qualifies v = false → t.1.state = .quiet ∧ t.1.run = 0 ∧ t.2 = .nothing)
    ∧ (w.state = .falling → w.record.qualifies v = true → t.1.state = .raised ∧ t.1.run = 0 ∧ t.2 = .nothing)
    ∧ (w.state = .quiet ∨ w.state = .rising → w.record.mode = .edge →
      let entry := w.record.qualifies v = true ∧ w.lastQualified = false
      let counted := if w.state = .quiet then 1 else w.entries + 1
      (entry → counted < w.record.raiseCount →
        t.1.state = .rising ∧ t.1.entries = counted ∧ t.1.quiet = 0 ∧ t.2 = .nothing)
      ∧ (entry → counted = w.record.raiseCount → t.1.state = .raised ∧ t.1.entries = 0 ∧ t.1.quiet = 0 ∧ t.2 = .raise)
      ∧ (¬entry → w.state = .quiet → t.1.state = .quiet ∧ t.1.entries = 0 ∧ t.1.quiet = 0 ∧ t.2 = .nothing)
      ∧ (¬entry → w.state = .rising → w.record.qualifies v = true →
          t.1.state = .rising ∧ t.1.entries = w.entries ∧ t.1.quiet = 0 ∧ t.2 = .nothing)
      ∧ (w.record.qualifies v = false → w.state = .rising → w.quiet + 1 < w.record.clearCount →
          t.1.state = .rising ∧ t.1.entries = w.entries ∧ t.1.quiet = w.quiet + 1 ∧ t.2 = .nothing)
      ∧ (w.record.qualifies v = false → w.state = .rising → w.quiet + 1 = w.record.clearCount →
          t.1.state = .quiet ∧ t.1.entries = 0 ∧ t.1.quiet = 0 ∧ t.2 = .nothing)))

/-! ## The profile (R188 to R192) -/

/-- PROFILE_STORE and the transfers it makes (R191, R192). Taken, the image of the settings as they stand waits to be written, its
count one more than the store count modulo 2^32; while a store is in flight it is answered BUSY. Each body transfer that is
acknowledged is committed, inside one 64-byte page of the memory; the header's, committed last at address 0, ends the store:
SUCCEEDED, PROFILE_FAULT cleared. A transfer that is not acknowledged in time ends it: FAILED, PROFILE_FAULT raised, the store count
kept, nothing of that transfer committed; with every byte of it acknowledged and only the wait after it not, it is committed. Either
end offers a DONE notice with the outcome, the store count written or kept, the body length, the stage of a failure and the first
address not committed. Transfers that reach to the next 64-byte boundary are log 21's choice; the address 0 after the body's last
byte, and the free one once the header is committed, are log 14's; that PROFILE_FAULT is settled before the DONE notice is log 50's. -/
def Obligations.ProfileStoreWritesBodyThenHeader : Prop :=
  (∀ (s : State) (tag : Byte), s.Takes 0x60 tag [] →
    (s.pfu.store ≠ none → exec .profileStore s = .next (s.reply 0x60 tag .busy .empty))
    ∧ (s.pfu.store = none →
      let count := (s.pfu.storeCount + 1) % 2 ^ 32
      exec .profileStore s = .next ({ s with pfu := { s.pfu with
          store := some { body := s.imageBody, address := 16, header := imageHeader count s.imageBody, storeCount := count,
                          bodyLength := s.imageBody.length } } }.reply 0x60 tag .ok (.store s.imageBody.length count))))
  ∧ ∀ (s : State) (o : StoreOp), s.powered = true → s.pfu.store = some o →
    let w : Panel := { now := s.refu.clock, wch := s.wch, lnk := s.lnk }
    let failed (stage : StoreStage) (address : BitVec 16) : Panel :=
      (w.raise .profileFault).offer (.doneStore .failed s.pfu.storeCount o.bodyLength stage address s.refu.clock)
    let succeeded : Panel :=
      (w.clear .profileFault).offer (.doneStore .succeeded o.storeCount o.bodyLength .none 0 s.refu.clock)
    let ended (u : Pfu) (v : Panel) : State := ({ s with pfu := u, wch := v.wch, lnk := v.lnk } : State).transmit
    (o.body ≠ [] → ∃ n, 1 ≤ n ∧ n ≤ o.body.length ∧ o.address / 64 = (o.address + n - 1) / 64
      ∧ (n < o.body.length → (o.address + n) % 64 = 0)
      ∧ exec .profileTransferAck s = .next ({ s with pfu := { s.pfu with
          mem := s.pfu.mem.writeBytes o.address (o.body.take n)
          store := some { o with body := o.body.drop n, address := o.address + n } } }).transmit
      ∧ exec (.profileAckTimeout true) s = .next (ended { s.pfu with
          mem := s.pfu.mem.writeBytes o.address (o.body.take n), store := none, lastStore := .failed }
        (failed .body (if n = o.body.length then 0 else BitVec.ofNat 16 (o.address + n))))
      ∧ exec (.profileAckTimeout false) s = .next (ended { s.pfu with store := none, lastStore := .failed }
        (failed .body (BitVec.ofNat 16 o.address))))
    ∧ (o.body = [] →
      exec .profileTransferAck s = .next (ended { s.pfu with
          mem := s.pfu.mem.writeBytes 0 o.header, store := none, storeCount := o.storeCount, lastStore := .succeeded } succeeded)
      ∧ exec (.profileAckTimeout true) s = .next (ended { s.pfu with
          mem := s.pfu.mem.writeBytes 0 o.header, store := none, lastStore := .failed }
        (failed .header (Config.uncommittedAfterHeader o.bodyLength)))
      ∧ exec (.profileAckTimeout false) s = .next (ended { s.pfu with store := none, lastStore := .failed } (failed .header 0)))
    ∧ succeeded.wch.isRaised .profileFault = false ∧ ∀ stage address, (failed stage address).wch.isRaised .profileFault = true

/-- An image written is an image read (R188, R191, 11.6): with every setting in its range, the image of the settings, wherever the
profile memory stood before, is judged valid and gives back exactly those settings, and its header the store count. -/
def Obligations.StoredImageReadsBackTheSettings : Prop :=
  ∀ (s : State) (count : Nat) (mem : Memory), s.SettingsInRange → count < 2 ^ 32 → Memory.wf mem →
    let written := (mem.writeBytes 16 s.imageBody).writeBytes 0 (imageHeader count s.imageBody)
    judgeImage written = some s.profile ∧ (readHeader written).storeCount = count

/-- The end of the profile load (R188 to R190, R194). The body length and the store count are the header's, the count only when marker
and format are right, both 0 when the header was not read whole. With a valid image the outcome is VALID and PROFILE_FAULT as it was;
every lane holds the image's settings, brought into range, and is DISABLED just when the image disables it; the stored programmes
whose members nothing taken before them claims are defined with their stored settings, brought into range, the others left and counted
as skipped; and each watch starts with its record, the major level with the last. A record whose object does not exist is refused, and
watch 31's with it the major level (log 31's reading); bits 4 to 7 of a selection byte are ignored (log 54's choice), and a record
that meets a condition of R47 by itself is skipped as well (log 56's choice). With no valid image the outcome is CHECK_FAILED, or
NO_ANSWER when the memory did not answer, lanes and watches are at their factory values, the major level is 5, no programme is defined
and PROFILE_FAULT is raised. A memory that fails to answer during the load is noted, with whether the header had been read (log 22).
-/
def Obligations.ProfileLoadAppliesTheImageOrTheDefaults : Prop :=
  ∀ s : State, s.powered = true → s.pfu.outcome = .loading →
    let header := s.pfu.mem.readBytes 0 16
    let known : Bool := s.pfu.answered || s.pfu.headerRead
    let read : Pfu := { s.pfu with
      bodyLength := if known then fieldAt header 6 2 else 0
      storeCount := if known = true ∧ header.take 5 = [0x4B, 0x5A, 0x36, 0x34, 1] then fieldAt header 8 4 else 0 }
    (∀ q, s.pfu.answered = true → judgeImage s.pfu.mem = some q → s.PagesConserved → ∃ t, exec .profileLoadEnd s = .next t
      ∧ (let taken := (takenRecords [] q.progs).length
         t.pfu = { read with outcome := .valid, defined := s.pfu.defined + taken, skipped := s.pfu.skipped + (q.progs.length - taken) })
      ∧ t.wch.isRaised .profileFault = s.wch.isRaised .profileFault
      ∧ (∀ l : LaneId, ∃ x, q.lanes[l.val]? = some x ∧ (t.lane l).settings =
          { enabled := x.enabled, preference := x.preference, bypassAllowed := x.bypassAllowed, tolerance := min x.tolerance 200,
            openCounting := x.openCounting } ∧ ((t.lane l).state = .disabled ↔ x.enabled = false))
      ∧ (∀ r ∈ takenRecords [] q.progs, ∃ p : ProgId, p.val = r.prog
        ∧ let x := t.prog p
          let within (v : Option Int) (lo hi : Int) : Option Int := v.map fun n => max lo (min n hi)
          let trim := max (-48000) (min r.trim 48000)
          let g := x.gain.settings
          (x.state = .waiting ∨ x.state = .running) ∧ List.Forall₂ MemberDef.Of (x.members.map (·.spec)) r.members
          ∧ x.delay.video = min r.video 96000 ∧ x.delay.trim = trim ∧ x.delay.method = r.method
          ∧ x.delay.glideLimit = min r.glideLimit 4800
          ∧ x.delay.requested = (max 48 (min 96000 (((min r.video 96000 : Nat) : Int) + trim))).toNat
          ∧ some (x.meter.window : Int) = within r.loud.window 10 3000 ∧ some x.meter.relGate = within r.loud.relGate 40 200
          ∧ some (x.meter.minCount : Int) = within r.loud.minCount 1 3000
          ∧ some g.target = within r.loud.target (-400) (-100) ∧ some g.gmax = within r.loud.gmax 0 200
          ∧ some g.gmin = within r.loud.gmin (-300) 0 ∧ some g.upSlew = within r.loud.upSlew 1 50
          ∧ some g.downSlew = within r.loud.downSlew 1 50 ∧ some g.band = within r.loud.band 0 100
          ∧ some g.g0 = r.loud.g0.map (fun n => max g.gmin (min n g.gmax))
          ∧ x.gain.paused = r.paused ∧ x.report = { period := min r.period 600, selection := r.selection, counter := 0 })
      ∧ (∀ p : ProgId, (∀ r ∈ takenRecords [] q.progs, r.prog ≠ p.val) → t.prog p = s.prog p)
      ∧ (∀ w : WatchId, ∃ b kind number measure, q.watches[w.val]? = some b ∧ b.object = some (kind, number)
        ∧ kind.measures[b.measure.getD 8]? = some measure
        ∧ (kind = .programme ∧ 15 < number ∨ kind = .lane ∧ 7 < number →
            (t.wch.watches[w]).record = (s.wch.watches[w]).record ∧ (w = 31 → t.wch.majorLevel = s.wch.majorLevel))
        ∧ ∀ object : WatchObject, object.kind = kind → (kind = .programme ∨ kind = .lane → object.number = number) →
          (w = 31 → t.wch.majorLevel = max 1 (min q.majorLevel 7)) ∧ t.wch.isRaised (.watch w) = false
          ∧ ∃ enable threshold sense mode raiseCount clearCount severity freezeEnable,
            b = { enable := some enable, object := some (kind, number), measure := b.measure, threshold := some threshold,
                  sense := some sense, mode := some mode, raiseCount := some raiseCount, clearCount := some clearCount,
                  severity := some severity, freezeEnable := some freezeEnable }
            ∧ t.wch.watches[w] =
              { record := { enable := enable, object := object, measure := measure, threshold := threshold, sense := sense, mode := mode,
                            raiseCount := max 1 (min raiseCount 600), clearCount := max 1 (min clearCount 600),
                            severity := max 1 (min severity 7), freezeEnable := freezeEnable }
                state := if enable then .quiet else .off, run := 0, entries := 0, quiet := 0, lastQualified := false,
                lastValue := none, lastStamp := none })
      ∧ t.refu = s.refu ∧ t.out = s.out ∧ t.pending = s.pending)
    ∧ (s.pfu.answered = false ∨ judgeImage s.pfu.mem = none → ∃ t, exec .profileLoadEnd s = .next t
      ∧ t.pfu = { read with outcome := if s.pfu.answered then .checkFailed else .noAnswer }
      ∧ t.wch.isRaised .profileFault = true ∧ t.wch.majorLevel = 5
      ∧ (∀ l : LaneId, (t.lane l).settings =
          { enabled := true, preference := .full, bypassAllowed := true, tolerance := 5, openCounting := false }
          ∧ (t.lane l).state ≠ .disabled)
      ∧ (∀ w : WatchId, (t.wch.watches[w]).AtReset)
      ∧ t.progs = s.progs ∧ t.dmc = s.dmc ∧ t.refu = s.refu ∧ t.out = s.out ∧ t.pending = s.pending)
    ∧ (∀ whole : Bool, s.pfu.store = none →
      exec (.profileAckTimeout whole) s = .next ({ s with pfu := { s.pfu with answered := false, headerRead := whole } }).transmit)

/-! ## What every step keeps -/

/-- Both memories keep their canonical form (the model's, log 8); the frame clock and the reference counts stay in their ranges (R21,
R22); the request queue and the BUSY list hold at most 8, the notice queue at most 64 notices and never two with the same key, and the
credit, loss and frame-error counts stay in their ranges (R175, R176, R180, R182, R184). -/
def Obligations.StepKeepsMemoriesCountsAndQueuesBounded : Prop :=
  ∀ s t : State, step s = .next t → (s.MemoriesCanonical → t.MemoriesCanonical) ∧ (s.CountsBounded → t.CountsBounded)
    ∧ (s.LinkBounded → t.LinkBounded)

/-- No two entries of the alarm table share an id, a watch's alarm is raised just while the watch is in RAISED or FALLING, the MAJOR
and MINOR lines follow the table, and the monitored programme is the one R168 gives (R150, R161, R165, R168). -/
def Obligations.StepKeepsTheAlarmLaws : Prop := ∀ s t : State, step s = .next t → s.AlarmsConsistent → t.AlarmsConsistent

/-- The tap costs of the running lanes stay within the budget, and no lane waits for it: every ask ends in a grant (R35, R36). -/
def Obligations.StepKeepsTheTapBudgetAndNoLaneWaits : Prop :=
  ∀ s t : State, step s = .next t → (s.BudgetKept → t.BudgetKept) ∧ (s.NoLaneWaits → t.NoLaneWaits)

/-- Every page is on the free list or in exactly one ring, never both and never twice (R62). -/
def Obligations.StepConservesEveryPage : Prop := ∀ s t : State, step s = .next t → s.PagesConserved → t.PagesConserved

/-- Every member's tap plus its lane's latency is its programme's current delay (R89). A defined programme's requested delay stays
within 48 to 96,000, a pending target is held in no state but a jump's or the release's, and the delay a running one moves toward
never exceeds it (R84, R97, R98); its decided gain stays within its limits and its cue queue within 32 (R130, R135). -/
def Obligations.StepKeepsTapsDelaysAndGains : Prop :=
  ∀ s t : State, step s = .next t → (s.TapsAligned → t.TapsAligned) ∧ (s.RequestsBounded → t.RequestsBounded)
    ∧ (s.GainsLimited → t.GainsLimited)

/-- R113: every programme's histogram counts exactly the levels of -700 or above among the last min(W, Nr) recorded. -/
def Obligations.StepKeepsEveryHistogramTrue : Prop := ∀ s t : State, step s = .next t → s.HistogramsTrue → t.HistogramsTrue

/-- Every setting stays in its range, whatever values requests and profiles carry (R17, R86, R88, R126, R129, R166, R170, R185, R188). -/
def Obligations.StepKeepsEverySettingInRange : Prop := ∀ s t : State, step s = .next t → s.SettingsInRange → t.SettingsInRange

/-- Each channel of a RUNNING or RELEASING programme holds floor(Dhold / 1024) + 1 pages (R70), its current delay and funded target stay
within 48 to 96,000 (R84); no programme stands twice on the page wait list (R75); a programme stands on it just while it is WAITING, or
RUNNING below its requested delay, and just then its DELAY_DEFICIT is raised (R76, R79). Stated of states whose requested delays are
in bounds and whose pages are whole, which every step keeps. -/
def Obligations.StepKeepsTheDelayMemoryLaws : Prop :=
  ∀ s t : State, step s = .next t → s.RequestsBounded → s.PagesConserved → s.AlarmsConsistent → s.DelayMemoryLaws → t.DelayMemoryLaws

/-- Cue positions rise strictly, none lies behind the output stamp (R135, R137), and every limit, cue gain and factor stays within the
range of R141. A boundary with nothing outstanding leaves every queued cue ahead of the output stamp it judged; between boundaries a
stopped glide or a release can bring the stamp onto a cue's position, which then waits for the next boundary (log 57's choice). Stated
of states that keep the delay memory's laws and the gain limits, below the wrap of the stamps (log 39). That the stamp is taken after
the input stamp's rise is log 17's reading, and that in FADE_OUT at position 0 it is the funded target's is log 18's. -/
def Obligations.StepKeepsCuesAheadAndFactorsInRange : Prop :=
  (∀ s t : State, step s = .next t → s.RequestsBounded → s.PagesConserved → s.AlarmsConsistent → s.DelayMemoryLaws → s.GainsLimited →
    (∀ p : ProgId, (s.prog p).inputStamp + 1 < 2 ^ 48) →
    (s.CuesAhead → t.CuesAhead) ∧ (s.FactorsInRange → t.FactorsInRange))
  ∧ ∀ (s : State) (p : ProgId), s.powered = true → s.NothingOutstanding → s.NoPageGivenUp → s.CuesAhead →
    (s.prog p).state = .running ∨ (s.prog p).state = .releasing → ∃ t, exec .outputFrameBoundary s = .next t ∧
      let x := t.prog p
      let delay := if x.state = .running ∧ x.delay.change = .fadeOut ∧ x.delay.fadePos = 0 then 64 * x.delay.funded else x.delay.current
      ∀ c ∈ x.gain.cues, (64 * (x.inputStamp : Int) - delay) / 64 < c.position
end

