-- ==== Sys2Proof/Laws/Arith.lean ====
section
/-! SUPPORT. Laws/Arith.lean: the clamps, roundings and searches of Machine/Arith.lean, each characterised once. -/
namespace Sys2Proof.Machine

theorem clampInt_eq (v a b : Int) (h : a ≤ b) : clampInt v a b = max a (min v b) := by
  unfold clampInt; split <;> [skip; split] <;> omega

theorem clampInt_bounds (v : Int) {a b : Int} (h : a ≤ b) : a ≤ clampInt v a b ∧ clampInt v a b ≤ b := by
  rw [clampInt_eq v a b h]; omega

theorem clampInt_of_mem {v a b : Int} (h1 : a ≤ v) (h2 : v ≤ b) : clampInt v a b = v := by
  unfold clampInt; rw [if_neg (by omega), if_neg (by omega)]

theorem clampNat_eq (v a b : Nat) (h : a ≤ b) : clampNat v a b = max a (min v b) := by
  unfold clampNat; split <;> [skip; split] <;> omega

theorem clampNat_bounds (v : Nat) {a b : Nat} (h : a ≤ b) : a ≤ clampNat v a b ∧ clampNat v a b ≤ b := by
  rw [clampNat_eq v a b h]; omega

theorem satSucc_le (top n : Nat) : satSucc top n ≤ top := Nat.min_le_left _ _

theorem saturateSample_bounds (v : Int) : -(2 ^ 23) ≤ saturateSample v ∧ saturateSample v ≤ 2 ^ 23 - 1 :=
  clampInt_bounds v (by decide)

/-- Round-half-up is the floor of the quotient plus a half. -/
theorem roundHalfUp_bounds (num : Int) {den : Nat} (h : 0 < den) :
    2 * den * roundHalfUp num den ≤ 2 * num + den ∧ 2 * num + den < 2 * den * (roundHalfUp num den + 1) := by
  have hd : (0 : Int) < 2 * den := by omega
  unfold roundHalfUp
  have h1 := Int.mul_ediv_add_emod (2 * num + den) (2 * den)
  have h2 := Int.emod_nonneg (2 * num + den) hd.ne'
  have h3 := Int.emod_lt_of_pos (2 * num + den) hd
  constructor
  · omega
  · rw [mul_add, mul_one]; omega

theorem roundHalfUp_eq_floor (num : Int) {den : Nat} (h : 0 < den) : roundHalfUp num den = ⌊(num : ℚ) / den + 1 / 2⌋ := by
  symm
  rw [Int.floor_eq_iff]
  obtain ⟨h1, h2⟩ := roundHalfUp_bounds num h
  have hq : (0 : ℚ) < den := by exact_mod_cast h
  have h1' : 2 * (den : ℚ) * roundHalfUp num den ≤ 2 * num + den := by exact_mod_cast h1
  have h2' : 2 * (num : ℚ) + den < 2 * den * (roundHalfUp num den + 1) := by exact_mod_cast h2
  have e : (num : ℚ) / den + 1 / 2 = (2 * num + den) / (2 * den) := by field_simp
  rw [e]
  constructor
  · rw [le_div_iff₀ (by positivity)]; linarith
  · rw [div_lt_iff₀ (by positivity)]; linarith

theorem roundAway_neg (num : Int) (den : Nat) (h : 0 < den) : roundAway (-num) den = -roundAway num den := by
  rcases lt_trichotomy num 0 with hn | rfl | hn
  · rw [roundAway, roundAway, if_pos (by omega), if_neg (by omega), neg_neg]
  · have : ((den : Int) / (2 * den)) = 0 := Int.ediv_eq_zero_of_lt (by omega) (by omega)
    simp [roundAway, this]
  · rw [roundAway, roundAway, if_neg (by omega), if_pos (by omega), neg_neg]

/-- The search finds, of the values lo to lo + 2 ^ n - 1, the greatest with a property that falls away upward. -/
theorem searchUp_spec (p : Int → Bool) (hp : ∀ a b, a ≤ b → p b = true → p a = true) (n : Nat) (lo : Int) :
    lo ≤ searchUp p n lo ∧ searchUp p n lo < lo + 2 ^ n
      ∧ ∀ k, lo < k → k < lo + 2 ^ n → (p k = true ↔ k ≤ searchUp p n lo) := by
  induction n generalizing lo with
  | zero => exact ⟨le_refl _, by simp [searchUp], fun k h1 h2 => by simp at h2; omega⟩
  | succ n ih =>
    have e : (2 : Int) ^ (n + 1) = 2 ^ n + 2 ^ n := by ring
    have pos : (0 : Int) < 2 ^ n := by positivity
    simp only [searchUp, e]
    split
    · rename_i hyes
      obtain ⟨h1, h2, h3⟩ := ih (lo + 2 ^ n)
      refine ⟨by omega, by omega, fun k hk1 hk2 => ?_⟩
      by_cases hk : k ≤ lo + 2 ^ n
      · exact ⟨fun _ => by omega, fun _ => hp k _ hk hyes⟩
      · exact h3 k (by omega) (by omega)
    · rename_i hno
      obtain ⟨h1, h2, h3⟩ := ih lo
      refine ⟨h1, by omega, fun k hk1 hk2 => ?_⟩
      by_cases hk : k < lo + 2 ^ n
      · exact h3 k hk1 hk
      · exact ⟨fun hpk => absurd (hp (lo + 2 ^ n) k (by omega) hpk) hno, fun _ => by omega⟩

/-- The same of the search for a gain factor. -/
theorem searchFactor_spec (a : Int) (hp : ∀ k m : Nat, k ≤ m → factorAtLeast a m = true → factorAtLeast a k = true) (n lo : Nat) :
    lo ≤ searchFactor a n lo ∧ searchFactor a n lo < lo + 2 ^ n
      ∧ ∀ k, lo < k → k < lo + 2 ^ n → (factorAtLeast a k = true ↔ k ≤ searchFactor a n lo) := by
  induction n generalizing lo with
  | zero => exact ⟨le_refl _, by simp [searchFactor], fun k h1 h2 => by simp at h2; omega⟩
  | succ n ih =>
    have e : 2 ^ (n + 1) = 2 ^ n + 2 ^ n := by ring
    have pos : 0 < 2 ^ n := by positivity
    simp only [searchFactor, e]
    split
    · rename_i hyes
      obtain ⟨h1, h2, h3⟩ := ih (lo + 2 ^ n)
      refine ⟨by omega, by omega, fun k hk1 hk2 => ?_⟩
      by_cases hk : k ≤ lo + 2 ^ n
      · exact ⟨fun _ => by omega, fun _ => hp k _ hk hyes⟩
      · exact h3 k (by omega) (by omega)
    · rename_i hno
      obtain ⟨h1, h2, h3⟩ := ih lo
      refine ⟨h1, by omega, fun k hk1 hk2 => ?_⟩
      by_cases hk : k < lo + 2 ^ n
      · exact h3 k hk1 hk
      · exact ⟨fun hpk => absurd (hp (lo + 2 ^ n) k (by omega) hpk) hno, fun _ => by omega⟩

end Sys2Proof.Machine
end

