-- ==== Sys2Proof/Laws/Memory.lean ====
section
/-! SUPPORT. Laws/Memory.lean: reading after writing, and that every operation on the memories keeps their canonical form. -/
namespace Sys2Proof.Machine

/-! ## The canonical form -/

theorem Memory.wf_nil : Memory.wf [] := ⟨List.Pairwise.nil, by simp⟩

theorem Memory.wf_cons {k : Nat} {c : Byte} {m : Memory} :
    Memory.wf ((k, c) :: m) ↔ (∀ x ∈ m, k < x.1) ∧ c ≠ Memory.unlisted ∧ Memory.wf m := by
  simp only [Memory.wf, List.pairwise_cons, List.forall_mem_cons]
  tauto

theorem Memory.put_wf {a : Nat} {b : Byte} {m : Memory} (hm : m.wf) (h : ∀ x ∈ m, a < x.1) : (Memory.put a b m).wf := by
  unfold Memory.put
  split
  · exact hm
  · exact Memory.wf_cons.2 ⟨h, ‹_›, hm⟩

/-- Every cell after a write was there before or is the one written. -/
theorem Memory.mem_write {m : Memory} {a : Nat} {b : Byte} {x : Host.Cell} (h : x ∈ m.write a b) : x ∈ m ∨ x = (a, b) := by
  induction m with
  | nil =>
    simp only [Memory.write, Memory.put] at h
    split at h <;> simp_all
  | cons c m ih =>
    obtain ⟨k, d⟩ := c
    simp only [Memory.write, Memory.put] at h
    split at h
    · split at h <;> simp_all <;> tauto
    · split at h
      · split at h <;> simp_all <;> tauto
      · rcases List.mem_cons.1 h with h | h
        · exact .inl (by simp [h])
        · rcases ih h with h | h
          · exact .inl (by simp [h])
          · exact .inr h

theorem Memory.write_wf {m : Memory} (hm : m.wf) (a : Nat) (b : Byte) : (m.write a b).wf := by
  induction m with
  | nil => exact Memory.put_wf Memory.wf_nil (by simp)
  | cons c m ih =>
    obtain ⟨k, d⟩ := c
    obtain ⟨h1, h2, h3⟩ := Memory.wf_cons.1 hm
    simp only [Memory.write]
    split
    · refine Memory.put_wf hm fun x hx => ?_
      rcases List.mem_cons.1 hx with rfl | hx
      · assumption
      · exact lt_trans ‹_› (h1 x hx)
    · split
      · subst a; exact Memory.put_wf h3 h1
      · refine Memory.wf_cons.2 ⟨fun x hx => ?_, h2, ih h3⟩
        rcases Memory.mem_write hx with hx | rfl
        · exact h1 x hx
        · show k < a; omega

theorem Memory.writeBytes_wf {m : Memory} (hm : m.wf) (a : Nat) (bs : List Byte) : (m.writeBytes a bs).wf := by
  induction bs generalizing m a with
  | nil => exact hm
  | cons b bs ih => exact ih (Memory.write_wf hm a b) (a + 1)

theorem Memory.writeCells_wf {m : Memory} (hm : m.wf) (cs : Memory) : (m.writeCells cs).wf := by
  induction cs generalizing m with
  | nil => exact hm
  | cons c cs ih => exact ih (Memory.write_wf hm c.1 c.2)

theorem Memory.filter_wf {m : Memory} (hm : m.wf) (p : Host.Cell → Bool) : Memory.wf (m.filter p) :=
  ⟨hm.1.filter p, fun c hc => hm.2 c (List.mem_of_mem_filter hc)⟩

theorem Memory.copy_wf {m : Memory} (hm : m.wf) (src dst n : Nat) : (m.copy src dst n).wf :=
  Memory.writeCells_wf (Memory.filter_wf hm _) _

theorem writeSample_wf {m : Memory} (hm : m.wf) (page : PageId) (x : Fin 1024) (v : Int) : (writeSample m page x v).wf :=
  Memory.writeBytes_wf hm _ _

theorem copyTail_wf {m : Memory} (hm : m.wf) (a b : PageId) (x : Fin 1024) : (copyTail m a b x).wf := Memory.copy_wf hm _ _ _

theorem writeBus_wf {m : Memory} (hm : m.wf) (ms : List Member) (xs : List Int) : (writeBus m ms xs).1.wf := by
  induction ms generalizing m xs with
  | nil => simpa [writeBus] using hm
  | cons y ms ih =>
    cases xs with
    | nil => simpa [writeBus] using hm
    | cons x xs =>
      refine ih ?_ xs
      unfold writeMember1
      split
      · exact hm
      · exact writeSample_wf hm _ _ _

theorem Dmc.splice_wf {d : Dmc} (h : d.dram.wf) (j : Nat) (newest : Int) (r : Ring) : (d.splice j newest r).1.dram.wf := by
  simp only [Dmc.splice]
  split
  · exact h
  · exact copyTail_wf h _ _ _

theorem Dmc.trim_wf {d : Dmc} (h : d.dram.wf) (j : Nat) (r : Ring) : (d.trim j r).1.dram.wf := by
  simp only [Dmc.trim]
  split
  · exact h
  · exact copyTail_wf h _ _ _

theorem Dmc.resizeRing_wf {d : Dmc} (h : d.dram.wf) (k : Nat) (newest : Int) (r : Ring) : (d.resizeRing k newest r).1.dram.wf := by
  unfold Dmc.resizeRing
  split
  · exact Dmc.splice_wf h _ _ _
  · split
    · exact Dmc.trim_wf h _ _
    · exact h

theorem Dmc.resizeMembers_wf {d : Dmc} (h : d.dram.wf) (k : Nat) (newest : Int) (ms : List Member) :
    (Dmc.resizeMembers k newest d ms).1.dram.wf := by
  induction ms generalizing d with
  | nil => exact h
  | cons m ms ih =>
    refine ih ?_
    unfold Dmc.resizeMember
    split
    · exact h
    · exact Dmc.resizeRing_wf h _ _ _

@[simp] theorem Dmc.createRings_dram (p : Nat) (d : Dmc) (ms : List Member) : (Dmc.createRings p d ms).1.dram = d.dram := by
  induction ms generalizing d with
  | nil => rfl
  | cons m ms ih => exact ih _

/-! ## Reading after writing -/

theorem Memory.read_below {m : Memory} {a : Nat} (h : ∀ x ∈ m, a < x.1) : m.read a = Memory.unlisted := by
  induction m with
  | nil => rfl
  | cons c m ih =>
    obtain ⟨k, d⟩ := c
    have hk : a < k := h (k, d) (by simp)
    simp only [Memory.read, if_neg (by omega : ¬k = a)]
    exact ih fun x hx => h x (by simp [hx])

theorem Memory.read_put (a c : Nat) (b : Byte) {m : Memory} (h : ∀ x ∈ m, a < x.1) :
    (Memory.put a b m).read c = if c = a then b else m.read c := by
  unfold Memory.put
  split
  · split
    · subst c; rw [Memory.read_below h]; exact Eq.symm ‹_›
    · rfl
  · by_cases hc : c = a
    · simp [Memory.read, hc]
    · simp [Memory.read, hc, Ne.symm hc]

/-- A byte reads back what was written to it, and every other byte reads as before. -/
theorem Memory.read_write {m : Memory} (hm : m.wf) (a c : Nat) (b : Byte) :
    (m.write a b).read c = if c = a then b else m.read c := by
  induction m with
  | nil => exact Memory.read_put a c b (by simp)
  | cons x m ih =>
    obtain ⟨k, d⟩ := x
    obtain ⟨h1, h2, h3⟩ := Memory.wf_cons.1 hm
    simp only [Memory.write]
    split
    · refine Memory.read_put a c b fun x hx => ?_
      rcases List.mem_cons.1 hx with rfl | hx
      · assumption
      · exact lt_trans ‹_› (h1 x hx)
    · split
      · subst a
        rw [Memory.read_put k c b h1]
        by_cases hc : c = k
        · simp [hc]
        · simp [hc, Memory.read, Ne.symm hc]
      · simp only [Memory.read, ih h3]
        split
        · subst c; rw [if_neg (by omega)]
        · rfl

theorem Memory.read_writeBytes_outside {m : Memory} (hm : m.wf) (a c : Nat) (bs : List Byte) (h : c < a ∨ a + bs.length ≤ c) :
    (m.writeBytes a bs).read c = m.read c := by
  induction bs generalizing m a with
  | nil => rfl
  | cons b bs ih =>
    simp only [List.length_cons] at h
    rw [Memory.writeBytes, ih (Memory.write_wf hm a b) (a + 1) (by omega), Memory.read_write hm, if_neg (by omega)]

theorem Memory.read_writeBytes {m : Memory} (hm : m.wf) (a : Nat) (bs : List Byte) (i : Nat) (h : i < bs.length) :
    (m.writeBytes a bs).read (a + i) = bs[i] := by
  induction bs generalizing m a i with
  | nil => simp at h
  | cons b bs ih =>
    rw [Memory.writeBytes]
    cases i with
    | zero =>
      rw [Memory.read_writeBytes_outside (Memory.write_wf hm a b) _ _ _ (.inl (by omega)), Memory.read_write hm]
      simp
    | succ i =>
      have := ih (Memory.write_wf hm a b) (a + 1) i (by simpa using h)
      rw [show a + (i + 1) = a + 1 + i by omega, this]
      simp

theorem Memory.readBytes_writeBytes {m : Memory} (hm : m.wf) (a : Nat) (bs : List Byte) :
    (m.writeBytes a bs).readBytes a bs.length = bs := by
  induction bs generalizing m a with
  | nil => rfl
  | cons b bs ih =>
    simp only [List.length_cons, Memory.readBytes, Memory.writeBytes]
    rw [ih (Memory.write_wf hm a b) (a + 1), Memory.read_writeBytes_outside (Memory.write_wf hm a b) _ _ _ (.inl (by omega)),
      Memory.read_write hm, if_pos rfl]

end Sys2Proof.Machine
end

