-- ==== Sys2Proof/Laws/Image.lean ====
section
/-! SUPPORT. Laws/Image.lean: number fields written most significant byte first and read back, and an image's frame: header and body. -/
namespace Sys2Proof.Machine

/-! ## Number fields (R195) -/

theorem toNat_ofInt8 (v : Int) : (BitVec.ofInt 8 v).toNat = (v % 256).toNat := by simp [BitVec.toNat_ofInt]

/-- The number that bytes spell, most significant first. -/
def spelled (bs : List Byte) : Nat := bs.foldl (fun v b => v * 256 + b.toNat) 0

theorem spelled_bytes2 {n : Nat} (h : n < 2 ^ 16) : spelled (bytes2 n) = n := by
  simp only [spelled, bytes2, List.foldl_cons, List.foldl_nil, toNat_ofInt8]
  omega

theorem spelled_bytes4 {n : Nat} (h : n < 2 ^ 32) : spelled (bytes4 n) = n := by
  simp only [spelled, bytes4, List.foldl_cons, List.foldl_nil, toNat_ofInt8]
  omega

theorem bytes2_length (v : Int) : (bytes2 v).length = 2 := rfl
theorem bytes4_length (v : Int) : (bytes4 v).length = 4 := rfl

theorem bytesOf_length (k n : Nat) : (bytesOf k n).length = k := by
  induction k generalizing n with
  | zero => rfl
  | succ k ih => simp [bytesOf, ih]

theorem spelled_concat (bs : List Byte) (b : Byte) : spelled (bs ++ [b]) = spelled bs * 256 + b.toNat := by simp [spelled]

/-- A number written in k bytes is spelled back as far as k bytes hold it. -/
theorem spelled_bytesOf (k n : Nat) : spelled (bytesOf k n) = n % 256 ^ k := by
  induction k generalizing n with
  | zero => simp [bytesOf, spelled, Nat.mod_one]
  | succ k ih =>
    have split : n % 256 ^ (k + 1) = n % 256 + 256 * (n / 256 % 256 ^ k) := by rw [pow_succ' 256, Nat.mod_mul]
    rw [bytesOf, spelled_concat, ih, BitVec.toNat_ofNat, split, Nat.add_comm, Nat.mul_comm 256]
    rfl

/-- Every number of a reply is spelled whole (R195). -/
theorem spelled_figureBytes (width n : Nat) : spelled (figureBytes width (.number n)) = n := by
  rw [figureBytes, spelled_bytesOf]
  refine Nat.mod_eq_of_lt ?_
  have fits : n < 256 ^ (n.log2 / 8 + 1) := by
    refine Nat.lt_log2_self.trans_le ?_
    rw [show (256 : Nat) = 2 ^ 8 from rfl, ← pow_mul]
    exact Nat.pow_le_pow_right (by norm_num) (by omega)
  exact fits.trans_le (Nat.pow_le_pow_right (by norm_num) (le_max_left _ _))

/-! ## Reading a part of what was written -/

theorem Memory.readBytes_writeBytes_outside {m : Memory} (hm : m.wf) (a c n : Nat) (bs : List Byte)
    (h : c + n ≤ a ∨ a + bs.length ≤ c) : (m.writeBytes a bs).readBytes c n = m.readBytes c n := by
  induction n generalizing c with
  | zero => rfl
  | succ n ih =>
    simp only [Memory.readBytes]
    rw [Memory.read_writeBytes_outside hm a c bs (by omega), ih (c + 1) (by omega)]

/-- Bytes written one list after the other are the two lists written in turn. -/
theorem Memory.writeBytes_append (m : Memory) (a : Nat) (xs ys : List Byte) :
    m.writeBytes a (xs ++ ys) = (m.writeBytes a xs).writeBytes (a + xs.length) ys := by
  induction xs generalizing m a with
  | nil => rfl
  | cons x xs ih =>
    simp only [List.cons_append, Memory.writeBytes, ih, List.length_cons]
    congr 1
    omega

/-- A field in the middle of what was written reads back. -/
theorem Memory.readBytes_part {m : Memory} (hm : m.wf) (a : Nat) (before part after : List Byte) :
    (m.writeBytes a (before ++ (part ++ after))).readBytes (a + before.length) part.length = part := by
  rw [Memory.writeBytes_append, Memory.writeBytes_append]
  rw [Memory.readBytes_writeBytes_outside (Memory.writeBytes_wf (Memory.writeBytes_wf hm _ _) _ _) _ _ _ _ (.inl (le_refl _))]
  exact Memory.readBytes_writeBytes (Memory.writeBytes_wf hm _ _) _ _

theorem imageHeader_length (count : Nat) (body : List Byte) : (imageHeader count body).length = 16 := by
  simp [imageHeader, imageMarker, bytes1, bytes2, bytes4]

/-- The header of an image reads back. -/
theorem readHeader_written {m : Memory} (hm : m.wf) {count : Nat} (body : List Byte) (hc : count < 2 ^ 32)
    (hb : body.length < 2 ^ 16) :
    readHeader (m.writeBytes 0 (imageHeader count body))
      = { marked := true, bodyLength := body.length, storeCount := count, check := crc32 body } := by
  have f1 : (m.writeBytes 0 (imageHeader count body)).readBytes 0 4 = imageMarker := by
    have := Memory.readBytes_part hm 0 [] imageMarker
      (bytes1 1 ++ bytes1 0 ++ bytes2 body.length ++ bytes4 count ++ bytes4 (crc32 body).toNat)
    simpa [imageHeader, imageMarker] using this
  have f2 : (m.writeBytes 0 (imageHeader count body)).readBytes 4 1 = bytes1 1 := by
    have := Memory.readBytes_part hm 0 imageMarker (bytes1 1)
      (bytes1 0 ++ bytes2 body.length ++ bytes4 count ++ bytes4 (crc32 body).toNat)
    simpa [imageHeader, imageMarker, bytes1] using this
  have f3 : (m.writeBytes 0 (imageHeader count body)).readBytes 6 2 = bytes2 body.length := by
    have := Memory.readBytes_part hm 0 (imageMarker ++ bytes1 1 ++ bytes1 0) (bytes2 body.length)
      (bytes4 count ++ bytes4 (crc32 body).toNat)
    simpa [imageHeader, imageMarker, bytes1, bytes2_length] using this
  have f4 : (m.writeBytes 0 (imageHeader count body)).readBytes 8 4 = bytes4 count := by
    have := Memory.readBytes_part hm 0 (imageMarker ++ bytes1 1 ++ bytes1 0 ++ bytes2 body.length) (bytes4 count)
      (bytes4 (crc32 body).toNat)
    simpa [imageHeader, imageMarker, bytes1, bytes2_length, bytes4_length] using this
  have f5 : (m.writeBytes 0 (imageHeader count body)).readBytes 12 4 = bytes4 (crc32 body).toNat := by
    have := Memory.readBytes_part hm 0 (imageMarker ++ bytes1 1 ++ bytes1 0 ++ bytes2 body.length ++ bytes4 count)
      (bytes4 (crc32 body).toNat) []
    simpa [imageHeader, imageMarker, bytes1, bytes2_length, bytes4_length] using this
  have g2 : (m.writeBytes 0 (imageHeader count body)).read 4 = 1 := by
    have : (m.writeBytes 0 (imageHeader count body)).readBytes 4 1 = [(m.writeBytes 0 (imageHeader count body)).read 4] := rfl
    rw [this] at f2
    simpa [bytes1] using f2
  have s3 := spelled_bytes2 hb
  have s4 := spelled_bytes4 hc
  have s5 := spelled_bytes4 (crc32 body).isLt
  simp only [spelled] at s3 s4 s5
  simp only [readHeader, f1, g2, f3, f4, f5, s3, s4, s5]
  simp

/-- An image is judged by its body: written over any memory, it is as good as its body reads. -/
theorem judgeImage_written {m : Memory} (hm : m.wf) {count : Nat} {body : List Byte} (hc : count < 2 ^ 32)
    (h1 : leastBody ≤ body.length) (h2 : body.length ≤ greatestBody) :
    judgeImage ((m.writeBytes 16 body).writeBytes 0 (imageHeader count body)) = readProfile body := by
  have hw := Memory.writeBytes_wf hm 16 body
  have hb : body.length < 2 ^ 16 := lt_of_le_of_lt h2 (by decide)
  have hr : ((m.writeBytes 16 body).writeBytes 0 (imageHeader count body)).readBytes bodyStart body.length = body := by
    rw [Memory.readBytes_writeBytes_outside hw _ _ _ _ (.inr (by rw [imageHeader_length]; decide))]
    exact Memory.readBytes_writeBytes hm 16 body
  simp only [judgeImage, readHeader_written hw body hc hb, h1, h2, hr, and_self, if_true]

end Sys2Proof.Machine
end

