-- ==== Sys2Proof/Laws/State.lean ====
section
/-! SUPPORT. Laws/State.lean: what each update of the state and of its views leaves in each field, so that no proof unfolds one. -/
namespace Sys2Proof.Machine

/-! ## Work on the panel -/

@[simp] theorem State.onPanel_pending (s : State) (f : Panel → Panel) : (s.onPanel f).pending = s.pending := rfl
@[simp] theorem State.onPanel_powered (s : State) (f : Panel → Panel) : (s.onPanel f).powered = s.powered := rfl
@[simp] theorem State.onPanel_refu (s : State) (f : Panel → Panel) : (s.onPanel f).refu = s.refu := rfl
@[simp] theorem State.onPanel_front (s : State) (f : Panel → Panel) : (s.onPanel f).front = s.front := rfl
@[simp] theorem State.onPanel_progs (s : State) (f : Panel → Panel) : (s.onPanel f).progs = s.progs := rfl
@[simp] theorem State.onPanel_dmc (s : State) (f : Panel → Panel) : (s.onPanel f).dmc = s.dmc := rfl
@[simp] theorem State.onPanel_pfu (s : State) (f : Panel → Panel) : (s.onPanel f).pfu = s.pfu := rfl
@[simp] theorem State.onPanel_out (s : State) (f : Panel → Panel) : (s.onPanel f).out = s.out := rfl
@[simp] theorem State.onPanel_wch (s : State) (f : Panel → Panel) : (s.onPanel f).wch = (f s.panel).wch := rfl
@[simp] theorem State.onPanel_lnk (s : State) (f : Panel → Panel) : (s.onPanel f).lnk = (f s.panel).lnk := rfl

/-! ## Work on the lanes -/

@[simp] theorem State.onLanes_pending (s : State) (f : LaneSide → LaneSide) : (s.onLanes f).pending = s.pending := rfl
@[simp] theorem State.onLanes_powered (s : State) (f : LaneSide → LaneSide) : (s.onLanes f).powered = s.powered := rfl
@[simp] theorem State.onLanes_refu (s : State) (f : LaneSide → LaneSide) : (s.onLanes f).refu = s.refu := rfl
@[simp] theorem State.onLanes_front (s : State) (f : LaneSide → LaneSide) :
    (s.onLanes f).front = (f { front := s.front, panel := s.panel }).front := rfl
@[simp] theorem State.onLanes_progs (s : State) (f : LaneSide → LaneSide) : (s.onLanes f).progs = s.progs := rfl
@[simp] theorem State.onLanes_dmc (s : State) (f : LaneSide → LaneSide) : (s.onLanes f).dmc = s.dmc := rfl
@[simp] theorem State.onLanes_pfu (s : State) (f : LaneSide → LaneSide) : (s.onLanes f).pfu = s.pfu := rfl
@[simp] theorem State.onLanes_out (s : State) (f : LaneSide → LaneSide) : (s.onLanes f).out = s.out := rfl
@[simp] theorem State.onLanes_wch (s : State) (f : LaneSide → LaneSide) :
    (s.onLanes f).wch = (f { front := s.front, panel := s.panel }).panel.wch := rfl
@[simp] theorem State.onLanes_lnk (s : State) (f : LaneSide → LaneSide) :
    (s.onLanes f).lnk = (f { front := s.front, panel := s.panel }).panel.lnk := rfl

/-! ## Work on the programmes -/

@[simp] theorem State.onProgs_pending (s : State) (f : ProgSide → ProgSide) : (s.onProgs f).pending = s.pending := rfl
@[simp] theorem State.onProgs_powered (s : State) (f : ProgSide → ProgSide) : (s.onProgs f).powered = s.powered := rfl
@[simp] theorem State.onProgs_refu (s : State) (f : ProgSide → ProgSide) : (s.onProgs f).refu = s.refu := rfl
@[simp] theorem State.onProgs_front (s : State) (f : ProgSide → ProgSide) : (s.onProgs f).front = s.front := rfl
@[simp] theorem State.onProgs_pfu (s : State) (f : ProgSide → ProgSide) : (s.onProgs f).pfu = s.pfu := rfl
@[simp] theorem State.onProgs_out (s : State) (f : ProgSide → ProgSide) : (s.onProgs f).out = s.out := rfl
@[simp] theorem State.onProgs_progs (s : State) (f : ProgSide → ProgSide) :
    (s.onProgs f).progs = (f { latencies := s.latencies, progs := s.progs, dmc := s.dmc, panel := s.panel }).progs := rfl
@[simp] theorem State.onProgs_dmc (s : State) (f : ProgSide → ProgSide) :
    (s.onProgs f).dmc = (f { latencies := s.latencies, progs := s.progs, dmc := s.dmc, panel := s.panel }).dmc := rfl
@[simp] theorem State.onProgs_wch (s : State) (f : ProgSide → ProgSide) :
    (s.onProgs f).wch = (f { latencies := s.latencies, progs := s.progs, dmc := s.dmc, panel := s.panel }).panel.wch := rfl
@[simp] theorem State.onProgs_lnk (s : State) (f : ProgSide → ProgSide) :
    (s.onProgs f).lnk = (f { latencies := s.latencies, progs := s.progs, dmc := s.dmc, panel := s.panel }).panel.lnk := rfl

/-! ## The link controller, the transmitter, the queue of commands, replies -/

@[simp] theorem State.transmit_pending (s : State) : s.transmit.pending = s.pending := rfl
@[simp] theorem State.transmit_powered (s : State) : s.transmit.powered = s.powered := rfl
@[simp] theorem State.transmit_refu (s : State) : s.transmit.refu = s.refu := rfl
@[simp] theorem State.transmit_front (s : State) : s.transmit.front = s.front := rfl
@[simp] theorem State.transmit_progs (s : State) : s.transmit.progs = s.progs := rfl
@[simp] theorem State.transmit_dmc (s : State) : s.transmit.dmc = s.dmc := rfl
@[simp] theorem State.transmit_wch (s : State) : s.transmit.wch = s.wch := rfl
@[simp] theorem State.transmit_pfu (s : State) : s.transmit.pfu = s.pfu := rfl
@[simp] theorem State.transmit_out (s : State) : s.transmit.out = s.out := rfl
@[simp] theorem State.transmit_lnk (s : State) : s.transmit.lnk = s.lnk.transmit := rfl
@[simp] theorem State.transmit_lane (s : State) (l : LaneId) : s.transmit.lane l = s.lane l := rfl
@[simp] theorem State.transmit_prog (s : State) (p : ProgId) : s.transmit.prog p = s.prog p := rfl

@[simp] theorem State.onLink_lnk (s : State) (f : Lnk → Lnk) : (s.onLink f).lnk = f s.lnk := rfl
@[simp] theorem State.onLink_pending (s : State) (f : Lnk → Lnk) : (s.onLink f).pending = s.pending := rfl
@[simp] theorem State.onLink_powered (s : State) (f : Lnk → Lnk) : (s.onLink f).powered = s.powered := rfl
@[simp] theorem State.onLink_wch (s : State) (f : Lnk → Lnk) : (s.onLink f).wch = s.wch := rfl
@[simp] theorem State.onLink_progs (s : State) (f : Lnk → Lnk) : (s.onLink f).progs = s.progs := rfl
@[simp] theorem State.onLink_front (s : State) (f : Lnk → Lnk) : (s.onLink f).front = s.front := rfl
@[simp] theorem State.onLink_dmc (s : State) (f : Lnk → Lnk) : (s.onLink f).dmc = s.dmc := rfl
@[simp] theorem State.onLink_refu (s : State) (f : Lnk → Lnk) : (s.onLink f).refu = s.refu := rfl
@[simp] theorem State.onLink_pfu (s : State) (f : Lnk → Lnk) : (s.onLink f).pfu = s.pfu := rfl
@[simp] theorem State.onLink_out (s : State) (f : Lnk → Lnk) : (s.onLink f).out = s.out := rfl

@[simp] theorem State.withPending_pending (s : State) (cs : List Instr) : (s.withPending cs).pending = cs := rfl
@[simp] theorem State.withPending_wch (s : State) (cs : List Instr) : (s.withPending cs).wch = s.wch := rfl
@[simp] theorem State.withPending_lnk (s : State) (cs : List Instr) : (s.withPending cs).lnk = s.lnk := rfl
@[simp] theorem State.withPending_front (s : State) (cs : List Instr) : (s.withPending cs).front = s.front := rfl
@[simp] theorem State.withPending_progs (s : State) (cs : List Instr) : (s.withPending cs).progs = s.progs := rfl
@[simp] theorem State.withPending_dmc (s : State) (cs : List Instr) : (s.withPending cs).dmc = s.dmc := rfl
@[simp] theorem State.withPending_refu (s : State) (cs : List Instr) : (s.withPending cs).refu = s.refu := rfl
@[simp] theorem State.withPending_pfu (s : State) (cs : List Instr) : (s.withPending cs).pfu = s.pfu := rfl
@[simp] theorem State.withPending_lane (s : State) (cs : List Instr) (l : LaneId) : (s.withPending cs).lane l = s.lane l := rfl
@[simp] theorem State.withPending_prog (s : State) (cs : List Instr) (p : ProgId) : (s.withPending cs).prog p = s.prog p := rfl

@[simp] theorem State.reply_wch (s : State) (k t : Byte) (st : Status) (b : ReplyBody) : (s.reply k t st b).wch = s.wch := rfl
@[simp] theorem State.reply_front (s : State) (k t : Byte) (st : Status) (b : ReplyBody) : (s.reply k t st b).front = s.front := rfl
@[simp] theorem State.reply_progs (s : State) (k t : Byte) (st : Status) (b : ReplyBody) : (s.reply k t st b).progs = s.progs := rfl
@[simp] theorem State.reply_dmc (s : State) (k t : Byte) (st : Status) (b : ReplyBody) : (s.reply k t st b).dmc = s.dmc := rfl
@[simp] theorem State.reply_refu (s : State) (k t : Byte) (st : Status) (b : ReplyBody) : (s.reply k t st b).refu = s.refu := rfl
@[simp] theorem State.reply_pfu (s : State) (k t : Byte) (st : Status) (b : ReplyBody) : (s.reply k t st b).pfu = s.pfu := rfl
@[simp] theorem State.reply_out (s : State) (k t : Byte) (st : Status) (b : ReplyBody) : (s.reply k t st b).out = s.out := rfl
@[simp] theorem State.reply_pending (s : State) (k t : Byte) (st : Status) (b : ReplyBody) :
    (s.reply k t st b).pending = s.pending := rfl
@[simp] theorem State.reply_lane (s : State) (k t : Byte) (st : Status) (b : ReplyBody) (l : LaneId) :
    (s.reply k t st b).lane l = s.lane l := rfl
@[simp] theorem State.reply_prog (s : State) (k t : Byte) (st : Status) (b : ReplyBody) (p : ProgId) :
    (s.reply k t st b).prog p = s.prog p := rfl

/-! ## Lanes and programmes in their vectors -/

@[simp] theorem State.setLane_lane_self (s : State) (l : LaneId) (x : Lane) : (s.setLane l x).lane l = x := by
  simp [State.setLane, State.lane]

theorem State.setLane_lane_other (s : State) {l m : LaneId} (x : Lane) (h : m ≠ l) : (s.setLane l x).lane m = s.lane m := by
  have h' : l.val ≠ m.val := fun e => h (Fin.ext e.symm)
  simp [State.setLane, State.lane, h']

@[simp] theorem State.setProg_prog_self (s : State) (p : ProgId) (x : Prog) : (s.setProg p x).prog p = x := by
  simp [State.setProg, State.prog]

theorem State.setProg_prog_other (s : State) {p q : ProgId} (x : Prog) (h : q ≠ p) : (s.setProg p x).prog q = s.prog q := by
  have h' : p.val ≠ q.val := fun e => h (Fin.ext e.symm)
  simp [State.setProg, State.prog, h']

@[simp] theorem LaneSide.modLane_lane_self (v : LaneSide) (l : LaneId) (f : Lane → Lane) : (v.modLane l f).lane l = f (v.lane l) := by
  simp [LaneSide.modLane, LaneSide.lane]

theorem LaneSide.modLane_lane_other (v : LaneSide) {l m : LaneId} (f : Lane → Lane) (h : m ≠ l) :
    (v.modLane l f).lane m = v.lane m := by
  have h' : l.val ≠ m.val := fun e => h (Fin.ext e.symm)
  simp [LaneSide.modLane, LaneSide.lane, h']

@[simp] theorem LaneSide.modConv_lane_self (v : LaneSide) (l : LaneId) (f : Converter → Converter) :
    (v.modConv l f).lane l = { v.lane l with conv := f (v.lane l).conv } := by
  simp [LaneSide.modConv]

theorem LaneSide.modConv_lane_other (v : LaneSide) {l m : LaneId} (f : Converter → Converter) (h : m ≠ l) :
    (v.modConv l f).lane m = v.lane m := v.modLane_lane_other _ h

@[simp] theorem LaneSide.modLane_panel (v : LaneSide) (l : LaneId) (f : Lane → Lane) : (v.modLane l f).panel = v.panel := rfl
@[simp] theorem LaneSide.modLane_admission (v : LaneSide) (l : LaneId) (f : Lane → Lane) :
    (v.modLane l f).front.admission = v.front.admission := rfl
@[simp] theorem LaneSide.modConv_panel (v : LaneSide) (l : LaneId) (f : Converter → Converter) :
    (v.modConv l f).panel = v.panel := rfl
@[simp] theorem LaneSide.modConv_admission (v : LaneSide) (l : LaneId) (f : Converter → Converter) :
    (v.modConv l f).front.admission = v.front.admission := rfl
@[simp] theorem LaneSide.onPanel_front (v : LaneSide) (f : Panel → Panel) : (v.onPanel f).front = v.front := rfl
@[simp] theorem LaneSide.onPanel_lane (v : LaneSide) (f : Panel → Panel) (l : LaneId) : (v.onPanel f).lane l = v.lane l := rfl
@[simp] theorem LaneSide.onPanel_panel (v : LaneSide) (f : Panel → Panel) : (v.onPanel f).panel = f v.panel := rfl
@[simp] theorem LaneSide.leaveQueue_lane (v : LaneSide) (l m : LaneId) : (v.leaveQueue l).lane m = v.lane m := rfl
@[simp] theorem LaneSide.leaveQueue_panel (v : LaneSide) (l : LaneId) : (v.leaveQueue l).panel = v.panel := rfl

@[simp] theorem ProgSide.modProg_prog_self (v : ProgSide) (p : ProgId) (f : Prog → Prog) : (v.modProg p f).prog p = f (v.prog p) := by
  simp [ProgSide.modProg, ProgSide.prog]

theorem ProgSide.modProg_prog_other (v : ProgSide) {p q : ProgId} (f : Prog → Prog) (h : q ≠ p) :
    (v.modProg p f).prog q = v.prog q := by
  have h' : p.val ≠ q.val := fun e => h (Fin.ext e.symm)
  simp [ProgSide.modProg, ProgSide.prog, h']

@[simp] theorem ProgSide.modDelay_prog_self (v : ProgSide) (p : ProgId) (f : DelayRec → DelayRec) :
    (v.modDelay p f).prog p = { v.prog p with delay := f (v.prog p).delay } := by
  simp [ProgSide.modDelay]

theorem ProgSide.modDelay_prog_other (v : ProgSide) {p q : ProgId} (f : DelayRec → DelayRec) (h : q ≠ p) :
    (v.modDelay p f).prog q = v.prog q := v.modProg_prog_other _ h

@[simp] theorem ProgSide.modProg_dmc (v : ProgSide) (p : ProgId) (f : Prog → Prog) : (v.modProg p f).dmc = v.dmc := rfl
@[simp] theorem ProgSide.modProg_panel (v : ProgSide) (p : ProgId) (f : Prog → Prog) : (v.modProg p f).panel = v.panel := rfl
@[simp] theorem ProgSide.modProg_latencies (v : ProgSide) (p : ProgId) (f : Prog → Prog) :
    (v.modProg p f).latencies = v.latencies := rfl
@[simp] theorem ProgSide.modDelay_dmc (v : ProgSide) (p : ProgId) (f : DelayRec → DelayRec) : (v.modDelay p f).dmc = v.dmc := rfl
@[simp] theorem ProgSide.modDelay_panel (v : ProgSide) (p : ProgId) (f : DelayRec → DelayRec) :
    (v.modDelay p f).panel = v.panel := rfl
@[simp] theorem ProgSide.modDelay_latencies (v : ProgSide) (p : ProgId) (f : DelayRec → DelayRec) :
    (v.modDelay p f).latencies = v.latencies := rfl
@[simp] theorem ProgSide.onPanel_progs (v : ProgSide) (f : Panel → Panel) : (v.onPanel f).progs = v.progs := rfl
@[simp] theorem ProgSide.onPanel_prog (v : ProgSide) (f : Panel → Panel) (p : ProgId) : (v.onPanel f).prog p = v.prog p := rfl
@[simp] theorem ProgSide.onPanel_dmc (v : ProgSide) (f : Panel → Panel) : (v.onPanel f).dmc = v.dmc := rfl
@[simp] theorem ProgSide.onPanel_latencies (v : ProgSide) (f : Panel → Panel) : (v.onPanel f).latencies = v.latencies := rfl
@[simp] theorem ProgSide.onPanel_panel (v : ProgSide) (f : Panel → Panel) : (v.onPanel f).panel = f v.panel := rfl

/-- Changing one programme through the programme view is setting it. -/
theorem State.modProg_eq_setProg (s : State) (p : ProgId) (f : Prog → Prog) : s.modProg p f = s.setProg p (f (s.prog p)) := rfl

end Sys2Proof.Machine
end

