-- ==== Sys2Proof/Laws/Link.lean ====
section
/-! SUPPORT. Laws/Link.lean: what taking, answering, joining, sending and choosing can do, each said once. -/
namespace Sys2Proof.Machine

/-! ## Carrying a command out -/

theorem State.carry_on {s : State} (h : s.powered = true) (f : State → State) : s.carry f = .next (f s).transmit := by
  simp [State.carry, h]

theorem State.carry_off {s : State} (h : s.powered = false) (f : State → State) : s.carry f = .next s := by
  simp [State.carry, h]

/-! ## Taking a request -/

/-- A request of the block's kind, taken after the load: its block judges and acts, and the reply is formed. -/
theorem State.carry_take {s : State} {kind tag : Byte} {body : List Byte} (h : s.Takes kind tag body) {ofKind : Byte → Bool}
    (hk : ofKind kind = true) (inLoad : Bool) (act : List Byte → State → Answer) :
    s.carry (State.takeRequest ofKind inLoad act)
      = .next (answerRequest { kind := kind, tag := tag, body := body, reply := none } (act body s)).transmit := by
  obtain ⟨h1, h2, h3⟩ := h
  simp [State.carry, h1, State.takeRequest, h3, hk, h2]

/-- STATUS and PROFILE_INFO are taken during the load too. -/
theorem State.carry_take_in_load {s : State} {kind tag : Byte} {body : List Byte} (hp : s.powered = true)
    (hn : s.nextRequest = some { kind := kind, tag := tag, body := body, reply := none }) {ofKind : Byte → Bool}
    (hk : ofKind kind = true) (act : List Byte → State → Answer) :
    s.carry (State.takeRequest ofKind true act)
      = .next (answerRequest { kind := kind, tag := tag, body := body, reply := none } (act body s)).transmit := by
  simp [State.carry, hp, State.takeRequest, hn, hk]

/-- With no request waiting, or one of another kind, nothing is taken. -/
theorem State.takeRequest_other {s : State} {ofKind : Byte → Bool} (h : ∀ r, s.nextRequest = some r → ofKind r.kind = false)
    (inLoad : Bool) (act : List Byte → State → Answer) : State.takeRequest ofKind inLoad act s = s := by
  unfold State.takeRequest
  split
  · rfl
  · rw [if_neg (by simp [h _ ‹_›])]

/-- No request is taken once RESTART has been. -/
theorem State.restart_of_nextRequest {s : State} {r : Request} (h : s.nextRequest = some r) : s.lnk.restart = .none := by
  unfold State.nextRequest at h
  split at h
  · assumption
  · simp at h

/-- An answer that leaves RESTART alone is the reply, and the transmitter chooses. -/
theorem answerRequest_transmit (kind tag : Byte) (body : List Byte) (st : Status) (b : ReplyBody) {t : State}
    (h : t.lnk.restart = .none) :
    (answerRequest { kind := kind, tag := tag, body := body, reply := none } (st, b, t)).transmit = t.reply kind tag st b := by
  have hr : (RestartState.none == RestartState.taken) = false := by decide
  simp [answerRequest, State.transmit, State.reply, Lnk.answered, h, hr]

/-- A request taken whose block leaves the link's restart alone. -/
theorem State.carry_take_reply {s : State} {kind tag : Byte} {body : List Byte} (h : s.Takes kind tag body)
    {ofKind : Byte → Bool} (hk : ofKind kind = true) (inLoad : Bool) {act : List Byte → State → Answer} {st : Status}
    {b : ReplyBody} {t : State} (ha : act body s = (st, b, t)) (ht : t.lnk.restart = .none) :
    s.carry (State.takeRequest ofKind inLoad act) = .next (t.reply kind tag st b) := by
  rw [State.carry_take h hk, ha, answerRequest_transmit _ _ _ _ _ ht]

theorem answerFirst_length (r : Reply) (q : List Request) : (answerFirst r q).length = q.length := by
  induction q with
  | nil => rfl
  | cons x q ih => simp only [answerFirst]; split <;> simp [ih]

/-! ## The transmitter -/

/-- Choosing leaves everything but what the transmitter sends, the credit and the notice queue. -/
theorem Lnk.choose_frame (l : Lnk) : l.choose = { l with
    tx := l.choose.tx, credit := l.choose.credit, notices := l.choose.notices } := by
  unfold Lnk.choose
  split
  · split <;> rfl
  · rfl
  · rfl
  · split
    · rfl
    · split <;> rfl

theorem Lnk.transmit_frame (l : Lnk) : l.transmit = { l with
    tx := l.transmit.tx, credit := l.transmit.credit, notices := l.transmit.notices } := by
  unfold Lnk.transmit
  split
  · rfl
  · exact l.choose_frame

@[simp] theorem Lnk.transmit_requests (l : Lnk) : l.transmit.requests = l.requests := by rw [l.transmit_frame]
@[simp] theorem Lnk.transmit_busy (l : Lnk) : l.transmit.busy = l.busy := by rw [l.transmit_frame]
@[simp] theorem Lnk.transmit_restart (l : Lnk) : l.transmit.restart = l.restart := by rw [l.transmit_frame]
@[simp] theorem Lnk.transmit_loss (l : Lnk) : l.transmit.loss = l.loss := by rw [l.transmit_frame]
@[simp] theorem Lnk.transmit_frameErrors (l : Lnk) : l.transmit.frameErrors = l.frameErrors := by rw [l.transmit_frame]
@[simp] theorem Lnk.transmit_lineRate (l : Lnk) : l.transmit.lineRate = l.lineRate := by rw [l.transmit_frame]
@[simp] theorem Lnk.transmit_rx (l : Lnk) : l.transmit.rx = l.rx := by rw [l.transmit_frame]
@[simp] theorem Lnk.transmit_formed (l : Lnk) : l.transmit.formed = l.formed := by rw [l.transmit_frame]

theorem firstInSendOrder_mem {q : List Notice} {n : Notice} (h : firstInSendOrder q = some n) : n ∈ q := by
  induction q generalizing n with
  | nil => simp [firstInSendOrder] at h
  | cons x q ih =>
    simp only [firstInSendOrder] at h
    split at h
    · simp_all
    · rename_i m hm
      split at h <;> simp_all

/-- Choosing takes at most one notice from the queue, keeping the order of the rest. -/
theorem Lnk.choose_notices (l : Lnk) : l.choose.notices.Sublist l.notices := by
  unfold Lnk.choose
  split
  · split <;> exact List.Sublist.refl _
  · exact List.Sublist.refl _
  · exact List.Sublist.refl _
  · split
    · exact List.Sublist.refl _
    · split
      · exact List.Sublist.refl _
      · exact List.erase_sublist

theorem Lnk.transmit_notices (l : Lnk) : l.transmit.notices.Sublist l.notices := by
  unfold Lnk.transmit
  split
  · exact List.Sublist.refl _
  · exact l.choose_notices

theorem Lnk.transmit_credit (l : Lnk) : l.transmit.credit ≤ l.credit := by
  unfold Lnk.transmit Lnk.choose
  repeat' split
  all_goals simp

/-! ## The receiver -/

/-- A request received whole: what becomes of it (R176). -/
theorem Lnk.join_bounds {l : Lnk} (r : Request) (h1 : l.requests.length ≤ 8) (h2 : l.busy.length ≤ 8)
    (h3 : l.frameErrors ≤ 65535) :
    (l.join r).requests.length ≤ 8 ∧ (l.join r).busy.length ≤ 8 ∧ (l.join r).frameErrors ≤ 65535
      ∧ (l.join r).credit = l.credit ∧ (l.join r).loss = l.loss ∧ (l.join r).notices = l.notices := by
  by_cases hr : l.requests.length < 8
  · simp [Lnk.join, Config.requestPlaces, hr]; omega
  · by_cases hb : l.busy.length < 8
    · simp [Lnk.join, Config.requestPlaces, hr, hb]; omega
    · simp [Lnk.join, Config.requestPlaces, hr, hb, satSucc]; omega

end Sys2Proof.Machine
end

