-- ==== Sys2Proof/Laws/Panel.lean ====
section
/-! SUPPORT. Laws/Panel.lean: what the shared operations on alarms, notices and watches leave alone. -/
namespace Sys2Proof.Machine

/-! ## The notice queue -/

/-- Every notice queued after an offer was queued before or is the one offered. -/
theorem mem_offerTo {q : List Notice} {n m : Notice} (h : m ∈ (offerTo q n).1) : m ∈ q ∨ m = n := by
  unfold offerTo at h
  split at h
  · obtain ⟨x, hx, rfl⟩ := List.mem_map.1 h
    split <;> simp_all
  · split at h
    · simpa using h
    · split at h
      · rcases List.mem_append.1 h with h | h
        · exact .inl (List.mem_of_mem_eraseP h)
        · exact .inr (by simpa using h)
      · split at h
        · exact .inl h
        · dsimp only at h
          split at h
          · rcases List.mem_append.1 h with h | h
            · exact .inl (List.mem_of_mem_eraseP h)
            · exact .inr (by simpa using h)
          · exact .inl h

/-- What an offer does to the link controller: the queue takes the notice as it can, and an idle transmitter chooses. -/
theorem Panel.enqueue_lnk (n : Notice) (v : Panel) :
    (v.enqueue n).1.lnk = ({ v.lnk with notices := (offerTo v.lnk.notices n).1 } : Lnk).transmit := rfl

/-- Every notice queued after an offer was queued before or is the one offered. -/
theorem Panel.mem_enqueue {n m : Notice} {v : Panel} (h : m ∈ (v.enqueue n).1.lnk.notices) : m ∈ v.lnk.notices ∨ m = n := by
  rw [Panel.enqueue_lnk] at h
  exact mem_offerTo ((Lnk.transmit_notices _).subset h)

@[simp] theorem Panel.enqueue_wch (n : Notice) (v : Panel) : (v.enqueue n).1.wch = v.wch := rfl
@[simp] theorem Panel.enqueue_now (n : Notice) (v : Panel) : (v.enqueue n).1.now = v.now := rfl

/-- What is left alone of the panel by every operation that only reports. -/
structure Panel.Kept (v w : Panel) : Prop where
  now : w.now = v.now
  watches : w.wch.watches = v.wch.watches
  majorLevel : w.wch.majorLevel = v.wch.majorLevel
  freeze : w.wch.freeze = v.wch.freeze
  selected : w.wch.selected = v.wch.selected
  follow : w.wch.follow = v.wch.follow
  lineRate : w.lnk.lineRate = v.lnk.lineRate
  rx : w.lnk.rx = v.lnk.rx
  frameErrors : w.lnk.frameErrors = v.lnk.frameErrors
  requests : w.lnk.requests = v.lnk.requests
  busy : w.lnk.busy = v.lnk.busy
  formed : w.lnk.formed = v.lnk.formed
  restart : w.lnk.restart = v.lnk.restart
  credit : w.lnk.credit ≤ v.lnk.credit

theorem Panel.Kept.refl (v : Panel) : v.Kept v := ⟨rfl, rfl, rfl, rfl, rfl, rfl, rfl, rfl, rfl, rfl, rfl, rfl, rfl, le_rfl⟩

theorem Panel.Kept.trans {u v w : Panel} (a : u.Kept v) (b : v.Kept w) : u.Kept w :=
  ⟨b.now.trans a.now, b.watches.trans a.watches, b.majorLevel.trans a.majorLevel, b.freeze.trans a.freeze,
    b.selected.trans a.selected, b.follow.trans a.follow, b.lineRate.trans a.lineRate, b.rx.trans a.rx,
    b.frameErrors.trans a.frameErrors, b.requests.trans a.requests, b.busy.trans a.busy, b.formed.trans a.formed,
    b.restart.trans a.restart, b.credit.trans a.credit⟩

theorem Panel.setTable_kept (t : List AlarmEntry) (v : Panel) : v.Kept (v.setTable t) :=
  ⟨rfl, rfl, rfl, rfl, rfl, rfl, rfl, rfl, rfl, rfl, rfl, rfl, rfl, le_rfl⟩

theorem Panel.countLoss_kept (v : Panel) : v.Kept v.countLoss :=
  ⟨rfl, rfl, rfl, rfl, rfl, rfl, rfl, rfl, rfl, rfl, rfl, rfl, rfl, le_rfl⟩

theorem Panel.enqueue_kept (n : Notice) (v : Panel) : v.Kept (v.enqueue n).1 := by
  refine ⟨rfl, rfl, rfl, rfl, rfl, rfl, ?_, ?_, ?_, ?_, ?_, ?_, ?_, Lnk.transmit_credit _⟩ <;> simp [Panel.enqueue_lnk]

theorem Panel.noteLoss_kept (v : Panel) : v.Kept v.noteLoss := by
  unfold Panel.noteLoss
  dsimp only
  split
  · exact v.countLoss_kept
  · split
    · exact ((v.countLoss_kept.trans (Panel.setTable_kept _ _)).trans (Panel.enqueue_kept _ _)).trans (Panel.countLoss_kept _)
    · exact (v.countLoss_kept.trans (Panel.setTable_kept _ _)).trans (Panel.enqueue_kept _ _)

theorem Panel.offer_kept (n : Notice) (v : Panel) : v.Kept (v.offer n) := by
  unfold Panel.offer
  dsimp only
  split
  · exact (v.enqueue_kept n).trans (Panel.noteLoss_kept _)
  · exact v.enqueue_kept n

theorem Panel.raiseEntry_kept (e : AlarmEntry) (v : Panel) : v.Kept (v.raiseEntry e) := by
  unfold Panel.raiseEntry
  split
  · exact Panel.Kept.refl v
  · exact (v.setTable_kept _).trans (Panel.offer_kept _ _)

theorem Panel.raise_kept (id : AlarmId) (v : Panel) : v.Kept (v.raise id) := v.raiseEntry_kept _

theorem Panel.clear_kept (id : AlarmId) (v : Panel) : v.Kept (v.clear id) := by
  unfold Panel.clear
  split
  · exact Panel.Kept.refl v
  · exact (v.setTable_kept _).trans (Panel.offer_kept _ _)

theorem Panel.acknowledge_kept (id : AlarmId) (v : Panel) : v.Kept (v.acknowledge id) := by
  unfold Panel.acknowledge
  split
  · exact Panel.Kept.refl v
  · split
    · exact Panel.Kept.refl v
    · exact (v.setTable_kept _).trans (Panel.offer_kept _ _)

/-! ## Which alarms are raised -/

@[simp] theorem Panel.setTable_isRaised (t : List AlarmEntry) (v : Panel) (id : AlarmId) :
    (v.setTable t).wch.isRaised id = t.any fun e => e.id == id := rfl

@[simp] theorem Panel.countLoss_isRaised (v : Panel) (id : AlarmId) : v.countLoss.wch.isRaised id = v.wch.isRaised id := rfl

/-- Reporting can raise NOTICE_LOSS and no other alarm. -/
theorem Panel.offer_isRaised (n : Notice) (v : Panel) {id : AlarmId} (h : id ≠ .noticeLoss) :
    (v.offer n).wch.isRaised id = v.wch.isRaised id := by
  have key (w : Panel) : w.noteLoss.wch.isRaised id = w.wch.isRaised id := by
    unfold Panel.noteLoss
    dsimp only
    split
    · rfl
    · split <;>
        simp [Panel.countLoss, Panel.enqueue, Panel.setTable, Wch.followTable, Wch.settleLines, Wch.decideMonitor, Wch.isRaised,
          h.symm]
  unfold Panel.offer
  dsimp only
  split
  · rw [key]; rfl
  · rfl

/-- A raised alarm stays raised when anything is reported. -/
theorem Panel.offer_isRaised_mono (n : Notice) (v : Panel) (id : AlarmId) (h : v.wch.isRaised id = true) :
    (v.offer n).wch.isRaised id = true := by
  have key (w : Panel) (hw : w.wch.isRaised id = true) : w.noteLoss.wch.isRaised id = true := by
    unfold Panel.noteLoss
    dsimp only
    split
    · exact hw
    · have hw' : ∃ x ∈ w.wch.table, x.id = id := by simpa [Wch.isRaised] using hw
      split <;>
        simpa [Panel.countLoss, Panel.enqueue, Panel.setTable, Wch.followTable, Wch.settleLines, Wch.decideMonitor, Wch.isRaised]
          using .inl hw'
  unfold Panel.offer
  dsimp only
  split
  · exact key _ h
  · exact h

theorem Panel.raise_isRaised (id : AlarmId) (v : Panel) : (v.raise id).wch.isRaised id = true := by
  unfold Panel.raise Panel.raiseEntry
  split
  · assumption
  · exact Panel.offer_isRaised_mono _ _ _ (by simp)

theorem Panel.raise_isRaised_other (id : AlarmId) (v : Panel) {o : AlarmId} (h : o ≠ id) (hn : o ≠ .noticeLoss) :
    (v.raise id).wch.isRaised o = v.wch.isRaised o := by
  unfold Panel.raise Panel.raiseEntry
  split
  · rfl
  · rw [Panel.offer_isRaised _ _ hn]
    rw [Panel.setTable_isRaised]
    simp [Wch.isRaised, h.symm]

/-- Clearing an alarm leaves it clear; the report can raise only NOTICE_LOSS. -/
theorem Panel.clear_isRaised (id : AlarmId) (v : Panel) (hn : id ≠ .noticeLoss) : (v.clear id).wch.isRaised id = false := by
  unfold Panel.clear
  split
  · have h : v.wch.entry? id = none := ‹_›
    simpa [Wch.entry?, Wch.isRaised] using h
  · rw [Panel.offer_isRaised _ _ hn]
    simp

theorem Panel.clear_isRaised_other (id : AlarmId) (v : Panel) {o : AlarmId} (h : o ≠ id) (hn : o ≠ .noticeLoss) :
    (v.clear id).wch.isRaised o = v.wch.isRaised o := by
  unfold Panel.clear
  split
  · rfl
  · rw [Panel.offer_isRaised _ _ hn]
    rw [Panel.setTable_isRaised, List.any_filter, Wch.isRaised]
    congr 1
    funext e
    by_cases he : e.id = o
    · simp [he, h]
    · simp [he]

/-! ## Observations -/

/-- Taking the records of the watches aside, an observation leaves of the panel what a report does. -/
theorem Panel.watchObserve_now (o : WatchObject) (vs : Measure → Option Int) (v : Panel) (w : WatchId) :
    (v.watchObserve o vs w).now = v.now := by
  unfold Panel.watchObserve
  dsimp only
  split
  · split
    · rfl
    · split
      · rfl
      · exact (Panel.raiseEntry_kept _ _).now
      · exact (Panel.clear_kept _ _).now
  · rfl

theorem Panel.observe_now (o : WatchObject) (vs : Measure → Option Int) (v : Panel) : (v.observe o vs).now = v.now := by
  unfold Panel.observe
  generalize allWatches = ws
  induction ws generalizing v with
  | nil => rfl
  | cons w ws ih => rw [List.foldl_cons, ih, Panel.watchObserve_now]

end Sys2Proof.Machine
end

