-- ==== Sys2Proof/Laws/Lanes.lean ====
section
/-! SUPPORT. Laws/Lanes.lean: what the conversion engine's operations leave alone: of every lane all but its state and its converter,
and of the panel all that a report leaves. -/
namespace Sys2Proof.Machine

/-- The second view differs from the first, lane by lane, only in states and converters, and in its panel only by reports. -/
structure LaneSide.EngineOnly (v w : LaneSide) : Prop where
  lanes : ∀ m, w.lane m = { v.lane m with state := (w.lane m).state, conv := (w.lane m).conv }
  panel : v.panel.Kept w.panel

namespace LaneSide.EngineOnly

theorem refl (v : LaneSide) : v.EngineOnly v := ⟨fun _ => rfl, Panel.Kept.refl _⟩

theorem trans {u v w : LaneSide} (a : u.EngineOnly v) (b : v.EngineOnly w) : u.EngineOnly w :=
  ⟨fun m => by rw [b.lanes m, a.lanes m], a.panel.trans b.panel⟩

/-- A change of one lane's state and converter. -/
theorem modLane (v : LaneSide) (l : LaneId) (f : Lane → Lane) (h : ∀ x, f x = { x with state := (f x).state, conv := (f x).conv }) :
    v.EngineOnly (v.modLane l f) := by
  refine ⟨fun m => ?_, Panel.Kept.refl _⟩
  by_cases e : m = l
  · subst e; rw [LaneSide.modLane_lane_self]; exact h _
  · rw [LaneSide.modLane_lane_other _ _ e]

theorem modConv (v : LaneSide) (l : LaneId) (f : Converter → Converter) : v.EngineOnly (v.modConv l f) :=
  modLane v l _ fun _ => rfl

theorem onPanel (v : LaneSide) (f : Panel → Panel) (h : v.panel.Kept (f v.panel)) : v.EngineOnly (v.onPanel f) := ⟨fun _ => rfl, h⟩

theorem queue (v : LaneSide) (q : List LaneId) : v.EngineOnly { v with front := { v.front with admission := q } } :=
  ⟨fun _ => rfl, Panel.Kept.refl _⟩

theorem foldl {α : Type} (f : LaneSide → α → LaneSide) (h : ∀ (v : LaneSide) (a : α), v.EngineOnly (f v a)) (xs : List α) (v : LaneSide) :
    v.EngineOnly (xs.foldl f v) := by
  induction xs generalizing v with
  | nil => exact refl v
  | cons x xs ih => exact (h v x).trans (ih _)

theorem regrant (v : LaneSide) (l : LaneId) (m : ConvMode) : v.EngineOnly (v.regrant l m) := modConv v l _

theorem noticeLane (v : LaneSide) (l : LaneId) (left : LaneState) : v.EngineOnly (v.noticeLane l left) :=
  onPanel v _ (Panel.offer_kept _ _)

theorem enterRunning (v : LaneSide) (l : LaneId) (m : ConvMode) : v.EngineOnly (v.enterRunning l m) :=
  ((modLane v l _ fun _ => rfl).trans (noticeLane _ _ _)).trans (onPanel _ _ (Panel.clear_kept _ _))

theorem grant (v : LaneSide) (l : LaneId) (m : ConvMode) : v.EngineOnly (v.grant l m) := by
  unfold LaneSide.grant; split
  · exact enterRunning v l m
  · exact regrant v l m

theorem downgrade (need : Nat) (ds : List LaneId) (v : LaneSide) : v.EngineOnly (v.downgrade need ds) := by
  induction ds generalizing v with
  | nil => exact refl v
  | cons d ds ih =>
    unfold LaneSide.downgrade
    split
    · exact refl v
    · split
      · exact (regrant v d _).trans (ih _)
      · exact ih v

theorem waitForBudget (v : LaneSide) (l : LaneId) : v.EngineOnly (v.waitForBudget l) := by
  unfold LaneSide.waitForBudget
  split
  · exact (modConv v l _).trans (queue _ _)
  · exact queue v _

theorem ask (v : LaneSide) (l : LaneId) : v.EngineOnly (v.ask l) := by
  unfold LaneSide.ask
  dsimp only
  split
  · exact grant v l _
  · split
    · exact (downgrade _ _ v).trans (grant _ l _)
    · exact (downgrade _ _ v).trans (waitForBudget _ l)

theorem leaveQueue (v : LaneSide) (l : LaneId) : v.EngineOnly (v.leaveQueue l) := queue v _

theorem serve (v : LaneSide) (l : LaneId) : v.EngineOnly (v.serve l) := by
  unfold LaneSide.serve
  dsimp only
  split
  · exact refl v
  · split
    · exact (leaveQueue v l).trans (enterRunning _ l _)
    · exact ((leaveQueue v l).trans (modConv _ l _)).trans (regrant _ l _)

theorem upgrade (v : LaneSide) (l : LaneId) : v.EngineOnly (v.upgrade l) := by
  unfold LaneSide.upgrade
  dsimp only
  split
  · exact regrant v l _
  · exact refl v

theorem upgradePass (v : LaneSide) : v.EngineOnly v.upgradePass := foldl _ upgrade _ v

theorem release (v : LaneSide) : v.EngineOnly v.release := (foldl _ serve _ v).trans (upgradePass _)

theorem leaveEngine (v : LaneSide) (l : LaneId) (was : LaneState) (cost : Nat) : v.EngineOnly (v.leaveEngine l was cost) := by
  unfold LaneSide.leaveEngine
  split
  · have h := ((modConv v l Converter.cleared).trans (onPanel _ _ (Panel.clear_kept (.slip l) _))).trans (leaveQueue _ l)
    dsimp only
    split
    · exact h.trans (release _)
    · exact h
  · exact leaveQueue v l
  · exact refl v

theorem leaveBypass (v : LaneSide) (l : LaneId) : v.EngineOnly (v.leaveBypass l) := ask v l

theorem fillMoved (v : LaneSide) (l : LaneId) : v.EngineOnly (v.fillMoved l) := by
  unfold LaneSide.fillMoved
  dsimp only
  have h (u : LaneSide) : u.EngineOnly (if (v.lane l).judgesExit = true ∧ ((v.lane l).conv.fill < 96 ∨ 160 < (v.lane l).conv.fill)
      then u.leaveBypass l else u) := by
    split
    · exact leaveBypass u l
    · exact refl u
  refine trans ?_ (h _)
  split
  · exact modConv v l _
  · exact refl v

theorem enterBypass (v : LaneSide) (l : LaneId) : v.EngineOnly (v.enterBypass l) := by
  unfold LaneSide.enterBypass
  dsimp only
  split
  · exact (regrant v l _).trans (release _)
  · exact (regrant v l _).trans (release _)
  · split
    · exact (modConv v l _).trans (leaveQueue _ l)
    · exact refl v
  · exact refl v

theorem judgeBypass (v : LaneSide) (l : LaneId) (count : Nat) : v.EngineOnly (v.judgeBypass l count) := by
  unfold LaneSide.judgeBypass
  dsimp only
  have h (u : LaneSide) : u.EngineOnly (if (u.lane l).eligible = true then u.enterBypass l else u) := by
    split
    · exact enterBypass u l
    · exact refl u
  refine trans ?_ (h _)
  split
  · exact leaveBypass v l
  · exact refl v

theorem settleSlips (v : LaneSide) (l : LaneId) : v.EngineOnly (v.settleSlips l) := by
  unfold LaneSide.settleSlips
  dsimp only
  generalize (if (v.lane l).conv.slipsInGate = 0 then satSucc 50 (v.lane l).conv.gatesSinceSlip else 0) = n
  split
  · exact (modConv v l _).trans (onPanel _ _ (Panel.clear_kept _ _))
  · exact modConv v l _

theorem slip (v : LaneSide) (l : LaneId) : v.EngineOnly (v.slip l) :=
  (modConv v l _).trans (onPanel _ _ (Panel.raise_kept _ _))

end LaneSide.EngineOnly

/-- The lane latency changes only at a faded point. -/
theorem LaneSide.EngineOnly.latency {v w : LaneSide} (h : v.EngineOnly w) (m : LaneId) : (w.lane m).latency = (v.lane m).latency := by
  rw [h.lanes m]

theorem LaneSide.EngineOnly.settings {v w : LaneSide} (h : v.EngineOnly w) (m : LaneId) : (w.lane m).settings = (v.lane m).settings := by
  rw [h.lanes m]

theorem LaneSide.EngineOnly.gauge {v w : LaneSide} (h : v.EngineOnly w) (m : LaneId) : (w.lane m).gauge = (v.lane m).gauge := by
  rw [h.lanes m]

theorem LaneSide.EngineOnly.active {v w : LaneSide} (h : v.EngineOnly w) (m : LaneId) : (w.lane m).active = (v.lane m).active := by
  rw [h.lanes m]

end Sys2Proof.Machine
end

