-- ==== Sys2Proof/Laws/Rings.lean ====
section
/-! SUPPORT. Laws/Rings.lean: what the delay memory controller's operations do to chains, to the free list and to the members they
resize. -/
namespace Sys2Proof.Machine

/-! ## The write point -/

@[simp] theorem Ring.advance_pages (r : Ring) : r.advance.pages = r.pages := by
  unfold Ring.advance Ring.pages
  split
  · rfl
  · split <;> simp_all

@[simp] theorem Ring.advance_capacity (r : Ring) : r.advance.capacity = r.capacity := by simp [Ring.capacity]

@[simp] theorem Ring.advance_historyStart (r : Ring) : r.advance.historyStart = r.historyStart := by
  unfold Ring.advance
  split
  · rfl
  · split <;> rfl

/-- Advancing turns the chain and changes no page of it. -/
theorem Ring.advance_chain_perm (r : Ring) : r.advance.chain.Perm r.chain := by
  unfold Ring.advance Ring.chain
  split
  · exact List.Perm.refl _
  · split
    · rename_i h; rw [h]
    · rename_i a l h
      rw [h]
      show (a :: (l ++ [r.writePage])).Perm (r.writePage :: a :: l)
      have : (a :: (l ++ [r.writePage])).Perm ([r.writePage] ++ (a :: l)) := by
        simpa using List.perm_append_comm (l₁ := a :: l) (l₂ := [r.writePage])
      simpa using this

/-! ## Splices and trims -/

/-- A splice moves pages from the free list into the chain. -/
theorem Dmc.splice_perm (d : Dmc) (j : Nat) (newest : Int) (r : Ring) :
    ((d.splice j newest r).1.free ++ (d.splice j newest r).2.chain).Perm (d.free ++ r.chain) := by
  simp only [Dmc.splice]
  split
  · exact List.Perm.refl _
  · show (d.free.drop j ++ r.writePage :: (d.free.take j ++ r.rest)).Perm (d.free ++ r.writePage :: r.rest)
    calc (d.free.drop j ++ r.writePage :: (d.free.take j ++ r.rest)).Perm
          (r.writePage :: (d.free.drop j ++ (d.free.take j ++ r.rest))) := List.perm_middle
      _ |>.Perm (r.writePage :: (d.free ++ r.rest)) := by
          refine List.Perm.cons _ ?_
          rw [← List.append_assoc]
          refine List.Perm.append_right _ ?_
          simpa using (List.perm_append_comm (l₁ := d.free.drop j) (l₂ := d.free.take j))
      _ |>.Perm (d.free ++ r.writePage :: r.rest) := List.perm_middle.symm

/-- A trim moves pages from the chain to the free list. -/
theorem Dmc.trim_perm (d : Dmc) (j : Nat) (r : Ring) :
    ((d.trim j r).1.free ++ (d.trim j r).2.chain).Perm (d.free ++ r.chain) := by
  simp only [Dmc.trim]
  split
  · exact List.Perm.refl _
  · show (d.free ++ r.rest.take j ++ r.writePage :: r.rest.drop j).Perm (d.free ++ r.writePage :: r.rest)
    rw [List.append_assoc]
    refine List.Perm.append_left _ ?_
    calc (r.rest.take j ++ r.writePage :: r.rest.drop j).Perm (r.writePage :: (r.rest.take j ++ r.rest.drop j)) :=
          List.perm_middle
      _ |>.Perm (r.writePage :: r.rest) := by simp

theorem Dmc.resizeRing_perm (d : Dmc) (k : Nat) (newest : Int) (r : Ring) :
    ((d.resizeRing k newest r).1.free ++ (d.resizeRing k newest r).2.chain).Perm (d.free ++ r.chain) := by
  unfold Dmc.resizeRing
  split
  · exact d.splice_perm _ _ _
  · split
    · exact d.trim_perm _ _
    · exact List.Perm.refl _

/-- Resizing moves pages between the free list and the rings, and loses and makes none. -/
theorem Dmc.resizeMembers_perm (d : Dmc) (k : Nat) (newest : Int) (ms : List Member) :
    ((Dmc.resizeMembers k newest d ms).1.free ++ (Dmc.resizeMembers k newest d ms).2.flatMap Member.pages).Perm
      (d.free ++ ms.flatMap Member.pages) := by
  induction ms generalizing d with
  | nil => exact List.Perm.refl _
  | cons m ms ih =>
    have one : ((d.resizeMember k newest m).1.free ++ (d.resizeMember k newest m).2.pages).Perm (d.free ++ m.pages) := by
      unfold Dmc.resizeMember Member.pages
      split
      · rename_i h; simp [h]
      · rename_i r h; simpa [h] using d.resizeRing_perm k newest r
    simp only [Dmc.resizeMembers, List.flatMap_cons]
    generalize d.resizeMember k newest m = q at one ⊢
    calc ((Dmc.resizeMembers k newest q.1 ms).1.free ++ (q.2.pages ++ (Dmc.resizeMembers k newest q.1 ms).2.flatMap Member.pages)).Perm
          (q.2.pages ++ ((Dmc.resizeMembers k newest q.1 ms).1.free ++ (Dmc.resizeMembers k newest q.1 ms).2.flatMap Member.pages)) := by
          rw [← List.append_assoc, ← List.append_assoc]
          exact List.Perm.append_right _ List.perm_append_comm
      _ |>.Perm (q.2.pages ++ (q.1.free ++ ms.flatMap Member.pages)) := List.Perm.append_left _ (ih q.1)
      _ |>.Perm (q.1.free ++ q.2.pages ++ ms.flatMap Member.pages) := by
          rw [← List.append_assoc]
          exact List.Perm.append_right _ List.perm_append_comm
      _ |>.Perm (d.free ++ m.pages ++ ms.flatMap Member.pages) := List.Perm.append_right _ one
      _ |>.Perm (d.free ++ (m.pages ++ ms.flatMap Member.pages)) := by rw [List.append_assoc]

/-- Resizing changes a member's ring and nothing else of it. -/
theorem Dmc.resizeMembers_members (d : Dmc) (k : Nat) (newest : Int) (ms : List Member) :
    (Dmc.resizeMembers k newest d ms).2.map (fun m => { m with ring := none }) = ms.map fun m => { m with ring := none } := by
  induction ms generalizing d with
  | nil => rfl
  | cons m ms ih =>
    simp only [Dmc.resizeMembers, List.map_cons, ih]
    congr 1
    unfold Dmc.resizeMember
    split <;> rfl

@[simp] theorem Dmc.splice_wait (d : Dmc) (j : Nat) (newest : Int) (r : Ring) : (d.splice j newest r).1.wait = d.wait := by
  simp only [Dmc.splice]; split <;> rfl

@[simp] theorem Dmc.trim_wait (d : Dmc) (j : Nat) (r : Ring) : (d.trim j r).1.wait = d.wait := by
  simp only [Dmc.trim]; split <;> rfl

@[simp] theorem Dmc.resizeRing_wait (d : Dmc) (k : Nat) (newest : Int) (r : Ring) : (d.resizeRing k newest r).1.wait = d.wait := by
  unfold Dmc.resizeRing
  split
  · exact d.splice_wait _ _ _
  · split
    · exact d.trim_wait _ _
    · rfl

@[simp] theorem Dmc.resizeMembers_wait (d : Dmc) (k : Nat) (newest : Int) (ms : List Member) :
    (Dmc.resizeMembers k newest d ms).1.wait = d.wait := by
  induction ms generalizing d with
  | nil => rfl
  | cons m ms ih =>
    simp only [Dmc.resizeMembers, ih]
    unfold Dmc.resizeMember
    split
    · rfl
    · exact d.resizeRing_wait _ _ _

/-! ## Creation and dissolution -/

/-- Creating rings moves pages from the free list into them: the members held none before. -/
theorem Dmc.createRings_perm (p : Nat) (d : Dmc) (ms : List Member) :
    ((Dmc.createRings p d ms).1.free ++ (Dmc.createRings p d ms).2.flatMap Member.pages).Perm d.free := by
  induction ms generalizing d with
  | nil => simp [Dmc.createRings]
  | cons m ms ih =>
    have h := ih { d with free := d.free.drop p }
    have e : d.free.take p ++ d.free.drop p = d.free := by simp
    simp only [Dmc.createRings, List.flatMap_cons]
    generalize Dmc.createRings p { d with free := d.free.drop p } ms = q at h ⊢
    cases ht : d.free.take p with
    | nil =>
      rw [ht, List.nil_append] at e
      rw [e] at h
      simpa [Member.pages] using h
    | cons a l =>
      simp only [Member.pages, Option.map_some, Option.getD_some, Ring.chain]
      refine (List.Perm.trans ?_ (List.Perm.append_left (a :: l) h)).trans (by rw [← ht, e])
      rw [← List.append_assoc, ← List.append_assoc]
      exact List.Perm.append_right _ List.perm_append_comm

@[simp] theorem Dmc.createRings_wait (p : Nat) (d : Dmc) (ms : List Member) : (Dmc.createRings p d ms).1.wait = d.wait := by
  induction ms generalizing d with
  | nil => rfl
  | cons m ms ih => exact ih _

/-- What a dissolved ring gives back is its chain. -/
theorem Member.givenBack_perm (m : Member) : m.givenBack.Perm m.pages := by
  unfold Member.givenBack Member.pages
  split
  · rename_i h; simp [h]
  · rename_i r h
    simp [h, Ring.chain]

/-- Moving the delay changes taps and the current delay alone. -/
theorem Prog.moveDelay_pages (d : Nat) (x : Prog) : (x.moveDelay d).members.flatMap Member.pages = x.members.flatMap Member.pages := by
  unfold Prog.moveDelay
  induction x.members with
  | nil => rfl
  | cons m ms ih => simpa [Member.pages] using ih

end Sys2Proof.Machine
end

