-- ==== Sys2Proof/WellFormed.lean ====
section
/-! DEFINITION. WellFormed.lean: which commands describe something that can happen at the part's edge. `exec` answers for every
command; these checks say which operands the spec's own words admit. -/
namespace Sys2Proof

/-- A whole frame is 7 bytes and a body of 0 to 1024 (R174), and opens with the sync byte. -/
def wholeFrameForm (bytes : List Byte) : Bool :=
  decide (7 ≤ bytes.length) && decide (bytes.length ≤ 1031) && bytes.head? == some 0x7E#8

/-- The bytes end in a sync byte and two length bytes that give more than 1024 (R175). -/
def overlongForm (bytes : List Byte) : Bool :=
  match bytes.reverse with
  | lo :: hi :: sync :: _ => sync == 0x7E#8 && decide (1024 < hi.toNat * 256 + lo.toNat)
  | _ => false

/-- A frame of 256 bit periods has eight slots; a frame of another length has none to read (R2). -/
def laneFrameForm (f : LaneFrame) : Bool :=
  if f.bitPeriods = 256 then decide (f.slots.length = 8) else f.slots.isEmpty

/-- Whether the command's operands are such as the spec admits. -/
def Instr.wellFormed : Instr → Bool
  | .frameReceived bytes => wholeFrameForm bytes
  | .lengthFieldExceeds1024 bytes => overlongForm bytes
  | .laneFrameClosed _ f => laneFrameForm f
  /- A phase error is at most half a frame. -/
  | .refStrobe phase => decide (-32 ≤ phase) && decide (phase ≤ 32)
  | .powerOn _ _ | .restart | .restartTakesEffect | .interByteTimeout | .unknownKindRequest | .txFrameEnd | .status | .credit
  | .laneQuery | .laneSet | .laneReset | .progDefine | .progUndefine | .progQuery | .progReset | .delaySet | .videoLatency
  | .loudSet | .loudPause | .loudResume | .loudQuery | .reportSet | .watchSet | .watchQuery | .alarmList | .alarmAck | .freeze
  | .monitorSet | .profileStore | .profileInfo | .outputFrameBoundary | .gainRampComplete _ | .presenceCountReached
  | .silenceCountReached | .laneActivity _ | .gateExpiry _ | .laneFadeFadedPoint _ | .laneFadeComplete _ | .glideComplete _
  | .jumpFadedPoint _ | .fillingEnd _ | .fadeInComplete _ | .releaseFadeComplete _ | .subBlockComplete _ | .profileLoadEnd
  | .profileTransferAck | .profileAckTimeout _ | .characterError | .powerLoss => true

end Sys2Proof
end

