-- ==== Sys2Proof/Tests/Slice0.lean ====
section
/-! SUPPORT. Tests/Slice0.lean: the manual's worked examples and tables, checked; and, for each statement that has hypotheses, a
state and operands that meet them. -/
namespace Sys2Proof.Tests
open Sys2Proof Sys2Proof.Machine

/-! ## States to test on -/

/-- The part after a load that found no profile. -/
def booted : State := { State.reset with pfu := { Pfu.reset [] with outcome := .checkFailed } }

/-- A state whose request queue holds one request, under tag 9. -/
def askedOf (s : State) (kind : Byte) (body : List Byte) : State :=
  { s with lnk := { s.lnk with requests := [{ kind := kind, tag := 9, body := body, reply := none }] } }

/-- The part booted, with one request waiting. -/
def asked (kind : Byte) (body : List Byte) : State := askedOf booted kind body

/-- A member on lane 0, slot 0, with a ring of page 0. -/
def member : Member :=
  { spec := { lane := 0, slot := 0, role := .l, weight := none, placement := none }, tap := 0,
    ring := some { writePage := 0, rest := [], writeOffset := 0, historyStart := 0 }, history := [], energy := 0, words := [],
    out := 0 }

/-- A programme of that member, running at the smallest delay. -/
def running : Prog :=
  { Prog.undefined with
    state := .running, members := [member], delay := { DelayRec.fresh with funded := 48, current := 64 * 48 },
    gain := { GainRec.fresh with gcur := some 0, applied := some 0 } }

/-- The part booted, with programme 15 as given. -/
def withProg (x : Prog) : State := booted.setProg 15 x

/-- The part booted, with lane 7 as given. -/
def withLane (x : Lane) : State := booted.setLane 7 x

/-- The next state of an outcome. -/
def next (o : Host.Outcome State Fault Refusal) : State :=
  match o with
  | .next t => t
  | _ => State.reset

/-! ## Well-formed commands -/

theorem test_frame_received_needs_a_whole_frame :
    (Instr.frameReceived [0x7E, 0, 0, 1, 2, 0]).wellFormed = false ∧ (Instr.frameReceived [0x7D, 0, 0, 1, 2, 0, 0]).wellFormed = false
      ∧ (Instr.frameReceived (frameBytes 1 2 [0])).wellFormed = true := by decide +kernel

theorem test_overlong_needs_a_length_above_1024 :
    (Instr.lengthFieldExceeds1024 [0x7E, 0x04, 0x00]).wellFormed = false
      ∧ (Instr.lengthFieldExceeds1024 [0x7E, 0x04, 0x01]).wellFormed = true := by decide

theorem test_frame_of_256_periods_has_eight_slots :
    (Instr.laneFrameClosed 0 { bitPeriods := 256, slots := [0] }).wellFormed = false
      ∧ (Instr.laneFrameClosed 0 { bitPeriods := 255, slots := [0] }).wellFormed = false
      ∧ (Instr.laneFrameClosed 0 { bitPeriods := 255, slots := [] }).wellFormed = true := by decide

theorem test_phase_error_is_at_most_half_a_frame :
    (Instr.refStrobe 33).wellFormed = false ∧ (Instr.refStrobe (-32)).wellFormed = true := by decide

/-! ## Lanes (1.3) -/

/-- R6: the edges of the classes, and section 1.3's counts 4042 and 4411. -/
theorem test_class_edges :
    [3167, 3168, 3232, 3233, 4042, 4366, 4411, 4454, 4752, 4848, 4849, 8732, 8908, 9504, 9696, 9697].map classOf
      = [.unknown, .k32, .k32, .unknown, .unknown, .k44, .k44, .k44, .k48, .k48, .unknown, .k88, .k88, .k96, .k96, .unknown] := by
  decide

/-- R7: a deviation of the tolerance is GOOD, one more is WEAK, an error is DEAD. -/
theorem test_grades :
    gradeOf 0 4415 5 (some 4410) = .good ∧ gradeOf 0 4416 5 (some 4410) = .weak ∧ gradeOf 0 4042 5 none = .weak
      ∧ gradeOf 1 4410 5 (some 4410) = .dead := by decide

/-- Section 1.3, the gate at 24,000: 4411 after a clean gate of 4410 settles 44.1 k on slots 0 and 1, and the lane runs in FULL. -/
theorem test_settling_pair_of_the_worked_sequence :
    let x : Lane := { Lane.reset with
      state := .sense, gateInSense := true, validAll := 3, senseGates := 1, activity := true,
      prevSense := some { cls := .k44, clean := true, valid := 3 },
      gauge := { mode := .timed, count := 4411, history := [4410, 4042, 0], elapsed := 4800 } }
    let y := (next (exec (.gateExpiry 7) (withLane x))).lane 7
    y.state = .running ∧ y.settled = .k44 ∧ y.active = 3 ∧ y.gauge.history = [4411, 4410, 4042, 0] ∧ y.grade = .good
      ∧ y.senseGates = 2 ∧ y.conv.granted = .full := by decide +kernel

/-- R2, R8: the first sound frame takes DETECT to SENSE. -/
theorem test_first_sound_frame :
    ((next (exec (.laneFrameClosed 7 { bitPeriods := 256, slots := List.replicate 8 0 })
      (withLane { Lane.reset with state := .detect, frameOpen := true }))).lane 7).state = .sense := by decide +kernel

/-- R197: bit period 0 is the sample's sign, 24 the valid flag, 25 the parity. -/
theorem test_slot_layout :
    slotSample 0x80000080 = -(2 ^ 23) ∧ slotValid 0x80000080 = true ∧ slotParityCorrect 0x80000080 = true
      ∧ slotParityCorrect 0x80000000 = false ∧ slotWord 1 true = 0x00000180 ∧ slotWord 1 false = 0x00000140 := by decide

/-! ## Loudness (6.4, 6.11, 6.12) -/

/-- The packing examples of section 6.4, from the mean energies they name (0.0003 and 2047.7 units rounded down to whole units). -/
theorem test_packing_examples :
    [0, 4800 * 2 ^ 25, 9828960 * 2 ^ 19, 144 * 2 ^ 60 / 100, 4800 * 2 ^ 53, 4800 * 4095 * 2 ^ 49, 10560 * 2 ^ 60].map packEnergy
      = [⟨0, false⟩, ⟨64, false⟩, ⟨2048, false⟩, ⟨19 * 2048 + 469, false⟩, ⟨24 * 2048, false⟩, ⟨0xFFFF, true⟩, ⟨0xFFFF, true⟩] := by
  decide +kernel

/-- Section 6.11: two members of four words of 2^-7 each give -181. -/
theorem test_steady_tone_level :
    let m : Member := { member with words := List.replicate 4 ⟨24 * 2048, false⟩ }
    blockLevel [m, m] = -181 ∧ blockOverload [m, m] = false ∧ correlation (2 ^ 10) (2 ^ 10) (2 ^ 10) = some 100 := by decide +kernel

/-- Section 6.12: ten levels of -181 and then ten of -401. -/
def gated : MeterRec :=
  { MeterRec.fresh with
    window := 20, minCount := 10, levels := List.replicate 10 (-401) ++ List.replicate 10 (-181),
    histogram := [(-401, 10), (-181, 10)] }

theorem test_gate_figures_of_the_worked_case :
    gated.gateFigures = some { lr := -211, theta := -311, nTheta := 10 } ∧ gated.integrated = some (-181)
      ∧ gated.shortTerm = some (-211) := by decide +kernel

theorem test_shortened_window_of_the_worked_case :
    (gated.setWindow 12).histogram = [(-401, 10), (-181, 2)] ∧ ((gated.setWindow 12).setWindow 20).histogram = gated.histogram
      ∧ (gated.setWindow 12).gateFigures = some { lr := -257, theta := -357, nTheta := 2 }
      ∧ (gated.setWindow 12).integrated = none := by decide +kernel

/-! ## Gain (7.3, 7.5, 7.8, 7.9) -/

theorem test_factor_table :
    [-300, -200, -49, -5, 0, 60, 100, 200].map gainFactor
      = [33159, 104858, 596486, 989920, 1048576, 2092184, 3315888, 10485760] := by decide +kernel

/-- The decisions of section 7.3: gain, movement, cue offered. -/
theorem test_decision_table :
    ([(some (-181), -181), (some (-225), -230), (some (-320), -315), (none, -181), (some (-181), -1000), (some (-50), -40)].map
      fun (c : Option Int × Int) =>
        let g := GainRec.decision
          { paused := false, lb := c.2, overload := false, belowGate := decide (c.2 < -700), lst := none, li := c.1, rho := none }
          158400 { GainRec.fresh with gcur := some 0, applied := some 0 }
        (g.desired, g.moving, g.gcur, g.cues.length))
      = [(some (-49), true, some (-5), 1), (some (-5), false, some 0, 0), (some 90, true, some 1, 1), (some 0, false, some 0, 0),
         (some 0, false, some 0, 0), (some (-180), true, some (-5), 1)] := by decide +kernel

/-- Section 7.8: the first ramp at positions 1, 240 and 480. -/
theorem test_first_ramp : [1, 240, 480].map (rampFactor 1048576 989920) = [1048454, 1019248, 989920] := by decide +kernel

/-- Section 7.9: the jump passes four cues, and only the newest of them is applied. -/
theorem test_cues_skipped_by_a_jump :
    let g : GainRec := { GainRec.fresh with
      gcur := some (-25), applied := some 0,
      cues := [⟨158400, -5⟩, ⟨163200, -10⟩, ⟨168000, -15⟩, ⟨172800, -20⟩, ⟨177600, -25⟩] }
    (g.takeDue 176080).cues = [⟨177600, -25⟩] ∧ (g.takeDue 176080).applied = some (-20)
      ∧ (g.takeDue 176080).rampStart = 1048576 := by decide +kernel

/-- Section 7.8: 0.5 under the final factor. -/
theorem test_sample_under_the_final_factor : gained 596486 (2 ^ 22) = 2385944 := by decide

/-! ## Watches and alarms (8.5 to 8.9) -/

/-- The sequence of section 8.5 for watch 4, from completion 2, without the frozen completion 8. -/
theorem test_level_watch_sequence :
    (Watch.takes 0 { Watch.reset with
      state := .quiet,
      record := { WatchRecord.factory with
        enable := true, object := .programme 2, measure := .li, threshold := -260, sense := .below, raiseCount := 3,
        clearCount := 2, severity := 5, freezeEnable := true } }
      [-255, -262, -265, -258, -263, -264, -268, -250, -261, -250, -249]).2
      = [.nothing, .nothing, .nothing, .nothing, .nothing, .nothing, .raise, .nothing, .nothing, .nothing, .clear] := by decide

/-- The sequence of section 8.5 for watch 9. -/
theorem test_edge_watch_sequence :
    (Watch.takes 0 { Watch.reset with
      state := .quiet,
      record := { WatchRecord.factory with
        enable := true, object := .lane 3, measure := .grade, threshold := 0, mode := .edge, raiseCount := 3, clearCount := 4,
        severity := 4 } }
      [0, 1, 1, 0, 2, 0, 1, 0, 0, 0, 0]).2
      = [.nothing, .nothing, .nothing, .nothing, .nothing, .nothing, .raise, .nothing, .nothing, .nothing, .clear] := by decide

/-- The entries of section 8.9's sequence. -/
def entry (id : AlarmId) (severity : Nat) (source : Source) (raised : Nat) (acked : Bool) : AlarmEntry :=
  { id := id, severity := severity, source := source, raised := raised, acked := acked, observed := none }

/-- The table of that sequence after its fourth event. -/
def followed : Wch :=
  { Wch.reset with
    selected := some 0, follow := true,
    table := [entry (.watch 9) 4 (.lane 3) 100000 false, entry (.watch 4) 5 (.programme 2) 150000 false,
              entry (.delayDeficit 7) 5 (.programme 7) 180000 false] }

theorem test_follow_sequence :
    followed.followTable.monitored = some 7 ∧ followed.followTable.major = true
      ∧ ({ followed with table := followed.table.take 1 } : Wch).followTable.monitored = some 0
      ∧ ({ followed with table := followed.table.take 1 } : Wch).followTable.major = false
      ∧ ({ followed with table := followed.table.take 1 } : Wch).followTable.minor = true
      ∧ ({ followed with table := followed.table.take 2 } : Wch).followTable.monitored = some 2 := by decide +kernel

/-- After the last event ALARM_LIST gives id 4, then id 64. -/
theorem test_list_order :
    (listedTable [entry (.delayDeficit 7) 5 (.programme 7) 180000 true, entry (.watch 4) 5 (.programme 2) 150000 true]).map (·.id)
      = [.watch 4, .delayDeficit 7] := by decide

/-- R159: the first and last ids of each kind, and none above 74. -/
theorem test_alarm_ids :
    [0, 31, 32, 33, 40, 41, 48, 49, 56, 57, 72, 73, 74, 75].map AlarmId.ofCode
      = [some (.watch 0), some (.watch 31), some .refLost, some (.laneLost 0), some (.laneLost 7), some (.laneRejected 0),
         some (.laneRejected 7), some (.slip 0), some (.slip 7), some (.delayDeficit 0), some (.delayDeficit 15), some .noticeLoss,
         some .profileFault, none] := by decide +kernel

/-! ## States that meet the statements' hypotheses: power, restart, the line -/

theorem test_meets_RestartEndsTrafficThenResets :
    (asked 0x03 []).Takes 0x03 9 []
      ∧ (∃ s : State, s.lnk.restart ≠ .none)
      ∧ (∃ (s : State) (r : Reply) (frame : List Byte), s.powered = true ∧ s.lnk.tx = some (.queueReply r frame) ∧ r.endsTraffic = true)
      ∧ ∃ s : State, s.powered = true ∧ s.lnk.restart = .due :=
  ⟨by decide +kernel, ⟨{ booted with lnk := { booted.lnk with restart := .taken } }, by decide⟩,
    ⟨{ booted with lnk := { booted.lnk with
        restart := .taken
        tx := some (.queueReply { tag := 9, status := .ok, kind := 3, body := .empty, formed := 0, endsTraffic := true } []) } },
      { tag := 9, status := .ok, kind := 3, body := .empty, formed := 0, endsTraffic := true }, [], by decide +kernel⟩,
    ⟨{ booted with lnk := { booted.lnk with restart := .due } }, by decide⟩⟩

theorem test_meets_PowerOnTakesTheResetValuesAndPowerLossKeepsTheMemories :
    ({ booted with powered := false } : State).powered = false ∧ (∀ a b, Instr.status ≠ .powerOn a b) ∧ Instr.status ≠ .powerLoss :=
  ⟨rfl, by decide, by decide⟩

/-- A link controller with this many requests held and this many BUSY replies waiting. -/
def heldLink (requests busy : Nat) : Lnk :=
  { Lnk.reset 115200 with
    requests := List.replicate requests { kind := 2, tag := 1, body := [1], reply := none }
    busy := List.replicate busy { tag := 1, status := .busy, kind := 2, body := .empty, formed := 0, endsTraffic := false }
    frameErrors := 65535 }

/-- The longest body, on a queue with one place, on a full queue, and with the BUSY list full too. -/
theorem test_meets_FramesReceivedJoinOrAreDropped :
    (∀ l ∈ [heldLink 7 0, heldLink 8 7, heldLink 8 8],
      ({ booted with lnk := l } : State).powered = true ∧ l.rx = [] ∧ l.frameErrors ≤ 65535)
      ∧ (List.replicate 1024 (0x7E : Byte)).length ≤ 1024 := by decide +kernel

/-- An empty body under a wrong check; the shortest length above 1024; hunting, and inside a frame. -/
theorem test_meets_FramesReceivedJoinOrAreDropped_dropped :
    (booted.powered = true ∧ booted.lnk.rx = [] ∧ ([] : List Byte).length ≤ 1024
        ∧ (0 : BitVec 16) ≠ crc16 (bytes2 ([] : List Byte).length ++ [1, 2] ++ [])
        ∧ syncByte ∉ bytes2 ([] : List Byte).length ++ [1, 2] ++ [] ++ bytes2 (0 : BitVec 16).toNat)
      ∧ 1024 < (0x04 : Byte).toNat * 256 + (0x01 : Byte).toNat
      ∧ booted.lnk.frameErrors ≤ 65535
      ∧ ({ heldLink 0 0 with rx := [0x7E, 0, 0, 1, 2, 0] } : Lnk).rx = syncByte :: [0, 0, 1, 2, 0]
      ∧ syncByte ∉ ([0, 0, 1, 2, 0] : List Byte) ∧ frameAt [0, 0, 1, 2, 0] = .incomplete := by decide +kernel

/-- A reply. -/
def reply1 : Reply := { tag := 1, status := .ok, kind := 2, body := .empty, formed := 4, endsTraffic := false }

theorem test_meets_TransmitterChoosesTheNextFrame_frame_end :
    ∀ tx ∈ [some (.queueReply reply1 []), some (.busyReply reply1 []), some (.notice (.ref .locked .free false 0) []), none],
      let s : State := { booted with lnk := { booted.lnk with tx := tx } }
      s.powered = true ∧ s.lnk.restart ≠ .due ∧ s.lnk.tx = tx ∧ reply1.endsTraffic = false := by decide +kernel

/-- Each choice: a busy transmitter; the queue's reply, formed with the BUSY list's and after it; nothing to send; no credit; two
notices of one class and one of a higher. -/
theorem test_meets_TransmitterChoosesTheNextFrame :
    (({ heldLink 0 0 with tx := some (.busyReply reply1 []) } : Lnk).tx.isSome)
      ∧ ({ heldLink 0 0 with restart := .due } : Lnk).restart = .due
      ∧ (let q : Lnk := { heldLink 0 1 with
            requests := [{ kind := 2, tag := 1, body := [1], reply := some { reply1 with formed := 0 } }] };
          q.tx = none ∧ q.restart ≠ .due ∧ q.requests.head?.bind (·.reply) = some { reply1 with formed := 0 }
            ∧ ∀ b, q.busy.head? = some b → (0 : Nat) ≤ b.formed)
      ∧ (let q : Lnk := { heldLink 0 1 with requests := [{ kind := 2, tag := 1, body := [1], reply := some { reply1 with formed := 1 } }] };
          ∃ b, q.busy.head? = some b ∧ ∀ r, q.requests.head?.bind (·.reply) = some r → b.formed < r.formed)
      ∧ (let q : Lnk := { heldLink 1 0 with credit := 1, notices := [.ref .locked .free false 0, .doneStore .succeeded 1 1 .none 0 0] };
          q.requests.head?.bind (·.reply) = none ∧ q.busy = [] ∧ 0 < q.credit ∧ q.notices ≠ [])
      ∧ (heldLink 1 0).credit = 0 := by
  refine ⟨by decide, by decide, ⟨by decide, by decide, by decide, ?_⟩, ⟨_, rfl, ?_⟩, by decide, by decide⟩
  · intro b _; exact Nat.zero_le _
  · intro r hr
    have : r = { reply1 with formed := 1 } := by simpa [heldLink] using hr.symm
    subst this; decide

/-! ## Notices and alarms -/

/-- An alarm's entry, of severity 1. -/
def noted (id : AlarmId) : AlarmEntry := entry id 1 .link 0 false

/-- Notices of this many different alarms. -/
def alarmNotices (n : Nat) : List Notice := (allAlarms.take n).map fun id => .alarm (noted id) .raised 0

/-- A meter report. -/
def report1 : MeterReport :=
  { prog := 0, selection := Selection.empty, clock := 0, blockIndex := 0,
    results := { paused := false, lb := 0, overload := false, belowGate := false, lst := none, li := none, rho := none },
    gcur := 0, clips := 0, nTheta := none, words := [], current := 0, requested := 0, funded := 0, pending := none, lipSync := 0 }

/-- A queued key; 63 queued; 64 queued with a METER among them; 64 without one, a METER offered; 64 whose first is of the lowest
class, a notice above it and one not above it offered. -/
theorem test_meets_NoticeOfferedToTheQueue :
    (∃ m ∈ alarmNotices 63, m.key = (Notice.alarm (noted (.watch 0)) .cleared 1).key)
      ∧ ((∀ m ∈ alarmNotices 63, m.key ≠ (Notice.meter report1).key) ∧ (alarmNotices 63).length < 64)
      ∧ (let q := alarmNotices 10 ++ .meter report1 :: (alarmNotices 63).drop 10
         (∀ m ∈ q, m.key ≠ (Notice.ref .locked .free false 0).key) ∧ q.length = 64 ∧ (Notice.meter report1).isMeter = true
          ∧ ∀ x ∈ alarmNotices 10, x.isMeter = false)
      ∧ ((∀ m ∈ alarmNotices 64, m.key ≠ (Notice.meter report1).key) ∧ (alarmNotices 64).length = 64
          ∧ (∀ m ∈ alarmNotices 64, m.isMeter = false) ∧ (Notice.meter report1).isMeter = true)
      ∧ (let q := Notice.ref .locked .free false 0 :: alarmNotices 63
         q.length = 64 ∧ (∀ m ∈ q, m.isMeter = false)
          ∧ (∀ m ∈ q, m.key ≠ (Notice.doneStore .succeeded 0 0 .none 0 0).key) ∧ (∀ m ∈ q, m.key ≠ NoticeKey.alarm .profileFault)
          ∧ (∀ x ∈ alarmNotices 63, (Notice.ref .locked .free false 0).rank ≤ x.rank)
          ∧ (Notice.ref .locked .free false 0).rank < (Notice.alarm (noted .profileFault) .raised 0).rank
          ∧ (Notice.doneStore .succeeded 0 0 .none 0 0).rank ≤ (Notice.ref .locked .free false 0).rank) := by
  decide +kernel

/-- A panel with this table and these notices. -/
def panel1 (table : List AlarmEntry) (notices : List Notice) : Panel :=
  { now := 5, wch := { Wch.reset with table := table }, lnk := { heldLink 0 0 with notices := notices } }

/-- Raised, and not, with each kind of row of the table; an entry among others; a notice taken, one discarded with NOTICE_LOSS raised,
and one without, its own alarm's notice discarding another or replacing the one queued. -/
theorem test_meets_AlarmChangesAndDiscardsReported :
    ((panel1 [noted .refLost] []).wch.isRaised .refLost = true
        ∧ ∀ id ∈ [AlarmId.refLost, .noticeLoss, .profileFault, .laneLost 7, .laneRejected 7, .slip 0, .delayDeficit 15],
            (panel1 [] []).wch.isRaised id = false)
      ∧ ((panel1 [noted (.watch 0), noted .refLost] []).wch.table = [noted (.watch 0)] ++ noted .refLost :: []
          ∧ (noted .refLost).id = .refLost ∧ ∀ x ∈ [noted (.watch 0)] ++ [], x.id ≠ .refLost)
      ∧ (offerTo (panel1 [] []).lnk.notices (.ref .locked .free false 0)).2 = false
      ∧ ((offerTo (panel1 [noted .noticeLoss] (alarmNotices 64)).lnk.notices (.meter report1)).2 = true
          ∧ (panel1 [noted .noticeLoss] (alarmNotices 64)).wch.isRaised .noticeLoss = true)
      ∧ (let own : Notice := .alarm { noted .noticeLoss with severity := 2, source := .link, raised := 5 } .raised 5
         ∀ q ∈ [(alarmNotices 64, true), (.alarm (noted .noticeLoss) .cleared 0 :: alarmNotices 63, false)],
          (offerTo (panel1 [] q.1).lnk.notices (.meter report1)).2 = true ∧ (panel1 [] q.1).wch.isRaised .noticeLoss = false
            ∧ (offerTo (offerTo q.1 (.meter report1)).1 own).2 = q.2) := by decide +kernel

/-- A report with every part, its figures at the ends of their fields. -/
def report2 : MeterReport :=
  { report1 with
    selection := ⟨true, true, true, true⟩, clock := 2 ^ 48 - 1, blockIndex := 2 ^ 32 - 1, clips := 2 ^ 32 - 1, gcur := -(2 ^ 15),
    results := { report1.results with lb := 2 ^ 15 - 1, lst := some (2 ^ 15 - 1), li := none, rho := some (-(2 ^ 7)) },
    nTheta := some (2 ^ 16 - 1), words := List.replicate 8 (List.replicate 4 0), current := 2 ^ 32 - 1, requested := 2 ^ 32 - 1,
    funded := 2 ^ 32 - 1, pending := some (2 ^ 32 - 1), lipSync := -(2 ^ 31) }

theorem test_meets_NoticesAreLaidOut :
    (let e : AlarmEntry := { noted .profileFault with severity := 255, raised := 2 ^ 48 - 1, observed := some (-(2 ^ 31)) }
     e.severity < 256 ∧ e.raised < 2 ^ 48 ∧ ∀ v, e.observed = some v → -(2 ^ 31) ≤ v ∧ v < 2 ^ 31)
      ∧ ((2 : Nat) ^ 48 - 1 < 2 ^ 48 ∧ (2 : Nat) ^ 32 - 1 < 2 ^ 32 ∧ (2 : Nat) ^ 16 - 1 < 2 ^ 16)
      ∧ (report2.clock < 2 ^ 48 ∧ report2.blockIndex < 2 ^ 32 ∧ report2.clips < 2 ^ 32 ∧ report2.current < 2 ^ 32
        ∧ report2.requested < 2 ^ 32 ∧ report2.funded < 2 ^ 32 ∧ (∀ v, report2.pending = some v → v < 2 ^ 32)
        ∧ (∀ v, report2.nTheta = some v → v < 2 ^ 16)
        ∧ (∀ v ∈ [some report2.results.lb, report2.results.lst, report2.results.li, some report2.gcur], ∀ x, v = some x →
            -(2 ^ 15) ≤ x ∧ x < 2 ^ 15)
        ∧ (∀ v, report2.results.rho = some v → -(2 ^ 7) ≤ v ∧ v < 2 ^ 7) ∧ -(2 ^ 31) ≤ report2.lipSync ∧ report2.lipSync < 2 ^ 31
        ∧ (∀ ws ∈ report2.words, ws.length = 4) ∧ report2.words.length ≤ 8) := by
  decide +kernel

/-- The longest notice. -/
theorem test_meets_NoticesAndRepliesAreFrames : (Notice.meter report2).body.length ≤ 1024 := by decide +kernel

/-- R195: numbers most significant byte first, in a width that holds them; a value with no absent code is a group that is absent, so
that no lip-sync error reads as -1. -/
theorem test_figures_of_replies :
    [(0, 0), (0, 255), (0, 258), (3, 258), (9, 1)].map (fun c => figureBytes c.1 (.number c.2))
        = [[0], [255], [1, 2], [0, 1, 2], [0, 0, 0, 0, 0, 0, 0, 1]]
      ∧ [none, some (-1)].map (Figures.group Figures.full) = [[.laid [0]], [.laid [1], .laid [255, 255, 255, 255]]]
      ∧ [none, some (-1)].map (Figures.group Figures.stamp) = [[.laid [0]], [.laid [1], .laid [255, 255, 255, 255, 255, 255]]] := by
  decide +kernel

/-- R58: a member's figures say whether its weight is an override. -/
theorem test_member_figures_name_an_override :
    [none, some Weight.unity].map (fun w => (MemberReply.figures
        { spec := { member.spec with weight := w }, weight := .unity, laneRunning := true, slotActive := false, tap := none,
          latency := 48 })[4]?) = [some (.laid [0]), some (.laid [1])] := by decide +kernel

/-! ## Requests -/

/-- During the load, of known and unknown kind; an unknown kind; another kind than waits, and nothing waiting; a body too short. -/
theorem test_meets_RequestsAreTakenInOrderOrRefused :
    (∀ kind ∈ [0x02, 0x99], (askedOf State.reset kind [1]).powered = true ∧ (askedOf State.reset kind [1]).pfu.outcome = .loading
      ∧ (askedOf State.reset kind [1]).nextRequest = some { kind := kind, tag := 9, body := [1], reply := none }
      ∧ kind ≠ 0x01 ∧ kind ≠ 0x61)
      ∧ ((asked 0x99 [1]).Takes 0x99 9 [1] ∧ (0x99 : Byte) ∉ requestKinds)
      ∧ (booted.nextRequest = none
        ∧ ∃ r, (asked 0x02 [1]).nextRequest = some r ∧ requestCommand r.kind ≠ requestCommand 0x10)
      ∧ (asked 0x02 []).Takes 0x02 9 [] ∧ bodyFits 0x02 [] = false :=
  ⟨by decide +kernel, by decide +kernel, ⟨by decide +kernel, _, rfl, by decide +kernel⟩, by decide +kernel⟩

/-- Programme 16 does not exist; programme 15 in each state that refuses. -/
theorem test_meets_ProgrammeStateRefusesRequests :
    ((asked 0x41 [16]).Takes 0x41 9 [16] ∧ bodyFits 0x41 [16] = true ∧ 15 < (16 : Byte).toNat)
      ∧ ((asked 0x41 [15]).Takes 0x41 9 [15] ∧ ((asked 0x41 [15]).prog 15).state = .undefined)
      ∧ (∀ st ∈ [ProgState.waiting, .running, .releasing], ∀ kind ∈ [(0x20 : Byte), 0x23, 0x41],
          let body : List Byte := if kind = 0x20 then [15, 1, 0, 0, 0, 0] else [15]
          let s := askedOf (withProg { running with state := st }) kind body
          s.Takes kind 9 body ∧ bodyFits kind body = true ∧ (s.prog 15).state = st ∧ (15 : ProgId).val = (15 : Byte).toNat) := by
  decide +kernel

theorem test_meets_StatusAndQueriesReportTheFigures :
    ∀ option ∈ [(0 : Byte), 1], (askedOf State.reset 0x01 [option]).powered = true
      ∧ (askedOf State.reset 0x01 [option]).nextRequest = some { kind := 0x01, tag := 9, body := [option], reply := none } := by
  decide +kernel

/-- An amount of 0, one that brings the count to 255, one that takes it above; a period of 600, of 601, none. -/
theorem test_meets_CreditReportAndFlagRequestsStoreTheirValues :
    (∀ n ∈ [(0 : Byte), 255], (asked 0x02 [n]).Takes 0x02 9 [n])
      ∧ (let s := askedOf { booted with lnk := { booted.lnk with credit := 1 } } 0x02 [255];
          s.Takes 0x02 9 [255] ∧ 255 < s.lnk.credit + (255 : Byte).toNat)
      ∧ (∀ st ∈ [ProgState.waiting, .running], ∀ body ∈ [([15, 1, 0x02, 0x58] : List Byte), [15, 1, 0x02, 0x59], [15, 2, 0xF]],
          (askedOf (withProg { running with state := st }) 0x44 body).Takes 0x44 9 body
            ∧ ((askedOf (withProg { running with state := st }) 0x44 body).prog 15).state = st)
      ∧ [([15, 1, 0x02, 0x58] : List Byte), [15, 1, 0x02, 0x59], [15, 2, 0xF]].map bodyReportSet
          = [some (15, some 600, none), some (15, some 601, none), some (15, none, some ⟨true, true, true, true⟩)] := by
  decide +kernel

theorem test_meets_StatusAndQueriesReportTheFigures_queries :
    (asked 0x10 [7]).Takes 0x10 9 [BitVec.ofNat 8 (7 : LaneId).val] ∧ (7 < (8 : Byte).toNat ∧ (asked 0x10 [8]).Takes 0x10 9 [8])
      ∧ (∀ kind ∈ [(0x22 : Byte), 0x43], (askedOf (withProg running) kind [15]).Takes kind 9 [BitVec.ofNat 8 (15 : ProgId).val]
          ∧ ((askedOf (withProg running) kind [15]).prog 15).state ≠ .undefined)
      ∧ (asked 0x51 [31]).Takes 0x51 9 [BitVec.ofNat 8 (31 : WatchId).val]
      ∧ (31 < (32 : Byte).toNat ∧ (asked 0x51 [32]).Takes 0x51 9 [32])
      ∧ ((askedOf State.reset 0x61 []).powered = true
          ∧ (askedOf State.reset 0x61 []).nextRequest = some { kind := 0x61, tag := 9, body := [], reply := none }) := by
  decide +kernel

theorem test_meets_AlarmListOrdersTheTable :
    (asked 0x52 [255]).Takes 0x52 9 [255] ∧ (asked 0x52 []).Takes 0x52 9 [] ∧ ([] : List Byte).length ≠ 1 := by decide +kernel

/-- A malformed body, id 75, id 74 not raised, and id 74 raised, acknowledged and not. -/
theorem test_meets_AlarmAckAcknowledgesARaisedAlarm :
    ((asked 0x53 []).Takes 0x53 9 [] ∧ (74 < (75 : Byte).toNat ∧ (asked 0x53 [75]).Takes 0x53 9 [75]))
      ∧ ((asked 0x53 [74]).Takes 0x53 9 [74] ∧ AlarmId.profileFault.code = (74 : Byte).toNat
          ∧ (asked 0x53 [74]).wch.isRaised .profileFault = false)
      ∧ ∀ e ∈ [noted .profileFault, { noted .profileFault with acked := true }],
          let s : State := { asked 0x53 [74] with wch := { Wch.reset with table := [noted .refLost, e] } }
          s.Takes 0x53 9 [74] ∧ s.wch.table = [noted .refLost] ++ e :: [] ∧ e.id = .profileFault
            ∧ ∀ x ∈ [noted .refLost] ++ [], x.id ≠ .profileFault := by decide +kernel

theorem test_meets_CreditReportAndFlagRequestsStoreTheirValues_flags :
    (∀ st ∈ [ProgState.waiting, .running], ∀ kind ∈ [(0x41 : Byte), 0x42],
        (askedOf (withProg { running with state := st }) kind [15]).Takes kind 9 [BitVec.ofNat 8 (15 : ProgId).val]
          ∧ ((askedOf (withProg { running with state := st }) kind [15]).prog 15).state = st)
      ∧ (∀ n ∈ [(0 : Byte), 1], (asked 0x54 [n]).Takes 0x54 9 [n])
      ∧ (∀ body ∈ [([1, 16] : List Byte), [1, 255], [1, 15], [2, 1]], (asked 0x55 body).Takes 0x55 9 body)
      ∧ [([1, 16] : List Byte), [1, 255], [1, 15], [2, 1]].map bodyMonitorSet
          = [some (some 16, none), some (some 255, none), some (some 15, none), some (none, some true)]
      ∧ (15 < 16 ∧ (16 : Nat) ≠ 0xFF)
      ∧ (let e := entry (.watch 4) 5 (.programme 2) 1 false
         let s : State := { asked 0x55 [2, 1] with wch := { Wch.reset with table := [e] } }
         s.Takes 0x55 9 [2, 1] ∧ e ∈ s.wch.table ∧ e.acked = false ∧ e.source = .programme 2
          ∧ ∀ x ∈ s.wch.table, x.acked = false → x ≠ e → x.severity < e.severity) := by decide +kernel

/-- Watch 32; a measure the kind does not have (lane 7, code 5); lane 8; every field in range and out of it; a major level of 0, 7 and
8 alone; and both parts in one request. -/
theorem test_meets_WatchSetRestartsTheWatch :
    let absent : WatchBody :=
      { enable := none, object := none, measure := none, threshold := none, sense := none, mode := none, raiseCount := none,
        clearCount := none, severity := none, freezeEnable := none }
    ((asked 0x50 [1, 32, 0, 1, 1]).Takes 0x50 9 [1, 32, 0, 1, 1]
        ∧ bodyWatchSet [1, 32, 0, 1, 1] = some { watch := some (32, { absent with enable := some true }), majorLevel := none })
      ∧ ((asked 0x50 [1, 31, 0, 6, 1, 7, 5]).Takes 0x50 9 [1, 31, 0, 6, 1, 7, 5]
        ∧ bodyWatchSet [1, 31, 0, 6, 1, 7, 5]
            = some { watch := some (31, { absent with object := some (.lane, 7), measure := some 5 }), majorLevel := none }
        ∧ ObjectKind.lane.measures[5]? = none)
      ∧ ((asked 0x50 [1, 31, 0, 6, 1, 8, 4]).Takes 0x50 9 [1, 31, 0, 6, 1, 8, 4]
        ∧ bodyWatchSet [1, 31, 0, 6, 1, 8, 4]
            = some { watch := some (31, { absent with object := some (.lane, 8), measure := some 4 }), majorLevel := none }
        ∧ ObjectKind.lane.measures[4]? = some .grade ∧ 7 < 8)
      ∧ ((asked 0x50 [1, 31, 0, 0xC6, 1, 7, 4, 0x02, 0x59, 0x02, 0x58]).Takes 0x50 9 [1, 31, 0, 0xC6, 1, 7, 4, 0x02, 0x59, 0x02, 0x58]
        ∧ bodyWatchSet [1, 31, 0, 0xC6, 1, 7, 4, 0x02, 0x59, 0x02, 0x58]
            = some { watch := some (31, { absent with
                object := some (.lane, 7), measure := some 4, raiseCount := some 601, clearCount := some 600 }), majorLevel := none }
        ∧ (WatchObject.lane 7).kind = .lane ∧ (WatchObject.lane 7).number = 7)
      ∧ (∀ n ∈ [(0 : Byte), 7, 8], (asked 0x50 [2, n]).Takes 0x50 9 [2, n]
        ∧ bodyWatchSet [2, n] = some { watch := none, majorLevel := some n.toNat })
      ∧ ((asked 0x50 [3, 31, 0, 1, 1, 8]).Takes 0x50 9 [3, 31, 0, 1, 1, 8]
        ∧ bodyWatchSet [3, 31, 0, 1, 1, 8] = some { watch := some (31, { absent with enable := some true }), majorLevel := some 8 }) := by
  decide +kernel

/-! ## Lanes -/

/-- A lane running in FULL on eight slots, its FIFO at the centre, with this fade. -/
def runningLane (fade : LaneFade) (pos : Nat) : Lane :=
  { Lane.reset with
    state := .running, settled := .k48, active := 0xFF, frameOpen := true,
    conv := { Converter.reset with
      granted := .full, effective := .full, fifo := List.replicate 128 Frame.silent, fade := fade, fadePos := pos } }

/-- Lane 8; lane 7 with a tolerance of 200 and of 201; DISABLED with open counting turned on; and RUNNING in each granted mode, with a
request that changes it and one that does not. -/
theorem test_meets_LaneSetStoresTheSettings :
    let body (n : Nat) (t : Nat) : LaneSetBody :=
      { lane := n, enable := none, preference := none, bypassAllowed := none, tolerance := some t, openCounting := none }
    ((asked 0x11 [8, 8, 0, 200]).Takes 0x11 9 [8, 8, 0, 200] ∧ bodyLaneSet [8, 8, 0, 200] = some (body 8 200))
      ∧ (∀ t ∈ [(200 : Byte), 201], (asked 0x11 [7, 8, 0, t]).Takes 0x11 9 [7, 8, 0, t]
          ∧ bodyLaneSet [7, 8, 0, t] = some (body 7 t.toNat) ∧ ((asked 0x11 [7, 8, 0, t]).lane 7).state ≠ .running
          ∧ ((asked 0x11 [7, 8, 0, t]).lane 7).state ≠ .disabled)
      ∧ (let s := askedOf (withLane { Lane.reset with state := .disabled }) 0x11 [7, 16, 1]
         s.Takes 0x11 9 [7, 16, 1] ∧ (s.lane 7).state = .disabled
          ∧ bodyLaneSet [7, 16, 1] = some { body 7 0 with tolerance := none, openCounting := some true })
      ∧ (∀ mode ∈ [ConvMode.full, .short, .bypass], ∀ pref ∈ [Preference.full, .short], ∀ fade ∈ [LaneFade.none, .fadeIn],
          let x := runningLane fade 0
          let s := askedOf (withLane { x with
            settings := { x.settings with preference := pref }, conv := { x.conv with granted := mode } }) 0x11 [7, 6, 1, 0]
          s.Takes 0x11 9 [7, 6, 1, 0] ∧ (s.lane 7).state = .running ∧ s.front.admission = []
            ∧ ∀ m : LaneId, m ≠ 7 → (s.lane m).state ≠ .running)
      ∧ bodyLaneSet [7, 6, 1, 0] = some { body 7 0 with tolerance := none, preference := some .short, bypassAllowed := some false }
      ∧ bodyLaneSet [7, 2, 0] = some { body 7 0 with tolerance := none, preference := some .full } := by decide +kernel

theorem test_meets_LaneSetAndLaneResetMoveTheLane :
    (∀ x ∈ [runningLane .none 0, Lane.reset, { Lane.reset with settings := { LaneSettings.factory with openCounting := true } }],
        (askedOf (withLane x) 0x11 [7, 1, 0]).Takes 0x11 9 [7, 1, 0] ∧ (askedOf (withLane x) 0x11 [7, 1, 0]).lane 7 = x
          ∧ x.state ≠ .disabled ∧ (askedOf (withLane x) 0x11 [7, 1, 0]).front.admission = [])
      ∧ (askedOf (withLane { Lane.reset with state := .disabled }) 0x11 [7, 1, 1]).Takes 0x11 9 [7, 1, 1]
      ∧ [([7, 1, 0] : List Byte), [7, 1, 1]].map bodyLaneSet = [false, true].map fun e => some
          { lane := 7, enable := some e, preference := none, bypassAllowed := none, tolerance := none, openCounting := none } := by
  decide +kernel

/-- Lanes 8 and 255; and lane 7 in each kind of state. -/
theorem test_meets_LaneSetAndLaneResetMoveTheLane_reset :
    (∀ n ∈ [(8 : Byte), 255], 7 < n.toNat ∧ (asked 0x12 [n]).Takes 0x12 9 [n])
    ∧ ∀ x ∈ [runningLane .none 0, { Lane.reset with state := .disabled }, { Lane.reset with state := .waitingBudget }, Lane.reset],
      (askedOf (withLane x) 0x12 [7]).Takes 0x12 9 [BitVec.ofNat 8 (7 : LaneId).val]
        ∧ (askedOf (withLane x) 0x12 [7]).lane 7 = x ∧ (askedOf (withLane x) 0x12 [7]).front.admission = [] := by decide +kernel

/-- A marker in ABSENT; one that opens a frame; frames closed on a running lane granted FULL or BYPASS at fills on either side of each
bound, sound, unsound and of 255 periods; in DETECT, sound and not; and in each other state. -/
theorem test_meets_ActivityAndFrameMarkers :
    (booted.powered = true ∧ (booted.lane 7).state = .absent ∧ ((withLane (runningLane .none 0)).lane 7).state ≠ .absent)
      ∧ (∀ n ∈ [0, 14, 15, 94, 95, 160, 161, 239, 240, 255, 256], ∀ open_ ∈ [true, false], ∀ granted ∈ [ConvMode.full, .bypass],
          let x := { runningLane .none 0 with
            frameOpen := open_
            conv := { (runningLane .none 0).conv with granted := granted, forced := false, fifo := List.replicate n Frame.silent } }
          (withLane x).powered = true ∧ ((withLane x).lane 7).state = .running ∧ ((withLane x).lane 7).frameOpen = open_
            ∧ ((withLane x).lane 7).conv.fifo.length = n ∧ ((withLane x).lane 7).conv.granted = granted)
      ∧ (∀ st ∈ [LaneState.detect, .sense, .waitingBudget, .rejected, .disabled],
          let x : Lane := { Lane.reset with state := st, frameOpen := true }
          (withLane x).lane 7 = x ∧ x.state ≠ .absent ∧ x.state ≠ .running ∧ x.frameOpen = true)
      ∧ (0 < (256 : Nat) ∧ 0 < (255 : Nat) ∧ (255 : Nat) ≠ 256
          ∧ (∀ k : SlotId, slotParityCorrect ((List.replicate 8 (0 : SlotWord)).getD k.val 0) = true)
          ∧ slotParityCorrect 0x80000000 = false) := by decide +kernel

/-- A lane at the end of a gate of this count, with this many framing errors. -/
def gateEnd (state : LaneState) (count : BitVec 16) (framing dead : Nat) : Lane :=
  { runningLane .none 0 with
    state := state, framing := framing, deadRun := dead, activity := true,
    gauge := { mode := .timed, count := count, history := [], elapsed := 4800 } }

/-- Staying: ABSENT, DISABLED, REJECTED and DETECT with activity, ADMIT, and SENSE at a gate that began before it. Lost: a count of 0,
and a third DEAD grade, in SENSE, ADMIT and RUNNING. -/
theorem test_meets_GateExpiryGradesOrLosesTheLane :
    (∀ x ∈ [gateEnd .absent 0 0 0, gateEnd .disabled 4800 0 0, gateEnd .rejected 4800 1 0, gateEnd .detect 100 0 0,
        gateEnd .waitingBudget 4800 0 0, gateEnd .sense 4800 0 0, gateEnd .sense 0 0 0, gateEnd .waitingBudget 4800 1 2,
        gateEnd .running 4800 1 2],
      (withLane x).powered = true ∧ (withLane x).lane 7 = x ∧ x.gauge.mode = .timed ∧ 4800 ≤ x.gauge.elapsed ∧ x.activity = true
        ∧ x.gateInSense = false)
      ∧ (0 < (4800#16).toNat ∧ (0#16).toNat = 0) := by decide +kernel

/-- SENSE at its ninth and its tenth gate, after a gate of another class and after one of the same class with no slot in common; DETECT
and REJECTED without activity. -/
theorem test_meets_GateExpiryGradesOrLosesTheLane_sense :
    (∀ n ∈ [8, 9], ∀ prev ∈ [({ cls := .k44, clean := true, valid := 0xFF } : SenseGate), { cls := .k48, clean := true, valid := 1 }],
        let x := { gateEnd .sense 4800 0 0 with gateInSense := true, senseGates := n, prevSense := some prev, validAll := 0x80 }
        (withLane x).lane 7 = x ∧ 4800 ≤ x.gauge.elapsed ∧ classOf (4800#16).toNat = .k48
          ∧ ¬(prev.cls = classOf (4800#16).toNat ∧ prev.valid &&& x.validAll ≠ 0))
      ∧ ∀ st ∈ [LaneState.detect, .rejected], let x := { gateEnd st 4800 0 0 with activity := false }
          (withLane x).lane 7 = x ∧ x.gauge.mode = .timed ∧ x.activity = false := by decide +kernel

/-- Acquiring and tracking at a deviation of the tolerance and one more; leaving bypass at a count of 4802; eligible in FULL, SHORT and
BYPASS; the fiftieth gate since a slip. -/
theorem test_meets_GateOfARunningLaneSteersItsConverter :
    let gate (count : BitVec 16) (c : Converter) : Lane :=
      { gateEnd .running count 0 0 with
        gauge := { mode := .timed, count := count, history := [4800, 4800, 4800], elapsed := 4800 }, conv := c }
    let full := (runningLane .none 0).conv
    ∀ x ∈ [gate 4805 full, gate 4806 { full with tracking := .track }, gate 4802 { full with granted := .bypass },
        gate 4800 { full with tracking := .track }, gate 4800 { full with tracking := .track, granted := .short },
        gate 4800 { full with tracking := .track, granted := .bypass }, gate 4800 { full with gatesSinceSlip := 49 }],
      (withLane x).powered = true ∧ (withLane x).lane 7 = x ∧ x.gauge.mode = .timed ∧ 4800 ≤ x.gauge.elapsed ∧ x.state = .running
        ∧ (withLane x).front.admission = [] ∧ 0 < x.gauge.count.toNat ∧ x.framing = 0 ∧ x.settings.bypassAllowed = true
        ∧ x.settled = .k48 ∧ x.conv.fifo.length = 128 := by decide +kernel

/-- A settling pair at the edge of 48 k, on one slot and on eight, with the budget free; and with the seven other lanes holding it. -/
theorem test_meets_SettlingPairAdmitsTheLane :
    let x (valid : BitVec 8) : Lane := { Lane.reset with
      state := .sense, gateInSense := true, validAll := valid,
      prevSense := some { cls := .k48, clean := true, valid := 0xFF },
      gauge := { mode := .timed, count := 4848, history := [], elapsed := 4800 } }
    (∀ valid ∈ [(0x80 : BitVec 8), 0xFF], let s := withLane (x valid)
      s.powered = true ∧ s.lane 7 = x valid ∧ classOf (4848#16).toNat = .k48 ∧ (0xFF &&& valid) ≠ 0
        ∧ 64 * ((List.finRange 8).countP fun k => (0xFF &&& valid).getLsbD k.val) ≤ s.front.freeTaps)
      ∧ (let s : State := (({ booted with front := { booted.front with
            lanes := Vector.replicate 8 (runningLane .none 0) } } : State).setLane 7 (x 0xFF));
          s.lane 7 = x 0xFF
            ∧ s.front.freeTaps < 64 * ((List.finRange 8).countP fun k => ((0xFF : BitVec 8) &&& 0xFF).getLsbD k.val)) := by
  decide +kernel

/-- A faded point without a slip, and with one at fills of 0, 127, 128 and 256; SLIP raised already, and not. -/
theorem test_meets_LaneFadedPointAppliesTheGrant :
    ∀ slip ∈ [false, true], ∀ n ∈ [0, 1, 127, 128, 256], ∀ table ∈ [[], [noted (.slip 7)]],
      let x := { runningLane .fadeOut 0 with
        conv := { (runningLane .fadeOut 0).conv with granted := .short, slipWanted := slip, fifo := List.replicate n Frame.silent } }
      let s : State := { withLane x with wch := { Wch.reset with table := table } }
      s.powered = true ∧ s.lane 7 = x ∧ x.state = .running ∧ x.conv.fade = .fadeOut ∧ x.conv.fadePos = 0
        ∧ x.conv.slipWanted = slip ∧ x.conv.fifo.length = n ∧ (s.wch.isRaised (.slip 7) = true ↔ table ≠ []) := by decide +kernel

theorem test_meets_CompletionsEndWhatTheyComplete :
    (∀ wanted ∈ [false, true],
        let x := { runningLane .fadeIn 480 with conv := { (runningLane .fadeIn 480).conv with slipWanted := wanted } }
        (withLane x).powered = true ∧ ((withLane x).lane 7).state = .running ∧ ((withLane x).lane 7).conv.fade = .fadeIn
          ∧ 480 ≤ ((withLane x).lane 7).conv.fadePos ∧ ((withLane x).lane 7).conv.granted = ((withLane x).lane 7).conv.effective
          ∧ ((withLane x).lane 7).conv.slipWanted = wanted)
      ∧ (let x := { running with delay := { running.delay with change := .gliding } };
          (withProg x).powered = true ∧ ((withProg x).prog 15).state = .running ∧ ((withProg x).prog 15).delay.change = .gliding
            ∧ ((withProg x).prog 15).delay.current = 64 * ((withProg x).prog 15).delay.funded)
      ∧ (let x := { running with delay := { running.delay with change := .filling, fill := 0 } };
          ((withProg x).prog 15).state = .running ∧ ((withProg x).prog 15).delay.change = .filling
            ∧ ((withProg x).prog 15).delay.fill = 0)
      ∧ (let x := { running with gain := { running.gain with ramping := true, rampPos := 480 } };
          ((withProg x).prog 15).gain.ramping = true ∧ 480 ≤ ((withProg x).prog 15).gain.rampPos) := by decide +kernel

/-! ## The reference and the boundary -/

theorem test_meets_ReferenceStateChanges :
    (∀ st ∈ [RefState.free, .holdover], let s : State := { booted with refu := { Refu.reset with state := st, presence := 4800 } }
        s.powered = true ∧ s.refu.state = st ∧ 4800 ≤ s.refu.presence)
      ∧ (∀ st ∈ [RefState.locked, .relock], let s : State := { booted with
            refu := { Refu.reset with state := st, silence := 48 }, wch := { Wch.reset with table := [noted .refLost] } };
          s.powered = true ∧ s.refu.state = st ∧ 48 ≤ s.refu.silence ∧ s.wch.isRaised .refLost = true)
      ∧ (let s : State := { booted with refu := { Refu.reset with state := .relock } };
          s.powered = true ∧ s.refu.state = .relock ∧ 1 ≤ (-1 : Int).natAbs) := by decide +kernel

/-- Programme 15 running at delay 48 with its member placed at the last output slot, as its record is changed by f. -/
def placed (f : DelayRec → DelayRec) : State :=
  withProg { running with
    members := [{ member with spec := { member.spec with placement := some (7, 7) } }], delay := f running.delay }

/-- Nothing outstanding: during the load; just after it; a lane one frame before the end of its gate; a programme placed and heard on
the monitor, before and after the boundary. -/
theorem test_meets_FrameBoundaryAdvancesTheClockAndDrivesTheOutputs :
    (∀ s ∈ [State.reset, booted, withLane { Lane.reset with gauge := { mode := .timed, count := 0, history := [], elapsed := 4799 } },
        placed id], s.powered = true ∧ s.NothingOutstanding)
      ∧ State.reset.pfu.outcome = .loading
      ∧ (let s : State := { placed id with wch := { Wch.reset with selected := some 15, monitored := some 15 } }
         let t := next (exec .outputFrameBoundary s)
         s.NothingOutstanding ∧ s.pfu.outcome ≠ .loading ∧ t.wch.monitored = some 15 ∧ (t.prog 15).state = .running
          ∧ (t.prog 15).members.map (·.spec.placement) = [some (7, 7)] ∧ t.out.slots.length = 64) := by
  unfold State.NothingOutstanding
  decide +kernel

/-- A glide of programme 15 gives up its second page at this boundary, which ends the deficit of programme 14, followed on the monitor
just before: the boundary still carries programme 14, and the next one carries silence (R168). -/
def deficitEnds : State :=
  let glider := { running with
    members := [{ member with ring := some { writePage := 0, rest := [1], writeOffset := 0, historyStart := 0 } }]
    delay := { running.delay with change := .gliding, current := 64 * 1024 } }
  let waiter := { running with
    members := [{ member with ring := some { writePage := 2, rest := [], writeOffset := 0, historyStart := 0 } }]
    delay := { running.delay with requested := 1100, funded := 1023, current := 64 * 1023 } }
  { (booted.setProg 15 glider).setProg 14 waiter with
    dmc := { free := [], wait := [14], dram := [] }
    wch := { Wch.reset with follow := true, monitored := some 14, table :=
      [{ id := .delayDeficit 14, severity := 5, source := .programme 14, raised := 0, acked := false, observed := none }] } }

theorem test_monitor_takes_a_decision_of_a_boundary_at_the_next :
    let t := next (exec .outputFrameBoundary deficitEnds)
    deficitEnds.NothingOutstanding ∧ t.wch.monitored = none ∧ (t.prog 14).delay.funded = 1100
      ∧ t.out.monitor = [slotWord 0 true, slotWord 0 true] ∧ slotWord 0 true ≠ SlotWord.idle
      ∧ (next (exec .outputFrameBoundary t)).out.monitor = [SlotWord.idle, SlotWord.idle] := by
  unfold State.NothingOutstanding
  decide +kernel

/-- Not running; and running with each effective mode, with a fade and without, at fills within both ranges and outside each. -/
theorem test_meets_FrameBoundaryAdvancesTheConverters :
    booted.NothingOutstanding ∧ (booted.lane 7).state ≠ .running
      ∧ ∀ mode ∈ [ConvMode.none, .full, .short, .bypass], ∀ fade ∈ [(LaneFade.none, 0), (.fadeOut, 480), (.fadeIn, 479)],
        ∀ n ∈ [15, 95, 128, 161, 241],
          let x := runningLane fade.1 fade.2
          let s := withLane { x with
            conv := { x.conv with granted := .bypass, effective := mode, fifo := List.replicate n Frame.silent } }
          s.powered = true ∧ s.NothingOutstanding ∧ (s.lane 7).state = .running := by
  unfold State.NothingOutstanding
  decide +kernel

/-- The ends of the sample range; a glide that gives up a page while another programme waits for it; a trim to one page; and STEADY, gliding up inside its pages, in each state of a jump, and RELEASING. -/
theorem test_meets_FrameBoundaryAdvancesTheProgrammes :
    (∀ x ∈ [(-(2 ^ 23) : Int), 2 ^ 23 - 1], -(2 ^ 23) ≤ x ∧ x < 2 ^ 23)
      ∧ (deficitEnds.powered = true ∧ deficitEnds.NothingOutstanding ∧ ¬deficitEnds.NoPageGivenUp ∧ deficitEnds.dmc.wait = [14]
        ∧ ((deficitEnds.prog 15).members.all fun m => m.ring.any fun ring => ring.rest.length + 1 == 2) = true ∧ 1 < 2)
      ∧ ∀ s ∈ [placed id, placed fun r => { r with change := .gliding, funded := 49 },
        placed fun r => { r with change := .fadeOut, fadePos := 480 }, placed fun r => { r with change := .filling, fill := 1 }, placed fun r => { r with change := .fadeIn, fadePos := 479 },
        withProg { running with state := .releasing, delay := { running.delay with releasePos := 1 } }],
      s.powered = true ∧ s.NothingOutstanding ∧ s.NoPageGivenUp ∧ ((s.prog 15).state = .running ∨ (s.prog 15).state = .releasing) := by
  unfold State.NothingOutstanding State.NoPageGivenUp
  decide +kernel

/-! ## The delay memory -/

/-- A ring of pages 0 and 1, its write point at the last position of page 0. -/
def ring2 : Ring := { writePage := 0, rest := [1], writeOffset := 1023, historyStart := 3 }

/-- The largest and the smallest sample; distances at both ends of the reach; a stamp below zero and one before the history start; a
splice of every free page; a trim to one page. -/
theorem test_meets_RingsReadBackThroughSplicesAndTrims :
    (Memory.wf [] ∧ ring2.chain.Nodup ∧ (∀ v ∈ [(-(2 ^ 23) : Int), 2 ^ 23 - 1], -(2 ^ 23) ≤ v ∧ v < 2 ^ 23)
        ∧ (0 ≤ (3 : Int) ∧ ring2.historyStart ≤ 3) ∧ (0 + 1 < ring2.capacity ∧ 2046 + 1 < ring2.capacity)
        ∧ ((0 : Int) - (1 : Nat) < 0) ∧ (3 : Int) - (1 : Nat) < ring2.historyStart)
      ∧ (let d : Dmc := { free := [2, 3], wait := [], dram := [] }
         Memory.wf d.dram ∧ (ring2.chain ++ d.free).Nodup ∧ 1 ≤ 2 ∧ 2 ≤ d.free.length ∧ 2047 < ring2.capacity
          ∧ ring2.capacity ≤ 2048)
      ∧ (1 ≤ 1 ∧ 1 ≤ ring2.rest.length) := by decide +kernel

/-! ## Programmes -/

/-- A body that defines programme 15 with two members on lane 0, the second on this slot. -/
def defineBody (slot : Byte) : List Byte := [15, 2, 0, 0, 0, 0, 0, slot, 1, 0]

/-- The members it carries. -/
def defineMembers (slot : Nat) : List MemberBody :=
  [{ lane := 0, slot := 0, role := .l, weight := none, placement := none },
   { lane := 0, slot := slot, role := .r, weight := none, placement := none }]

theorem test_bodies_of_the_definitions :
    (∀ slot ∈ [(0 : Byte), 7, 8], (asked 0x20 (defineBody slot)).Takes 0x20 9 (defineBody slot)
        ∧ bodyProgDefine (defineBody slot) = some (15, defineMembers slot.toNat))
      ∧ (booted.prog 15).state = .undefined ∧ 2 ≤ booted.dmc.free.length := by decide +kernel

/-- With no programme defined, a member within range that repeats none before it meets no condition. -/
theorem fits_of_no_members {earlier : List MemberBody} {m : MemberBody} (hl : m.lane < 8) (hs : m.slot < 8)
    (hp : m.placement = none) (he : ∀ e ∈ earlier, ¬(e.lane = m.lane ∧ e.slot = m.slot)) : MemberFits booted.progs earlier m := by
  refine ⟨hl, hs, ?_, ?_, he, ?_, ?_⟩ <;> simp [hp, booted, State.reset, State.afterReset, Prog.undefined]

/-- The second member repeats the first, or names slot 8: it fails at index 1. Slot 7 is taken. -/
theorem test_meets_ProgDefineTakenOrConflict :
    (∀ (j : Nat) (n : MemberBody), j < 1 → (defineMembers 0)[j]? = some n → MemberFits booted.progs ((defineMembers 0).take j) n)
      ∧ (∃ m, (defineMembers 0)[1]? = some m ∧ ¬MemberFits booted.progs ((defineMembers 0).take 1) m)
      ∧ (∃ m, (defineMembers 8)[1]? = some m ∧ ¬MemberFits booted.progs ((defineMembers 8).take 1) m)
      ∧ ∀ (i : Nat) (m : MemberBody), (defineMembers 7)[i]? = some m → MemberFits booted.progs ((defineMembers 7).take i) m := by
  refine ⟨?_, ⟨_, rfl, ?_⟩, ⟨_, rfl, ?_⟩, ?_⟩
  · intro j n hj hn
    obtain rfl : j = 0 := by omega
    obtain rfl : _ = n := by simpa [defineMembers] using hn
    exact fits_of_no_members (by decide) (by decide) rfl (by simp)
  · rintro ⟨-, -, -, -, h, -, -⟩
    exact h { lane := 0, slot := 0, role := .l, weight := none, placement := none } (by simp [defineMembers]) ⟨rfl, rfl⟩
  · rintro ⟨-, h, -⟩
    exact absurd h (by decide)
  · intro i m hm
    match i, hm with
    | 0, hm =>
      obtain rfl : _ = m := by simpa [defineMembers] using hm
      exact fits_of_no_members (by decide) (by decide) rfl (by simp)
    | 1, hm =>
      obtain rfl : _ = m := by simpa [defineMembers] using hm
      exact fits_of_no_members (by decide) (by decide) rfl (by simp [defineMembers])
    | n + 2, hm => simp [defineMembers] at hm

/-- The part with programme 15 on input lane 0 slot 0 and output lane 1 slot 2. -/
def claimed : State :=
  withProg { running with members := [{ member with spec := { member.spec with placement := some (1, 2) } }] }

/-- One member against `claimed`: each kind of conflict but a repeat. -/
theorem test_meets_ProgDefineTakenOrConflict_kinds :
    (∀ body ∈ [([14, 1, 8, 0, 0, 2, 0, 0] : List Byte), [14, 1, 7, 7, 0, 2, 0, 8], [14, 1, 0, 0, 0, 2, 7, 7], [14, 1, 7, 7, 0, 2, 1, 2]],
        (askedOf claimed 0x20 body).Takes 0x20 9 body)
      ∧ [([14, 1, 8, 0, 0, 2, 0, 0] : List Byte), [14, 1, 7, 7, 0, 2, 0, 8], [14, 1, 0, 0, 0, 2, 7, 7],
            [14, 1, 7, 7, 0, 2, 1, 2]].map bodyProgDefine
          = [(8, 0, 0, 0), (7, 7, 0, 8), (0, 0, 7, 7), (7, 7, 1, 2)].map (fun c => some (14, [{
              lane := c.1, slot := c.2.1, role := .l, weight := none, placement := some (c.2.2.1, c.2.2.2) }]))
      ∧ (claimed.prog 14).state = .undefined
      ∧ (∀ q : ProgId, (∃ x ∈ (claimed.prog q).members, x.spec.lane.val = 0 ∧ x.spec.slot.val = 0) ↔ q = 15)
      ∧ (∀ q : ProgId, (∃ x ∈ (claimed.prog q).members, x.spec.placement = some (1, 2)) ↔ q = 15)
      ∧ ∀ q : ProgId, ¬∃ x ∈ (claimed.prog q).members, x.spec.lane.val = 7 ∧ x.spec.slot.val = 7 :=
  ⟨by decide +kernel, by decide +kernel, by decide +kernel, by decide +kernel, by decide +kernel, by decide +kernel⟩

/-- Two members of one request: the second repeats the first's input channel, or its output slot. -/
theorem test_meets_ProgDefineTakenOrConflict_repeats :
    let first : MemberBody := { lane := 0, slot := 0, role := .l, weight := none, placement := some (7, 7) }
    (asked 0x20 [15, 2, 0, 0, 0, 2, 7, 7, 0, 1, 1, 2, 7, 7]).Takes 0x20 9 [15, 2, 0, 0, 0, 2, 7, 7, 0, 1, 1, 2, 7, 7]
      ∧ bodyProgDefine [15, 2, 0, 0, 0, 2, 7, 7, 0, 1, 1, 2, 7, 7] = some (15, [first, { first with slot := 1, role := .r }])
      ∧ MemberFits booted.progs [] first
      ∧ (∀ q : ProgId, (booted.prog q).members = []) := by
  refine ⟨by decide +kernel, by decide +kernel, ⟨by decide, by decide, ?_, ?_, ?_, ?_, ?_⟩, by decide +kernel⟩ <;>
    simp [booted, State.reset, State.afterReset, Prog.undefined]

/-- With as many pages free as members, and with one fewer. -/
theorem test_pages_at_a_definition :
    (∀ n ∈ [2, 1], let s : State := { asked 0x20 (defineBody 7) with dmc := { free := allPages.take n, wait := [], dram := [] } }
      s.Takes 0x20 9 (defineBody 7) ∧ s.dmc.free.length = n ∧ (15 : ProgId) ∉ s.dmc.wait) := by decide +kernel

/-- A watch enabled on a programme. -/
def watching (p : ProgId) : Watch :=
  { Watch.reset with state := .quiet, record := { WatchRecord.factory with enable := true, object := .programme p } }

/-- WAITING on the list, with watches on it and on another programme; RUNNING with a jump in flight at each of its states; RUNNING reset. -/
theorem test_meets_ProgUndefineAndProgReset :
    (let s : State := { askedOf (withProg { running with state := .waiting }) 0x21 [15] with
        dmc := { free := [], wait := [3, 15], dram := [] }
        wch := { Wch.reset with watches := (Wch.reset.watches.set 31 (watching 15)).set 0 (watching 14) } }
     s.Takes 0x21 9 [BitVec.ofNat 8 (15 : ProgId).val] ∧ (s.prog 15).state = .waiting ∧ (15 : ProgId) ∈ s.dmc.wait
      ∧ [31, 0].map (fun w : WatchId => (s.wch.watches[w]).record) = [(watching 15).record, (watching 14).record])
      ∧ (∀ c ∈ [ChangeState.steady, .gliding, .fadeOut, .filling, .fadeIn],
          let s := askedOf (withProg { running with delay := { running.delay with change := c, fadePos := 7 } }) 0x21 [15]
          s.Takes 0x21 9 [BitVec.ofNat 8 (15 : ProgId).val] ∧ (s.prog 15).state = .running)
      ∧ (let s := askedOf (withProg running) 0x23 [15]
         s.Takes 0x23 9 [BitVec.ofNat 8 (15 : ProgId).val] ∧ (s.prog 15).state = .running) := by decide +kernel

/-! ## Delays -/

/-- A video latency for programme 15: 48, 96,000 and 96,001 frames. -/
def latencyBody (n : Nat) : List Byte := 15 :: bytes4 n

/-- The delay memory's laws, from their decidable form. -/
theorem delay_laws_of {s : State}
    (rings : ∀ p : ProgId, (s.prog p).state.live = true → let r := (s.prog p).delay
      (∀ m ∈ (s.prog p).members, (m.ring.map fun ring => ring.rest.length + 1) = some (max (r.current / 64) r.funded / 1024 + 1))
        ∧ 48 ≤ r.funded ∧ r.funded ≤ 96000 ∧ 64 * 48 ≤ r.current ∧ r.current ≤ 64 * 96000
        ∧ (r.change ≠ .gliding → r.current % 64 = 0))
    (list : s.dmc.wait.Nodup
      ∧ (∀ p : ProgId, p ∈ s.dmc.wait ↔ (s.prog p).state = .waiting
          ∨ ((s.prog p).state = .running ∧ (s.prog p).delay.funded < (s.prog p).delay.requested))
      ∧ (∀ p ∈ s.dmc.wait, (s.prog p).state = .running → (s.prog p).delay.current / 64 ≤ (s.prog p).delay.funded)
      ∧ ∀ p : ProgId, s.wch.isRaised (.delayDeficit p) = true ↔ p ∈ s.dmc.wait) : s.DelayMemoryLaws :=
  ⟨fun p hp => ⟨fun m hm => by simpa using (rings p hp).1 m hm, (rings p hp).2⟩, list⟩

/-- Programme 15 running as given, with this many pages beside its own free, and one request waiting. -/
def delaying (c : ChangeState) (current funded free : Nat) (kind : Byte) (body : List Byte) : State :=
  { askedOf (withProg { running with
      delay := { running.delay with change := c, current := current, funded := funded, requested := funded } }) kind body with
    dmc := { free := (allPages.drop 1).take free, wait := [], dram := [] } }

/-- Programme 15 alone on the wait list, wanting a frame more than it is funded for, with DELAY_DEFICIT raised. -/
def shortOfOne (c : ChangeState) (kind : Byte) (body : List Byte) : State :=
  let s := delaying c (64 * 48) 1023 0 kind body
  { s.setProg 15 { s.prog 15 with delay := { (s.prog 15).delay with requested := 1024 } } with
    dmc := { s.dmc with wait := [15] }
    wch := { Wch.reset with table :=
      [{ id := .delayDeficit 15, severity := 5, source := .programme 15, raised := 0, acked := false, observed := none }] } }

/-- The bounds of requested delays, from their decidable form, with no target pending. -/
theorem requests_bounded_of {s : State} (h : ∀ p : ProgId, (s.prog p).delay.pending = none
      ∧ ((s.prog p).state = .waiting ∨ (s.prog p).state = .running →
          48 ≤ (s.prog p).delay.requested ∧ (s.prog p).delay.requested ≤ 96000)
      ∧ ((s.prog p).state = .running → (s.prog p).delay.funded ≤ (s.prog p).delay.requested)) : s.RequestsBounded :=
  fun p => ⟨(h p).2.1, fun r hr => by simp [(h p).1] at hr, fun _ => (h p).1, fun _ _ => (h p).1, (h p).2.2⟩

/-- WAITING; a jump in flight; and a DELAY_SET without a trim and with one out of range. -/
theorem test_meets_DelayRequestsMoveTheRequestedDelay :
    (∀ n ∈ [48, 2000, 96000, 96001], bodyVideoLatency (latencyBody n) = some (15, n))
      ∧ (∀ x ∈ [{ running with state := .waiting },
            { running with delay := { running.delay with change := .fadeOut } },
            { running with delay := { running.delay with change := .filling } },
            { running with delay := { running.delay with change := .fadeIn } }],
          (∀ n ∈ [48, 96001], (askedOf (withProg x) 0x31 (latencyBody n)).Takes 0x31 9 (latencyBody n))
            ∧ ∀ body ∈ [([15, 4, 0x12, 0xC1] : List Byte), 15 :: 1 :: bytes4 (-48001), 15 :: 1 :: bytes4 96000],
                (askedOf (withProg x) 0x30 body).Takes 0x30 9 body)
      ∧ bodyDelaySet [15, 4, 0x12, 0xC1] = some { prog := 15, trim := none, method := none, glideLimit := some 4801 }
      ∧ ∀ trim ∈ [(-48001 : Int), 96000], bodyDelaySet (15 :: 1 :: bytes4 trim) =
          some { prog := 15, trim := some trim, method := none, glideLimit := none } := by decide +kernel

/-- STEADY, GLIDING between two frames, and GLIDING there, with requests near and far: with every page free, one and none. -/
theorem test_meets_DelayRequestsMoveTheRequestedDelay_acted_on :
    ∀ c ∈ [(ChangeState.steady, 64 * 48, 48), (.gliding, 64 * 48 + 1, 49), (.gliding, 64 * 49, 49)], ∀ free ∈ [2047, 1, 0],
      ∀ q ∈ [((0x31 : Byte), latencyBody 48), (0x31, latencyBody 60), (0x31, latencyBody 96000), (0x30, 15 :: 1 :: bytes4 48000)],
        let s := delaying c.1 c.2.1 c.2.2 free q.1 q.2
        s.Takes q.1 9 q.2 ∧ (s.prog 15).state = .running ∧ (s.prog 15).delay.change = c.1 ∧ s.dmc.wait = [] ∧ s.RequestsBounded
          ∧ s.DelayMemoryLaws := by
  intro c hc free hf q hq
  refine ⟨?_, ?_, ?_, ?_, requests_bounded_of ?_, delay_laws_of ?_ ?_⟩ <;> revert q hq <;> revert free hf <;> revert c hc <;>
    decide +kernel

/-- Alone on the list with no page free: STEADY and GLIDING, with a request that its pages cover and one that they do not. -/
theorem test_meets_DelayRequestsMoveTheRequestedDelay_on_the_list :
    ∀ c ∈ [ChangeState.steady, .gliding], ∀ n ∈ [1023, 1024],
      let s := shortOfOne c 0x31 (latencyBody n)
      s.Takes 0x31 9 (latencyBody n) ∧ (s.prog 15).state = .running ∧ (s.prog 15).delay.change = c ∧ (∀ q ∈ s.dmc.wait, q = 15)
        ∧ (15 : ProgId) ∈ s.dmc.wait ∧ s.RequestsBounded ∧ s.DelayMemoryLaws := by
  intro c hc n hn
  refine ⟨?_, ?_, ?_, ?_, ?_, requests_bounded_of ?_, delay_laws_of ?_ ?_⟩ <;> revert n hn <;> revert c hc <;> decide +kernel

/-- WAITING, to take either request. -/
theorem test_meets_DelayRequestsMoveTheRequestedDelay_waiting :
    ∀ q ∈ [((0x31 : Byte), latencyBody 48), (0x30, 15 :: 1 :: bytes4 96000)],
      (askedOf (withProg { running with state := .waiting }) q.1 q.2).RequestsBounded := by
  intro q hq
  refine requests_bounded_of ?_
  revert q hq
  decide +kernel

/-- PROG_UNDEFINE in a jump up into a second page, with no programme on the list; and alone on the list. -/
theorem test_meets_ProgUndefineAndProgReset_with_pages :
    (let s := delaying .fadeOut (64 * 48) 1024 0 0x21 [15]
     let t := s.setProg 15 { s.prog 15 with members := [{ member with ring := some { ring2 with historyStart := 0 } }] }
     t.Takes 0x21 9 [BitVec.ofNat 8 (15 : ProgId).val] ∧ (t.prog 15).state = .running ∧ t.dmc.wait = [] ∧ t.DelayMemoryLaws)
      ∧ (let s := shortOfOne .filling 0x21 [15]
         s.Takes 0x21 9 [BitVec.ofNat 8 (15 : ProgId).val] ∧ (s.prog 15).state = .running ∧ s.dmc.wait = [15] ∧ s.DelayMemoryLaws) :=
  ⟨⟨by decide +kernel, by decide +kernel, by decide +kernel, delay_laws_of (by decide +kernel) (by decide +kernel)⟩,
   ⟨by decide +kernel, by decide +kernel, by decide +kernel, delay_laws_of (by decide +kernel) (by decide +kernel)⟩⟩

/-- The programme side of a part with programme 15 on the wait list as given, wanting 96,000 frames, with this many pages free. -/
def served (x : Prog) (free : Nat) : ProgSide :=
  { latencies := Vector.replicate 8 48, progs := booted.progs.set 15 { x with delay := { x.delay with requested := 96000 } },
    dmc := { free := (allPages.drop 1).take free, wait := [3, 15], dram := [] }, panel := booted.panel }

/-- RUNNING on the list, in each change state, with no page free, one, and all; WAITING, with none and all. -/
theorem test_meets_PageServiceRaisesAndStartsOldestFirst :
    (∀ c ∈ [(ChangeState.steady, 48), (.gliding, 49), (.fadeOut, 49), (.filling, 48), (.fadeIn, 48)], ∀ free ∈ [0, 1, 2047],
        let v := served { running with delay := { running.delay with change := c.1, funded := c.2 } } free
        let x := v.prog 15
        x.state = .running ∧ 15 ∈ v.dmc.wait
          ∧ (∀ m ∈ x.members, (m.ring.map fun ring => ring.rest.length + 1) = some 1) ∧ x.members ≠ []
          ∧ x.delay.current / 64 = 48 ∧ 48 ≤ x.delay.funded ∧ x.delay.funded < x.delay.requested ∧ 1 = x.delay.funded / 1024 + 1
          ∧ x.delay.current = 64 * 48
          ∧ (free = 0 ↔ min 94 ((x.members.length * 1 + v.dmc.free.length) / x.members.length) ≤ 1))
      ∧ ∀ free ∈ [0, 1, 2047],
        let v := served { running with state := .waiting, members := [{ member with ring := none }] } free
        (v.prog 15).state = .waiting ∧ 15 ∈ v.dmc.wait ∧ (v.prog 15).members ≠ []
          ∧ (free = 0 ↔ min 94 (v.dmc.free.length / (v.prog 15).members.length) = 0) := by decide +kernel

/-- A new programme off the list with fewer pages free than its request needs: none, and some. -/
theorem test_meets_PageServiceRaisesAndStartsOldestFirst_joining :
    ∀ free ∈ [0, 93], let v := served { running with state := .waiting, members := [{ member with ring := none }] } free
      let w : ProgSide := { v with dmc := { v.dmc with wait := [] } }
      (w.prog 15).members ≠ [] ∧ 15 ∉ w.dmc.wait
        ∧ w.dmc.free.length < (w.prog 15).members.length * ((w.prog 15).delay.requested / 1024 + 1) := by decide +kernel

/-- A rise by one frame, no change, and a fall. -/
theorem test_meets_JumpMovesTheDelayAndCompletes :
    ∀ n ∈ [49, 48, 47],
      let s := withProg { running with delay := { running.delay with change := .fadeOut, fadePos := 0, funded := n } }
      s.powered = true ∧ (s.prog 15).state = .running ∧ (s.prog 15).delay.change = .fadeOut ∧ (s.prog 15).delay.fadePos = 0
        ∧ (s.prog 15).delay.current = 64 * 48 ∧ (15 : ProgId) ∉ s.dmc.wait := by decide +kernel

/-- Nothing pending and nothing ahead; a target ahead that the delay has reached, and one it has not. -/
theorem test_meets_JumpMovesTheDelayAndCompletes_full_level :
    ∀ c ∈ [(none, false, 48), (none, true, 48), (none, true, 49)],
      let s := withProg { running with delay := { running.delay with
        change := .fadeIn, fadePos := 480, pending := c.1, ahead := c.2.1, funded := c.2.2 } }
      s.powered = true ∧ (s.prog 15).state = .running ∧ (s.prog 15).delay.change = .fadeIn ∧ 480 ≤ (s.prog 15).delay.fadePos
        ∧ (s.prog 15).delay.pending = c.1 ∧ (s.prog 15).delay.ahead = c.2.1 ∧ (s.prog 15).delay.funded = c.2.2 := by decide +kernel

/-- A jump at its end at 48 frames with a request pending, for where it stands or elsewhere, with no page free and all; the
transmitter idle with credit, or busy with 16 notices queued. -/
def pendingJump (request free : Nat) (busy : Bool) : State :=
  let s := delaying .fadeIn (64 * 48) 48 free 0 []
  let link : Lnk := if busy then { Lnk.reset 115200 with tx := some (.notice (.ref .free .free false 0) []), notices := alarmNotices 16 }
    else { Lnk.reset 115200 with credit := 1 }
  let x := s.prog 15
  { s.setProg 15 { x with delay := { x.delay with fadePos := 480, pending := some request } } with lnk := link }

theorem test_meets_JumpMovesTheDelayAndCompletes_pending :
    ∀ request ∈ [48, 49, 96000], ∀ free ∈ [0, 2047], ∀ busy ∈ [true, false],
      let s := pendingJump request free busy
      s.powered = true ∧ (s.prog 15).state = .running ∧ (s.prog 15).delay.change = .fadeIn ∧ 480 ≤ (s.prog 15).delay.fadePos
        ∧ (s.prog 15).delay.pending = some request ∧ s.dmc.wait = []
        ∧ (if busy then s.lnk.tx.isSome = true ∧ s.lnk.notices.length = 16
          else s.lnk.tx = none ∧ s.lnk.restart ≠ .due ∧ s.lnk.queueReply = none ∧ s.lnk.busy = [] ∧ s.lnk.notices = []
            ∧ 0 < s.lnk.credit)
        ∧ s.DelayMemoryLaws := by
  intro request hr free hf busy hb
  refine ⟨?_, ?_, ?_, ?_, ?_, ?_, ?_, delay_laws_of ?_ ?_⟩ <;> revert busy hb <;> revert free hf <;> revert request hr <;>
    decide +kernel

/-- With a watch enabled on the programme. -/
theorem test_meets_ReleaseEndsWithThePagesGivenBack :
    let r : WatchRecord := { WatchRecord.factory with enable := true, object := .programme 15 }
    let s : State := { withProg { running with state := .releasing } with
      wch := { Wch.reset with watches := Wch.reset.watches.set 31 { Watch.reset with state := .quiet, record := r } } }
    s.powered = true ∧ (s.prog 15).state = .releasing ∧ (s.prog 15).delay.releasePos = 0 ∧ s.dmc.wait = []
      ∧ (s.wch.watches[31]).record.enable = true ∧ (s.wch.watches[31]).record.object = .programme 15 := by decide +kernel

/-! ## Loudness and gain -/

/-- A window of 9, and new limits that the gain and G0 lie outside. -/
theorem test_meets_LoudSetStoresTheSettingsInRange :
    (∀ st ∈ [ProgState.waiting, .running], ∀ gcur ∈ [(-1 : Int), 0],
        let s := askedOf (withProg { running with state := st, gain := { running.gain with gcur := some gcur } })
          0x40 [15, 0, 0x21, 0, 9, 0, 1]
        s.Takes 0x40 9 [15, 0, 0x21, 0, 9, 0, 1] ∧ (s.prog 15).state = st ∧ (s.prog 15).gain.gcur = some gcur)
      ∧ bodyLoudSet [15, 0, 0x21, 0, 9, 0, 1] = some (15,
          { window := some 9, relGate := none, minCount := none, target := none, gmax := none, gmin := some 1, upSlew := none,
            downSlew := none, band := none, g0 := none })
      ∧ running.gain.settings.InRange := by
  unfold GainSettings.InRange
  decide +kernel

/-- The third sub-block and the fourth, paused and not, with no report, one due, and one not. -/
theorem test_meets_SubBlockCompletesAndFromTheFourthABlock :
    ∀ n ∈ [2, 3], ∀ paused ∈ [true, false], ∀ report ∈ [(0, 0), (600, 599), (600, 598)],
      let s := withProg { running with
        meter := { MeterRec.fresh with frameCount := 4800, ringed := n }, gain := { running.gain with paused := paused },
        report := { running.report with period := report.1, counter := report.2 } }
      s.powered = true ∧ (s.prog 15).state = .running ∧ 4800 ≤ (s.prog 15).meter.frameCount ∧ (s.prog 15).meter.ringed = n
        ∧ (s.prog 15).gain.paused = paused
        ∧ ((s.prog 15).report.period ≠ 0 ∧ (s.prog 15).report.period ≤ (s.prog 15).report.counter + 1 ↔ report = (600, 599)) := by
  decide +kernel

/-- The worked case's levels; fewer gated blocks than the minimum count; no level. A pair, one member alone; and a product of energies
that the cross sum reaches. -/
theorem test_meets_GatedLevelsAndCorrelation :
    (∀ m ∈ [gated, { gated with minCount := 11 }, MeterRec.fresh],
        (∀ c ∈ m.histogram, -700 ≤ c.1 ∧ c.1 ≤ 100 ∧ 0 < c.2) ∧ (∀ b ∈ m.levels, -1000 ≤ b ∧ b ≤ 100) ∧ 1 ≤ m.minCount)
      ∧ (gated.histogram ≠ [] ∧ gated.levels ≠ [] ∧ MeterRec.fresh.histogram = [] ∧ MeterRec.fresh.levels = [])
      ∧ (let r : Member := { member with spec := { member.spec with role := .r } }
         firstOfRole .l [member, r] ≠ none ∧ firstOfRole .r [member, r] ≠ none ∧ firstOfRole .r [member] = none)
      ∧ (0 < 4 ∧ 0 < 9 ∧ (-6 : Int).natAbs ^ 2 ≤ 4 * 9) := by decide +kernel

/-- The smallest mean energy that saturates and the largest that does not; exponents 1 and 31; the largest below exponent 1. -/
theorem test_meets_MeanEnergyPacksIntoAWord :
    ((4095 : ℚ) / 2048 ≤ ((4800 * 4095 * 2 ^ 49 : Nat) : ℚ) / (4800 * 2 ^ 60))
      ∧ (let v : ℚ := ((4800 * 4095 * 2 ^ 49 - 1 : Nat) : ℚ) / (4800 * 2 ^ 60)
         (2 : ℚ) ^ 31 ≤ v * 2 ^ 31 ∧ v * 2 ^ 31 < (2 : ℚ) ^ 32 ∧ v < (4095 : ℚ) / 2048)
      ∧ (let v : ℚ := ((4800 * 2 ^ 30 : Nat) : ℚ) / (4800 * 2 ^ 60)
         (2 : ℚ) ^ 1 ≤ v * 2 ^ 31 ∧ v * 2 ^ 31 < (2 : ℚ) ^ 2 ∧ v < (4095 : ℚ) / 2048)
      ∧ ((4800 * 2 ^ 30 - 1 : Nat) : ℚ) / (4800 * 2 ^ 60) * 2 ^ 30 < 1 := by norm_num

theorem test_meets_GainFactorIsThePowerOfTen : (-300 ≤ (200 : Int) ∧ (200 : Int) ≤ 200) ∧ (-300 : Int) ≤ -300 ∧ 480 ≤ 480 := by decide

/-- A paused completion, one below the gate, one without LI, and one with LI; the decided gain at a limit. -/
theorem test_meets_GainLawStepsTowardTheDesiredGain :
    let g : GainRec := { GainRec.fresh with gcur := some (-200), applied := some (-200) }
    g.gcur = some (-200) ∧ g.settings.InRange ∧ g.settings.gmin ≤ -200 ∧ -200 ≤ g.settings.gmax
      ∧ ∀ r : BlockResults, r.paused = false → r.belowGate = false → r.li = some (-181) →
        ∀ li, r.paused = false → r.belowGate = false → r.li = some li →
          (-49 : Int) = max g.settings.gmin (min (g.settings.target - li) g.settings.gmax) := by
  refine ⟨rfl, by unfold GainSettings.InRange; decide, by decide, by decide, fun r _ _ hr li _ _ h => ?_⟩
  rw [hr] at h
  obtain rfl : (-181 : Int) = li := by simpa using h
  decide

/-- Cues at 10 and 20, the stamp at the first of them; a queue of 32. -/
theorem test_meets_CuesJoinAndFallDue :
    (let g : GainRec := { GainRec.fresh with applied := some 0, cues := [⟨10, -5⟩, ⟨20, -10⟩] }
     g.cues.Pairwise (fun a b => a.position < b.position) ∧ (∀ c ∈ g.cues, (9 : Int) < c.position)
      ∧ g.cues = [] ++ ⟨10, -5⟩ :: [⟨20, -10⟩] ∧ ((10 : Nat) : Int) ≤ 10 ∧ (∀ c ∈ [(⟨20, -10⟩ : Cue)], (10 : Int) < c.position)
      ∧ g.cues = [⟨10, -5⟩] ++ [⟨20, -10⟩] ∧ (-10 : Int) ≠ -15 ∧ g.cues.length < 32)
      ∧ (List.replicate 32 (⟨10, -5⟩ : Cue)).length = 32
      ∧ ({ GainRec.fresh with applied := some 0 } : GainRec).cues = [] := by decide +kernel

/-! ## Watches -/

/-- A watch on this object, in this state. -/
def watchOn (object : WatchObject) (state : WatchState) : Watch :=
  { Watch.reset with
    state := state
    record := { WatchRecord.factory with enable := true, object := object, measure := .freePages, threshold := 5, freezeEnable := true } }

/-- Another object, a watch that is off, an absent value, a frozen watch; and a watch that takes the value at its threshold. -/
theorem test_meets_WatchTakesOrSkipsAnObservation :
    let panelOf (x : Watch) (freeze : Bool) : Panel :=
      { now := 5, lnk := heldLink 0 0, wch := { Wch.reset with watches := Wch.reset.watches.set 31 x, freeze := freeze } }
    ((panelOf (watchOn .reference .quiet) false).wch.watches[31]).record.object ≠ .pool
      ∧ ((panelOf (watchOn .pool .off) false).wch.watches[31]).state = .off
      ∧ (fun _ : Measure => (none : Option Int)) .freePages = none
      ∧ ((panelOf (watchOn .pool .quiet) true).wch.freeze = true
          ∧ ((panelOf (watchOn .pool .quiet) true).wch.watches[31]).record.freezeEnable = true)
      ∧ (let x := (panelOf (watchOn .pool .quiet) false).wch.watches[31]
         x.record.object = .pool ∧ x.state ≠ .off ∧ freePages 5 x.record.measure = some 5
          ∧ (panelOf (watchOn .pool .quiet) false).wch.freeze = false) := by decide +kernel

/-- A watch with raise count 3 and clear count 2: runs one short of them and at them; an EDGE watch at its entries. -/
theorem test_meets_WatchesCountRunsAndEntries :
    let r : WatchRecord := { WatchRecord.factory with enable := true, raiseCount := 3, clearCount := 2 }
    (∀ x ∈ [1, 1, 1], r.qualifies x = true) ∧ ([1] : List Int).length + 1 < r.raiseCount ∧ ([1, 1] : List Int).length + 1 = r.raiseCount
      ∧ (∀ x ∈ [0, 0], r.qualifies x = false) ∧ ([] : List Int).length + 1 < r.clearCount ∧ ([0] : List Int).length + 1 = r.clearCount
      ∧ r.mode = .level ∧ ({ r with mode := .edge } : WatchRecord).mode = .edge := by decide +kernel

/-! ## The profile -/

/-- A store in flight with this much of the body to go. -/
def storing (body : List Byte) : State :=
  { booted with pfu := { booted.pfu with
      store := some { body := body, address := 63, header := imageHeader 1 body, storeCount := 1, bodyLength := body.length } } }

/-- No store in flight, and one; a body whose transfer leaves some of it, one whose transfer is the last, and the header. -/
theorem test_meets_ProfileStoreWritesBodyThenHeader :
    ((asked 0x60 []).Takes 0x60 9 [] ∧ (asked 0x60 []).pfu.store = none)
      ∧ ((askedOf (storing [1]) 0x60 []).Takes 0x60 9 [] ∧ (askedOf (storing [1]) 0x60 []).pfu.store ≠ none)
      ∧ (∀ body ∈ [([1, 2] : List Byte), [1], []], (storing body).powered = true
          ∧ ∃ o, (storing body).pfu.store = some o ∧ o.body = body) := by
  refine ⟨by decide +kernel, by decide +kernel, fun body _ => ⟨rfl, _, rfl, rfl⟩⟩

/-- The settings of a booted part are in range. -/
theorem booted_in_range : booted.SettingsInRange := by
  refine ⟨by decide, by decide +kernel, fun p hp => absurd hp ?_, fun w => ?_⟩
  · have : ∀ p : ProgId, ¬((booted.prog p).state = .waiting ∨ (booted.prog p).state = .running) := by decide +kernel
    exact this p
  · have : ∀ w : WatchId, booted.wch.watches[w] = Watch.reset := by decide +kernel
    rw [this w]
    decide +kernel

theorem test_meets_StoredImageReadsBackTheSettings : booted.SettingsInRange ∧ 2 ^ 32 - 1 < 2 ^ 32 ∧ Memory.wf [] :=
  ⟨booted_in_range, by decide, Memory.wf_nil⟩

/-- The body of the image of a part with programmes 14 and 15 on one input channel, and with watch 31 on a programme 16. -/
def awkwardBody : List Byte :=
  let body := (withProg running |>.setProg 14 running).imageBody
  body.set (body.length - 14) 16

/-- The memory that this image makes. -/
def awkwardImage : Memory := (Memory.writeBytes [] 16 awkwardBody).writeBytes 0 (imageHeader 1 awkwardBody)

/-- No image; and an image with one programme taken and one skipped, a watch on a programme that exists and one on one that does not. -/
theorem test_meets_ProfileLoadAppliesTheImageOrTheDefaults :
    (State.reset.powered = true ∧ State.reset.pfu.outcome = .loading ∧ State.reset.pfu.store = none
        ∧ State.reset.pfu.answered = true ∧ judgeImage State.reset.pfu.mem = none)
      ∧ (let s : State := { State.reset with pfu := Pfu.reset awkwardImage }
         s.powered = true ∧ s.pfu.outcome = .loading ∧ s.pfu.answered = true ∧ s.PagesConserved ∧ ∃ q, judgeImage s.pfu.mem = some q
          ∧ q.progs.map (·.prog) = [14, 15] ∧ (takenRecords [] q.progs).map (·.prog) = [14]
          ∧ [0, 31].map (fun n => q.watches[n]?.map (·.object)) = [some (some (.programme, 0)), some (some (.programme, 16))]) := by
  refine ⟨by decide +kernel, rfl, rfl, rfl, ⟨?_, by decide +kernel, by decide +kernel, by decide +kernel⟩, ?_⟩
  · have held : heldPages ({ State.reset with pfu := Pfu.reset awkwardImage } : State).progs = [] := by decide +kernel
    have free : ({ State.reset with pfu := Pfu.reset awkwardImage } : State).dmc.free = allPages := by
      dsimp only [State.reset, State.afterReset]
    rw [held, List.append_nil, free]
  · dsimp only [Pfu.reset]
    unfold awkwardImage
    rw [judgeImage_written Memory.wf_nil (by decide) (by decide +kernel) (by decide +kernel)]
    have good : (readProfile awkwardBody).any (fun q => decide (q.progs.map (·.prog) = [14, 15]
        ∧ (takenRecords [] q.progs).map (·.prog) = [14]
        ∧ [0, 31].map (fun n => q.watches[n]?.map (·.object)) = [some (some (.programme, 0)), some (some (.programme, 16))])) := by
      decide +kernel
    cases h : readProfile awkwardBody with
    | none => simp [h] at good
    | some q => exact ⟨q, rfl, by simpa [h] using good⟩

/-! ## What every step keeps: a part at work -/

/-- The meter record of a programme that has recorded one block of -230. -/
def measured : MeterRec := { MeterRec.fresh with levels := [-230], histogram := [(-230, 1)] }

/-- A programme running with two cues queued and its input stamp near the wrap. -/
def workingProg : Prog :=
  { running with
    meter := measured, inputStamp := 2 ^ 48 - 2,
    gain := { running.gain with cues := [⟨2 ^ 48 - 40, -5⟩, ⟨2 ^ 48 - 2, -10⟩] } }

/-- A part with programme 15 running on page 0, a byte in each memory, an alarm raised, a lane running, and a strobe waiting. -/
def working : State :=
  { (withProg workingProg).setLane 7 (runningLane .none 0) with
    pending := [.refStrobe 0]
    refu := { Refu.reset with state := .locked, clock := 2 ^ 48 - 1, silence := 47, presence := 4800 }
    dmc := { free := allPages.tail, wait := [], dram := [(5, 1)] }
    wch := { Wch.reset with table := [noted .profileFault], minor := true }
    pfu := { booted.pfu with mem := [(7, 2)] } }

/-- Every witness below steps. -/
theorem test_working_steps : ∃ t, step working = .next t := ⟨_, rfl⟩

theorem test_meets_StepKeepsMemoriesCountsAndQueuesBounded :
    working.MemoriesCanonical ∧ working.CountsBounded ∧ working.LinkBounded := by
  unfold State.MemoriesCanonical State.CountsBounded State.LinkBounded
  decide +kernel

theorem test_meets_StepKeepsTheAlarmLaws : working.AlarmsConsistent := by
  unfold State.AlarmsConsistent
  decide +kernel

theorem test_meets_StepKeepsTheTapBudgetAndNoLaneWaits :
    working.BudgetKept ∧ working.NoLaneWaits ∧ working.front.tapsInUse = 512 := by
  unfold State.BudgetKept State.NoLaneWaits
  decide +kernel

theorem test_meets_StepConservesEveryPage : working.PagesConserved := by
  refine ⟨?_, by decide +kernel, by decide +kernel, by decide +kernel⟩
  have held : heldPages working.progs = [0] := by decide +kernel
  rw [held]
  dsimp only [working]
  have whole : allPages = 0 :: (List.finRange 2047).map Fin.succ := List.finRange_succ
  rw [whole, List.tail_cons]
  exact List.perm_append_singleton _ _

theorem test_meets_StepKeepsTapsDelaysAndGains :
    working.TapsAligned ∧ (working.prog 15).state.live = true ∧ working.RequestsBounded ∧ working.GainsLimited := by
  refine ⟨by unfold State.TapsAligned; decide +kernel, by decide +kernel, fun p => ⟨?_, fun r hr => ?_, ?_⟩, fun p => ⟨?_, ?_, ?_, fun g hg => ?_⟩⟩
  · revert p; decide +kernel
  · have none_pending : ∀ p : ProgId, (working.prog p).delay.pending = none := by decide +kernel
    simp [none_pending p] at hr
  · revert p; decide +kernel
  · unfold GainSettings.InRange; revert p; decide +kernel
  · revert p; decide +kernel
  · revert p; decide +kernel
  · have none_or_zero : ∀ p : ProgId, (working.prog p).gain.gcur = none ∨ (working.prog p).gain.gcur = some 0 := by decide +kernel
    have factory : ∀ p : ProgId, (working.prog p).gain.settings = GainSettings.factory := by decide +kernel
    rcases none_or_zero p with h | h <;> rw [h] at hg
    · simp at hg
    · obtain rfl : (0 : Int) = g := by simpa using hg
      rw [factory p]
      decide

theorem test_meets_StepKeepsEveryHistogramTrue : working.HistogramsTrue := by
  intro p
  have kinds : ∀ p : ProgId, (working.prog p).meter = MeterRec.fresh ∨ (working.prog p).meter = measured := by decide +kernel
  rcases kinds p with h | h <;> rw [h]
  · refine ⟨by decide, by decide, by decide, by decide, by decide, fun b => ?_⟩
    simp [MeterRec.fresh, Histogram.count]
  · refine ⟨by decide, by decide, by decide, by decide, by decide, fun b => ?_⟩
    by_cases hb : b = -230
    · subst hb; decide
    · simp [measured, MeterRec.fresh, Histogram.count, Ne.symm hb]

theorem test_meets_StepKeepsEverySettingInRange : working.SettingsInRange ∧ (working.prog 15).state = .running := by
  refine ⟨⟨by decide, by decide +kernel, fun p hp => ?_, fun w => ?_⟩, by decide +kernel⟩
  · have only : ∀ p : ProgId, (working.prog p).state = .waiting ∨ (working.prog p).state = .running →
        working.prog p = workingProg := by decide +kernel
    rw [only p hp]
    decide
  · have fresh : ∀ w : WatchId, working.wch.watches[w] = Watch.reset := by decide +kernel
    rw [fresh w]
    decide

theorem working_delay_laws : working.DelayMemoryLaws := delay_laws_of (by decide +kernel) (by decide +kernel)

theorem test_meets_StepKeepsTheDelayMemoryLaws :
    working.RequestsBounded ∧ working.PagesConserved ∧ working.AlarmsConsistent ∧ working.DelayMemoryLaws :=
  ⟨test_meets_StepKeepsTapsDelaysAndGains.2.2.1, test_meets_StepConservesEveryPage, test_meets_StepKeepsTheAlarmLaws,
    working_delay_laws⟩

theorem working_cues : working.CuesAhead ∧ working.FactorsInRange := by
  unfold State.CuesAhead State.FactorsInRange
  decide +kernel

theorem test_meets_StepKeepsCuesAheadAndFactorsInRange :
    (working.RequestsBounded ∧ working.PagesConserved ∧ working.AlarmsConsistent ∧ working.DelayMemoryLaws ∧ working.GainsLimited
        ∧ (∀ p : ProgId, (working.prog p).inputStamp + 1 < 2 ^ 48) ∧ working.CuesAhead ∧ working.FactorsInRange)
      ∧ (working.powered = true ∧ working.NothingOutstanding ∧ working.NoPageGivenUp ∧ (working.prog 15).state = .running) := by
  refine ⟨⟨test_meets_StepKeepsTapsDelaysAndGains.2.2.1, test_meets_StepConservesEveryPage, test_meets_StepKeepsTheAlarmLaws,
    working_delay_laws, test_meets_StepKeepsTapsDelaysAndGains.2.2.2, by decide +kernel, working_cues.1, working_cues.2⟩, ?_⟩
  unfold State.NothingOutstanding State.NoPageGivenUp
  decide +kernel

/-- The first two numbers of a range. -/
theorem finRange_two (n : Nat) : List.finRange (n + 2) = 0 :: 1 :: ((List.finRange n).map Fin.succ).map Fin.succ := by
  rw [List.finRange_succ, List.finRange_succ]
  rfl

/-- The part at work with programme 15 on pages 0 and 1, in a glide that gives up one of them. -/
def glidingDown : State :=
  { working.setProg 15 { workingProg with
      members := [{ member with ring := some { writePage := 0, rest := [1], writeOffset := 0, historyStart := 0 } }]
      delay := { workingProg.delay with change := .gliding, current := 64 * 1024 } } with
    dmc := { free := allPages.tail.tail, wait := [], dram := [] } }

/-- The part at work, and in a glide that gives up a page; and numbers over a divisor. -/
theorem test_meets_DelayOutputReadsGainsAndFades :
    (working.powered = true ∧ working.NothingOutstanding ∧ working.NoPageGivenUp ∧ working.PagesConserved
        ∧ (working.prog 15).state = .running)
      ∧ (glidingDown.powered = true ∧ glidingDown.NothingOutstanding ∧ ¬glidingDown.NoPageGivenUp ∧ glidingDown.PagesConserved
        ∧ (glidingDown.prog 15).state = .running) ∧ 0 < 2 ^ 20 := by
  have h := test_meets_StepKeepsCuesAheadAndFactorsInRange.2
  refine ⟨⟨h.1, h.2.1, h.2.2.1, test_meets_StepConservesEveryPage, h.2.2.2⟩, ⟨rfl, ?_, ?_, ⟨?_, ?_, ?_, ?_⟩, ?_⟩, by decide⟩
  · unfold State.NothingOutstanding; decide +kernel
  · unfold State.NoPageGivenUp; decide +kernel
  · have held : heldPages glidingDown.progs = [0, 1] := by decide +kernel
    rw [held]
    dsimp only [glidingDown]
    obtain ⟨rest, whole⟩ : ∃ rest, allPages = 0 :: 1 :: rest := ⟨_, finRange_two 2046⟩
    rw [whole, List.tail_cons, List.tail_cons]
    exact List.perm_append_comm (l₂ := [0, 1])
  all_goals decide +kernel

end Sys2Proof.Tests
end

/-! Level searches: what a search by bits from the top finds, whatever the property does elsewhere, and in closed form when the property
is a bound. -/
namespace Sys2Proof.Machine

/-- A search by bits from the top ends between a value that has the property and one that lacks it, or at an end of its range. It needs
no law of the property: R116's is decided on whole-number bounds, which can leave a value undecided (log 24). -/
theorem searchUp_edges (p : Int → Bool) (n : Nat) (lo : Int) :
    (searchUp p n lo = lo ∨ lo < searchUp p n lo ∧ p (searchUp p n lo) = true)
      ∧ (searchUp p n lo + 1 = lo + 2 ^ n ∨ searchUp p n lo + 1 < lo + 2 ^ n ∧ p (searchUp p n lo + 1) = false) := by
  induction n generalizing lo with
  | zero => simp [searchUp]
  | succ n ih =>
    have double : (2 : Int) ^ (n + 1) = 2 ^ n + 2 ^ n := by ring
    have pos : (0 : Int) < 2 ^ n := by positivity
    simp only [searchUp, double]
    split
    · next yes =>
      obtain ⟨low | low, high⟩ := ih (lo + 2 ^ n)
      · exact ⟨.inr ⟨by omega, by rwa [low]⟩, by rwa [← add_assoc]⟩
      · exact ⟨.inr ⟨by omega, low.2⟩, by rwa [← add_assoc]⟩
    · next no =>
      obtain ⟨low, high | high⟩ := ih lo
      · exact ⟨low, .inr ⟨by omega, by rw [high]; simpa using no⟩⟩
      · exact ⟨low, .inr ⟨by omega, high.2⟩⟩

/-- The greatest value at or below a bound, kept in the search's range. -/
theorem searchUp_of_le_iff {p : Int → Bool} {bound : Int} (hp : ∀ k, p k = true ↔ k ≤ bound) (n : Nat) (lo : Int) :
    searchUp p n lo = max lo (min bound (lo + 2 ^ n - 1)) := by
  have pos : (0 : Int) < 2 ^ n := by positivity
  obtain ⟨low, high⟩ := searchUp_edges p n lo
  have absent : p (searchUp p n lo + 1) = false ↔ bound < searchUp p n lo + 1 := by
    rw [← Bool.not_eq_true, hp, not_le]
  rw [hp] at low
  rw [absent] at high
  omega

end Sys2Proof.Machine

/-! The block level (R108 to R111) against the real logarithm. -/
namespace Sys2Proof.Machine

/-- The comparison of whole numbers that R110's search makes is that of the level with k less a half. -/
theorem levelAtLeast_iff {num den : Nat} (hnum : 0 < num) (hden : 0 < den) (k : Int) :
    levelAtLeast num den k = true ↔ k ≤ ⌊100 * Real.logb 10 ((num : ℝ) / den) + 1 / 2⌋ := by
  have hn : (0 : ℝ) < num := by exact_mod_cast hnum
  have hd : (0 : ℝ) < den := by exact_mod_cast hden
  have scaled : k ≤ ⌊100 * Real.logb 10 ((num : ℝ) / den) + 1 / 2⌋
      ↔ ((2 * k - 1 : Int) : ℝ) ≤ Real.logb 10 (((num : ℝ) / den) ^ 200) := by
    rw [Int.le_floor, Real.logb_pow]
    push_cast
    constructor <;> intro h <;> linarith
  rw [scaled, Real.le_logb_iff_rpow_le (by norm_num) (by positivity), Real.rpow_intCast, div_pow, le_div_iff₀ (by positivity),
    levelAtLeast]
  by_cases he : 0 ≤ 2 * k - 1
  · obtain ⟨e, he'⟩ := Int.eq_ofNat_of_zero_le he
    simp only [he', Int.natCast_nonneg, if_true, Int.toNat_natCast, decide_eq_true_eq, zpow_natCast]
    norm_cast
  · obtain ⟨e, he'⟩ := Int.eq_ofNat_of_zero_le (show 0 ≤ -(2 * k - 1) by omega)
    have minus : 2 * k - 1 = -(e : Int) := by omega
    rw [if_neg he, he', minus, zpow_neg, zpow_natCast, inv_mul_le_iff₀ (by positivity), mul_comm ((10 : ℝ) ^ e)]
    simp only [Int.toNat_natCast, decide_eq_true_eq]
    norm_cast

/-- R110's level of an energy above 0, kept in the range of the search. -/
theorem energyLevel_of_pos {num den : Nat} (hnum : 0 < num) (hden : 0 < den) :
    energyLevel num den = max (-1000) (min ⌊100 * Real.logb 10 ((num : ℝ) / den) + 1 / 2⌋ 1047) := by
  rw [energyLevel, if_neg hnum.ne', searchUp_of_le_iff (levelAtLeast_iff hnum hden)]
  norm_num

theorem energyLevel_zero (den : Nat) : energyLevel 0 den = -1000 := if_pos rfl

/-- R108's decoded value, from its units of 2^-41. -/
theorem EnergyWord.decoded_units (w : EnergyWord) :
    (w.decoded : ℝ) / 2 ^ 41 = if w.bits.toNat / 2048 = 0 then ((w.bits.toNat % 2048 : Nat) : ℝ) / 2 ^ 41
      else (1 + ((w.bits.toNat % 2048 : Nat) : ℝ) / 2048) * 2 ^ (w.bits.toNat / 2048) / 2 ^ 31 := by
  unfold EnergyWord.decoded EnergyWord.exponent EnergyWord.fraction
  split
  · rfl
  · next he =>
    obtain ⟨e, he'⟩ := Nat.exists_eq_add_one_of_ne_zero he
    rw [he', Nat.add_sub_cancel, pow_succ]
    push_cast
    ring

/-- Figures held as whole numbers of a unit sum as those do. -/
theorem sum_units {α : Type} {figure : α → ℝ} {units : α → ℕ} {d : ℝ} (h : ∀ a, figure a = units a / d) (l : List α) :
    (l.map figure).sum = ((l.map units).sum : ℕ) / d := by
  induction l with
  | nil => simp
  | cons a l ih => simp only [List.map_cons, List.sum_cons, ih, h, Nat.cast_add, add_div]

/-- R109's block energy, from its units of 2^-50. -/
theorem blockEnergy_units {decoded : EnergyWord → ℝ} {weight : Member → ℝ} (hd : ∀ w, decoded w = (w.decoded : ℝ) / 2 ^ 41)
    (hw : ∀ m, weight m = (m.spec.effectiveWeight.value : ℝ) / 128) (ms : List Member) :
    (ms.map fun m => weight m * (m.words.map decoded).sum / 4).sum = (blockEnergy ms : ℝ) / 2 ^ 50 := by
  refine sum_units (fun m => ?_) ms
  rw [hw, sum_units hd, Member.blockEnergy, Nat.cast_mul]
  ring

theorem blockOverload_iff (ms : List Member) :
    blockOverload ms = true ↔ (∃ m ∈ ms, ∃ w ∈ m.words, w.saturated = true) ∨ 100 < exactBlockLevel ms := by
  simp [blockOverload]

/-- Settles O43: the search of R110 is the floor of the real logarithm, of an energy that the model holds in units of 2^-50. -/
theorem blockLevelIsTheDecimalLogarithm : Obligations.BlockLevelIsTheDecimalLogarithm := by
  unfold Obligations.BlockLevelIsTheDecimalLogarithm
  intro ms decoded weight z level
  have hweight (m : Member) : weight m = (m.spec.effectiveWeight.value : ℝ) / 128 := by
    dsimp only [weight]
    cases m.spec.effectiveWeight <;> norm_num [Weight.value]
  have hz : z = (blockEnergy ms : ℝ) / 2 ^ 50 := blockEnergy_units (fun w => w.decoded_units.symm) hweight ms
  rw [blockOverload_iff, blockLevel, exactBlockLevel]
  rcases Nat.eq_zero_or_pos (blockEnergy ms) with silent | sounding
  · have hz0 : z = 0 := by rw [hz, silent]; simp
    rw [silent, energyLevel_zero]
    simp [hz0]
  · have hz0 : z ≠ 0 := by rw [hz]; positivity
    have hlevel : energyLevel (blockEnergy ms) (2 ^ 50) = max (-1000) (min level 1047) := by
      rw [energyLevel_of_pos sounding (by norm_num)]
      simp only [level, hz, Nat.cast_pow, Nat.cast_ofNat]
    rw [hlevel]
    simp only [hz0, false_or, ne_eq, not_false_eq_true, true_and]
    constructor
    · omega
    · have same : 100 < max (-1000) (min level 1047) ↔ 100 < level := by omega
      rw [same]

end Sys2Proof.Machine

/-! Levels of means, gates and the correlation figure (R116 to R120, log 24) against real powers, logarithms and roots. -/
namespace Sys2Proof.Machine

/-! ## Roots found by their bits -/

/-- The search ends on the whole part of the root, or below it at the end of its range. -/
theorem root200_spec (t n acc : Nat) (h : acc ^ 200 ≤ t) :
    root200 t n acc ^ 200 ≤ t ∧ (root200 t n acc + 1 = acc + 2 ^ n ∨ t < (root200 t n acc + 1) ^ 200) := by
  induction n generalizing acc with
  | zero => simpa [root200] using h
  | succ n ih =>
    have double : 2 ^ (n + 1) = 2 ^ n + 2 ^ n := by ring
    simp only [root200, double]
    split
    · next yes =>
      rw [← add_assoc]
      exact ih _ yes
    · next no =>
      obtain ⟨below, edge | above⟩ := ih acc h
      · exact ⟨below, .inr (by rw [edge]; exact not_le.mp no)⟩
      · exact ⟨below, .inr above⟩

/-- The root that `tenRoot` approaches, raised to the 200th power again. -/
theorem scaledPower_pow (prec e : Nat) :
    ((10 : ℝ) ^ ((e : ℝ) / 200) * 2 ^ prec) ^ 200 = ((10 ^ e * 2 ^ (200 * prec) : ℕ) : ℝ) := by
  rw [mul_pow, ← Real.rpow_mul_natCast (by norm_num), ← pow_mul, mul_comm prec]
  push_cast
  rw [div_mul_cancel₀ _ (by norm_num), Real.rpow_natCast]

theorem tenRoot_le (prec e : Nat) : (tenRoot prec e : ℝ) ≤ 10 ^ ((e : ℝ) / 200) * 2 ^ prec := by
  refine le_of_pow_le_pow_left₀ (n := 200) (by norm_num) (by positivity) ?_
  rw [scaledPower_pow]
  exact_mod_cast (root200_spec _ (prec + 48) 0 (by simp)).1

/-- Below the end of its range the search comes within 1 of the root. -/
theorem lt_tenRoot_succ {prec e : Nat} (h : tenRoot prec e + 1 ≠ 2 ^ (prec + 48)) :
    (10 : ℝ) ^ ((e : ℝ) / 200) * 2 ^ prec < tenRoot prec e + 1 := by
  refine lt_of_pow_lt_pow_left₀ 200 (by positivity) ?_
  rw [scaledPower_pow]
  obtain edge | above := (root200_spec (10 ^ e * 2 ^ (200 * prec)) (prec + 48) 0 (by simp)).2
  · exact absurd (by rw [tenRoot, edge, zero_add]) h
  · exact_mod_cast above

/-- The range of the search holds every power up to 10 ^ 12. -/
theorem scaledPower_lt {x : ℝ} (hx : x ≤ 12) (prec : Nat) : (10 : ℝ) ^ x * 2 ^ prec < 2 ^ (prec + 48) := by
  have top : (10 : ℝ) ^ x ≤ 10 ^ (12 : ℕ) := by
    rw [← Real.rpow_natCast]
    exact Real.rpow_le_rpow_of_exponent_le (by norm_num) (by exact_mod_cast hx)
  have wide : (10 : ℝ) ^ (12 : ℕ) < 2 ^ 48 := by norm_num
  rw [pow_add, mul_comm]
  exact mul_lt_mul_of_pos_left (top.trans_lt wide) (by positivity)

theorem lt_tenRoot_succ_of_le {prec e : Nat} (he : e ≤ 2300) : (10 : ℝ) ^ ((e : ℝ) / 200) * 2 ^ prec < tenRoot prec e + 1 := by
  by_cases edge : tenRoot prec e + 1 = 2 ^ (prec + 48)
  · have he' : (e : ℝ) ≤ 2300 := by exact_mod_cast he
    have range := scaledPower_lt (x := (e : ℝ) / 200) (by linarith) prec
    exact range.trans_eq (by exact_mod_cast edge.symm)
  · exact lt_tenRoot_succ edge

/-! ## The energies of counted levels -/

theorem countTotal_eq_sum (bins : List (Int × Nat)) : countTotal bins = (bins.map (·.2)).sum := by
  induction bins with
  | nil => rfl
  | cons c rest ih => simp [countTotal, ih]

theorem countTotal_eq_zero_iff {bins : List (Int × Nat)} (h : ∀ c ∈ bins, 0 < c.2) : countTotal bins = 0 ↔ bins = [] := by
  cases bins with
  | nil => simp [countTotal]
  | cons c rest =>
    have := h c List.mem_cons_self
    simp only [countTotal, reduceCtorEq, iff_false]
    omega

/-- What `scaledSum` approaches: the sum of n * 10 ^ (b / 100) over the counted levels (R116). -/
noncomputable def energySum (bins : List (Int × Nat)) : ℝ := (bins.map fun c => (c.2 : ℝ) * (10 : ℝ) ^ ((c.1 : ℝ) / 100)).sum

/-- The levels a block can have (R110). -/
def LevelsInRange (bins : List (Int × Nat)) : Prop := ∀ c ∈ bins, -1000 ≤ c.1 ∧ c.1 ≤ 100

/-- The factor that the exponents' shift brings. -/
noncomputable def shiftFactor : ℝ := 10 ^ ((1001 : ℝ) / 100)

theorem shiftFactor_pos : 0 < shiftFactor := by unfold shiftFactor; positivity

theorem rpow_shifted {j : Int} (hj : -2002 ≤ j) :
    (10 : ℝ) ^ (((j + exponentShift).toNat : ℝ) / 200) = 10 ^ ((j : ℝ) / 200) * shiftFactor := by
  have cast : (((j + exponentShift).toNat : ℕ) : ℝ) = j + 2002 := by
    have whole : ((j + exponentShift).toNat : Int) = j + 2002 := Int.toNat_of_nonneg (by unfold exponentShift; omega)
    exact_mod_cast congrArg (Int.cast (R := ℝ)) whole
  rw [cast, shiftFactor, ← Real.rpow_add (by norm_num)]
  ring_nf

theorem scaledEnergy_bounds (prec : Nat) {b : Int} (low : -1000 ≤ b) (high : b ≤ 100) :
    (scaledEnergy prec b : ℝ) ≤ 10 ^ ((b : ℝ) / 100) * shiftFactor * 2 ^ prec
      ∧ 10 ^ ((b : ℝ) / 100) * shiftFactor * 2 ^ prec ≤ (scaledEnergy prec b : ℝ) + 1 := by
  have power : (10 : ℝ) ^ (((2 * b + exponentShift).toNat : ℝ) / 200) = 10 ^ ((b : ℝ) / 100) * shiftFactor := by
    rw [rpow_shifted (by omega)]
    push_cast
    ring_nf
  rw [← power]
  exact ⟨tenRoot_le _ _, (lt_tenRoot_succ_of_le (by unfold exponentShift; omega)).le⟩

/-- Rounding each level's energy down loses at most one for each of them. -/
theorem scaledSum_bounds (prec : Nat) {bins : List (Int × Nat)} (h : LevelsInRange bins) :
    (scaledSum prec bins : ℝ) ≤ energySum bins * shiftFactor * 2 ^ prec
      ∧ energySum bins * shiftFactor * 2 ^ prec ≤ (scaledSum prec bins : ℝ) + countTotal bins := by
  induction bins with
  | nil => simp [scaledSum, energySum, countTotal]
  | cons c rest ih =>
    obtain ⟨hc, hrest⟩ := List.forall_mem_cons.mp h
    obtain ⟨restLow, restHigh⟩ := ih hrest
    obtain ⟨low, high⟩ := scaledEnergy_bounds prec hc.1 hc.2
    have count : (0 : ℝ) ≤ c.2 := Nat.cast_nonneg _
    have low' := mul_le_mul_of_nonneg_left low count
    have high' := mul_le_mul_of_nonneg_left high count
    have cons : energySum (c :: rest) = c.2 * 10 ^ ((c.1 : ℝ) / 100) + energySum rest := by simp [energySum]
    rw [cons]
    simp only [scaledSum, countTotal, Nat.cast_add, Nat.cast_mul]
    constructor <;> linarith

/-- A mean lies between the least and the greatest level. -/
theorem energySum_bounds {bins : List (Int × Nat)} (h : LevelsInRange bins) :
    countTotal bins * (10 : ℝ) ^ (-10 : ℝ) ≤ energySum bins ∧ energySum bins ≤ countTotal bins * 10 := by
  induction bins with
  | nil => simp [energySum, countTotal]
  | cons c rest ih =>
    obtain ⟨⟨low, high⟩, hrest⟩ := List.forall_mem_cons.mp h
    obtain ⟨restLow, restHigh⟩ := ih hrest
    have low' : (-1000 : ℝ) ≤ c.1 := by exact_mod_cast low
    have high' : (c.1 : ℝ) ≤ 100 := by exact_mod_cast high
    have least : (10 : ℝ) ^ (-10 : ℝ) ≤ 10 ^ ((c.1 : ℝ) / 100) :=
      Real.rpow_le_rpow_of_exponent_le (by norm_num) (by linarith)
    have greatest : (10 : ℝ) ^ ((c.1 : ℝ) / 100) ≤ 10 ^ (1 : ℝ) :=
      Real.rpow_le_rpow_of_exponent_le (by norm_num) (by linarith)
    rw [Real.rpow_one] at greatest
    have count : (0 : ℝ) ≤ c.2 := Nat.cast_nonneg _
    have least' := mul_le_mul_of_nonneg_left least count
    have greatest' := mul_le_mul_of_nonneg_left greatest count
    have cons : energySum (c :: rest) = c.2 * 10 ^ ((c.1 : ℝ) / 100) + energySum rest := by simp [energySum]
    rw [cons, countTotal, Nat.cast_add, add_mul, add_mul]
    exact ⟨add_le_add least' restLow, add_le_add greatest' restHigh⟩

/-! ## The level of a mean (R116 to R119) -/

/-- The whole-number bound of a mean of level k less a half. -/
def meanBound (bins : List (Int × Nat)) (k : Int) (prec : Nat) : Nat :=
  countTotal bins * tenRoot prec (2 * k - 1 + exponentShift).toNat

theorem meanAtLeast_succ (bins : List (Int × Nat)) (k : Int) (fuel prec : Nat) :
    meanAtLeast bins k (fuel + 1) prec =
      if meanBound bins k prec + countTotal bins ≤ scaledSum prec bins then true
      else if scaledSum prec bins + countTotal bins ≤ meanBound bins k prec then false
      else meanAtLeast bins k fuel (2 * prec) := rfl

/-- What is answered true was decided at some precision. -/
theorem decided_of_meanAtLeast {bins : List (Int × Nat)} {k : Int} {fuel prec : Nat} (h : meanAtLeast bins k fuel prec = true) :
    ∃ prec, meanBound bins k prec + countTotal bins ≤ scaledSum prec bins := by
  induction fuel generalizing prec with
  | zero => simp [meanAtLeast] at h
  | succ fuel ih =>
    rw [meanAtLeast_succ] at h
    split at h
    · exact ⟨prec, ‹_›⟩
    · split at h
      · cases h
      · exact ih h

/-- What is answered false was not found true at the first precision. -/
theorem undecided_of_not_meanAtLeast {bins : List (Int × Nat)} {k : Int} {fuel prec : Nat}
    (h : meanAtLeast bins k (fuel + 1) prec = false) : scaledSum prec bins < meanBound bins k prec + countTotal bins := by
  rw [meanAtLeast_succ] at h
  by_contra found
  rw [if_pos (not_lt.mp found)] at h
  cases h

/-- True answers hold exactly, of bounds outside the roots' range too: no mean of levels reaches one of these. -/
theorem le_energySum_of_decided {bins : List (Int × Nat)} (hb : LevelsInRange bins) (ht : 0 < countTotal bins) {k : Int}
    (hk : -1000 < k) {prec : Nat} (h : meanBound bins k prec + countTotal bins ≤ scaledSum prec bins) :
    countTotal bins * (10 : ℝ) ^ (((2 * k - 1 : Int) : ℝ) / 200) ≤ energySum bins := by
  set root := tenRoot prec (2 * k - 1 + exponentShift).toNat
  have count : (0 : ℝ) < countTotal bins := by exact_mod_cast ht
  have unit : 0 < shiftFactor * (2 : ℝ) ^ prec := mul_pos shiftFactor_pos (by positivity)
  have reached : countTotal bins * ((root : ℝ) + 1) ≤ energySum bins * shiftFactor * 2 ^ prec := by
    refine le_trans ?_ (scaledSum_bounds prec hb).1
    have h' : countTotal bins * (root + 1) ≤ scaledSum prec bins := by rw [mul_add_one]; exact h
    exact_mod_cast h'
  have inside : root + 1 ≠ 2 ^ (prec + 48) := by
    intro edge
    have top : 10 * shiftFactor * 2 ^ prec < 2 ^ (prec + 48) := by
      have power : 10 * shiftFactor = (10 : ℝ) ^ ((1101 : ℝ) / 100) := by
        rw [shiftFactor, show (1101 : ℝ) / 100 = 1 + 1001 / 100 by norm_num, Real.rpow_add (by norm_num), Real.rpow_one]
      rw [power]
      exact scaledPower_lt (by norm_num) prec
    have edge' : (root : ℝ) + 1 = 2 ^ (prec + 48) := by exact_mod_cast edge
    have most := mul_le_mul_of_nonneg_right (energySum_bounds hb).2 unit.le
    have less := mul_lt_mul_of_pos_left top count
    rw [edge'] at reached
    linarith
  have power := (lt_tenRoot_succ inside).le
  rw [rpow_shifted (by omega)] at power
  refine le_of_mul_le_mul_right ?_ unit
  calc countTotal bins * (10 : ℝ) ^ (((2 * k - 1 : Int) : ℝ) / 200) * (shiftFactor * 2 ^ prec)
      = countTotal bins * ((10 : ℝ) ^ (((2 * k - 1 : Int) : ℝ) / 200) * shiftFactor * 2 ^ prec) := by ring
    _ ≤ countTotal bins * ((root : ℝ) + 1) := mul_le_mul_of_nonneg_left power count.le
    _ ≤ energySum bins * (shiftFactor * 2 ^ prec) := by rw [← mul_assoc]; exact reached

/-- False answers, those that no precision decides among them, hold within two parts in 2 ^ prec of the bound (log 24). -/
theorem energySum_le_of_undecided {bins : List (Int × Nat)} (hb : LevelsInRange bins) {k : Int} (hk : -1000 < k) {prec : Nat}
    (h : scaledSum prec bins < meanBound bins k prec + countTotal bins) :
    energySum bins ≤ countTotal bins * ((10 : ℝ) ^ (((2 * k - 1 : Int) : ℝ) / 200) * (1 + 2 / 2 ^ prec)) := by
  set power : ℝ := 10 ^ (((2 * k - 1 : Int) : ℝ) / 200) with hpower
  have count : (0 : ℝ) ≤ countTotal bins := Nat.cast_nonneg _
  have unit : 0 < shiftFactor * (2 : ℝ) ^ prec := mul_pos shiftFactor_pos (by positivity)
  have bound : (meanBound bins k prec : ℝ) ≤ countTotal bins * (power * shiftFactor * 2 ^ prec) := by
    rw [meanBound, Nat.cast_mul, hpower, ← rpow_shifted (by omega)]
    exact mul_le_mul_of_nonneg_left (tenRoot_le _ _) count
  have large : 1 ≤ power * shiftFactor := by
    rw [hpower, ← rpow_shifted (by omega)]
    exact Real.one_le_rpow (by norm_num) (by positivity)
  have loss := mul_le_mul_of_nonneg_left large count
  have below : (scaledSum prec bins : ℝ) ≤ meanBound bins k prec + countTotal bins := by exact_mod_cast h.le
  refine le_of_mul_le_mul_right ?_ unit
  calc energySum bins * (shiftFactor * 2 ^ prec)
      ≤ scaledSum prec bins + countTotal bins := by rw [← mul_assoc]; exact (scaledSum_bounds prec hb).2
    _ ≤ countTotal bins * (power * shiftFactor * 2 ^ prec) + 2 * (countTotal bins * (power * shiftFactor)) := by linarith
    _ = countTotal bins * (power * (1 + 2 / 2 ^ prec)) * (shiftFactor * 2 ^ prec) := by
      field_simp

/-- The decimal logarithm grows by less than a part of what its argument does. -/
theorem logb_ten_one_add_le {y : ℝ} (hy : 0 ≤ y) : Real.logb 10 (1 + y) ≤ y := by
  have one_le : 1 ≤ Real.log 10 := by
    rw [Real.le_log_iff_exp_le (by norm_num)]
    linarith [Real.exp_one_lt_d9]
  have small : Real.log (1 + y) ≤ y := by linarith [Real.log_le_sub_one_of_pos (show 0 < 1 + y by linarith)]
  rw [Real.logb, div_le_iff₀ (by linarith)]
  nlinarith

/-- The level of the mean of the counted levels' energies, in tenths and not rounded (R116). -/
noncomputable def logMean (bins : List (Int × Nat)) : ℝ := 100 * Real.logb 10 (energySum bins / countTotal bins)

theorem le_logMean {bins : List (Int × Nat)} (ht : 0 < countTotal bins) {x : ℝ}
    (h : countTotal bins * (10 : ℝ) ^ (x / 100) ≤ energySum bins) : x ≤ logMean bins := by
  have count : (0 : ℝ) < countTotal bins := by exact_mod_cast ht
  have power : (0 : ℝ) < 10 ^ (x / 100) := by positivity
  have mean : (10 : ℝ) ^ (x / 100) ≤ energySum bins / countTotal bins := by
    rw [le_div_iff₀ count, mul_comm]; exact h
  have level := (Real.le_logb_iff_rpow_le (by norm_num) (power.trans_le mean)).mpr mean
  unfold logMean
  linarith

theorem logMean_le {bins : List (Int × Nat)} (ht : 0 < countTotal bins) (hs : 0 < energySum bins) {x y : ℝ} (hy : 0 ≤ y)
    (h : energySum bins ≤ countTotal bins * ((10 : ℝ) ^ (x / 100) * (1 + y))) : logMean bins ≤ x + 100 * y := by
  have count : (0 : ℝ) < countTotal bins := by exact_mod_cast ht
  have mean : energySum bins / countTotal bins ≤ (10 : ℝ) ^ (x / 100) * (1 + y) := by
    rw [div_le_iff₀ count, mul_comm]; exact h
  have level := Real.logb_le_logb_of_le (b := 10) (by norm_num) (div_pos hs count) mean
  rw [Real.logb_mul (by positivity) (by positivity), Real.logb_rpow (by norm_num) (by norm_num)] at level
  have := logb_ten_one_add_le hy
  unfold logMean
  linarith

theorem meanLevel_edges (bins : List (Int × Nat)) :
    (meanLevel bins = -1000 ∨ -1000 < meanLevel bins ∧ meanAtLeast bins (meanLevel bins) 9 64 = true)
      ∧ (meanLevel bins + 1 = 1048 ∨ meanLevel bins + 1 < 1048 ∧ meanAtLeast bins (meanLevel bins + 1) 9 64 = false) :=
  searchUp_edges (fun k => meanAtLeast bins k 9 64) 11 (-1000)

/-- R118's rounding, half up to tenths; within 10 ^ -9 of the upper edge it may be the lower of the two (log 24). -/
theorem meanLevel_rounds {bins : List (Int × Nat)} (hb : LevelsInRange bins) (ht : 0 < countTotal bins) :
    (meanLevel bins : ℝ) - 1 / 2 ≤ logMean bins ∧ logMean bins < meanLevel bins + 1 / 2 + 1 / 10 ^ 9 := by
  have count : (0 : ℝ) < countTotal bins := by exact_mod_cast ht
  obtain ⟨least, most⟩ := energySum_bounds hb
  have positive : 0 < energySum bins := (by positivity : (0 : ℝ) < countTotal bins * 10 ^ (-10 : ℝ)).trans_le least
  obtain ⟨low, high⟩ := meanLevel_edges bins
  constructor
  · obtain bottom | ⟨above, yes⟩ := low
    · refine le_logMean ht (le_trans ?_ least)
      rw [bottom]
      exact mul_le_mul_of_nonneg_left (Real.rpow_le_rpow_of_exponent_le (by norm_num) (by norm_num)) count.le
    · obtain ⟨prec, decided⟩ := decided_of_meanAtLeast yes
      refine le_logMean ht (Eq.trans_le ?_ (le_energySum_of_decided hb ht above decided))
      push_cast
      ring_nf
  · obtain top | ⟨-, no⟩ := high
    · have limit := logMean_le ht positive (x := 100) (y := 0) le_rfl (by simpa using most)
      have top' : (meanLevel bins : ℝ) = 1047 := by exact_mod_cast (by omega : meanLevel bins = 1047)
      rw [top']
      norm_num
      linarith
    · have near := energySum_le_of_undecided hb (by omega) (undecided_of_not_meanAtLeast no)
      have limit := logMean_le ht positive (x := meanLevel bins + 1 / 2) (y := 2 / 2 ^ 64) (by norm_num)
        (near.trans_eq (by push_cast; ring_nf))
      refine limit.trans_lt ?_
      norm_num

/-! ## The gate, the integrated and the short-term level -/

theorem gateFigures_of_ne_nil {m : MeterRec} (hpos : ∀ c ∈ m.histogram, 0 < c.2) (h : m.histogram ≠ []) :
    let theta := max (meanLevel m.histogram - m.relGate) (-700)
    m.gateFigures = some { lr := meanLevel m.histogram, theta := theta, nTheta := countTotal (binsFrom theta m.histogram) } :=
  if_neg fun none => h ((countTotal_eq_zero_iff hpos).mp none)

theorem gateFigures_of_nil {m : MeterRec} (h : m.histogram = []) : m.gateFigures = none :=
  if_pos (by rw [MeterRec.total, h]; rfl)

theorem integrated_of_gateFigures {m : MeterRec} {g : GateFigures} (h : m.gateFigures = some g) :
    m.integrated = if g.nTheta < m.minCount then none else some (meanLevel (binsFrom g.theta m.histogram)) := by
  rw [MeterRec.integrated, h]

theorem integrated_of_none {m : MeterRec} (h : m.gateFigures = none) : m.integrated = none := by
  rw [MeterRec.integrated, h]

theorem countTotal_ones (levels : List Int) : countTotal (levels.map fun b => (b, 1)) = levels.length := by
  induction levels with
  | nil => rfl
  | cons b rest ih => simp [countTotal, ih, add_comm]

/-! ## The correlation (R120) -/

/-- The count down ends on the largest number of those allowed that the condition holds of. -/
theorem correlationSize_spec (mL mR x fuel : Nat) :
    correlationSize mL mR x fuel ≤ fuel ∧ correlationSize mL mR x fuel ^ 2 * (mL * mR) ≤ 10000 * x ^ 2
      ∧ ∀ k, correlationSize mL mR x fuel < k → k ≤ fuel → 10000 * x ^ 2 < k ^ 2 * (mL * mR) := by
  induction fuel with
  | zero => exact ⟨le_rfl, by simp [correlationSize], fun k h1 h2 => by simp [correlationSize] at h1; omega⟩
  | succ n ih =>
    unfold correlationSize
    split
    · next yes => exact ⟨le_rfl, yes, fun k h1 h2 => by omega⟩
    · next no =>
      obtain ⟨le, holds, least⟩ := ih
      refine ⟨by omega, holds, fun k h1 h2 => ?_⟩
      obtain rfl | h := h2.eq_or_lt
      · exact not_le.mp no
      · exact least k h1 (by omega)

/-- A size of at most 100 hundredths is the whole part of the quotient, which the energies bound by 1. -/
theorem correlationSize_bounds {mL mR x : Nat} (hL : 0 < mL) (hR : 0 < mR) (hx : x ^ 2 ≤ mL * mR) :
    (correlationSize mL mR x 100 : ℝ) ≤ 100 * x / √(mL * mR)
      ∧ 100 * x / √(mL * mR) < (correlationSize mL mR x 100 : ℝ) + 1 := by
  obtain ⟨le, holds, least⟩ := correlationSize_spec mL mR x 100
  set size := correlationSize mL mR x 100
  have product : (0 : ℝ) < (mL : ℝ) * mR := by positivity
  have root := Real.sqrt_pos.mpr product
  have square : √((mL : ℝ) * mR) ^ 2 = mL * mR := Real.sq_sqrt product.le
  have above : 10000 * x ^ 2 < (size + 1) ^ 2 * (mL * mR) := by
    obtain full | part := le.eq_or_lt
    · rw [full]; nlinarith [Nat.mul_pos hL hR]
    · exact least _ (by omega) part
  have holds' : (size : ℝ) ^ 2 * (mL * mR) ≤ 10000 * (x : ℝ) ^ 2 := by exact_mod_cast holds
  have above' : 10000 * (x : ℝ) ^ 2 < ((size : ℝ) + 1) ^ 2 * (mL * mR) := by exact_mod_cast above
  rw [le_div_iff₀ root, div_lt_iff₀ root]
  constructor
  · refine le_of_sq_le_sq ?_ (by positivity)
    rw [mul_pow, square]
    linarith
  · refine lt_of_pow_lt_pow_left₀ 2 (by positivity) ?_
    rw [mul_pow _ √((mL : ℝ) * mR), square]
    linarith

theorem correlation_of_pos {mL mR : Nat} (hL : 0 < mL) (hR : 0 < mR) (x : Int) :
    correlation mL mR x = some (if 0 ≤ x then (correlationSize mL mR x.natAbs 100 : Int)
      else -(correlationSize mL mR x.natAbs 100 : Int)) :=
  if_neg (by omega)

/-- The figure has the cross sum's sign and the size that `correlationSize` finds. -/
theorem correlation_rounds {mL mR : Nat} (hL : 0 < mL) (hR : 0 < mR) {x : Int} (hx : x.natAbs ^ 2 ≤ mL * mR) :
    ∃ k : Int, correlation mL mR x = some k ∧ 0 ≤ k * x
      ∧ (|k| : ℝ) ≤ 100 * |(x : ℝ)| / √(mL * mR) ∧ 100 * |(x : ℝ)| / √(mL * mR) < |k| + 1 := by
  have bounds := correlationSize_bounds hL hR hx
  rw [Nat.cast_natAbs, Int.cast_abs] at bounds
  have size : (0 : Int) ≤ correlationSize mL mR x.natAbs 100 := Int.natCast_nonneg _
  refine ⟨_, correlation_of_pos hL hR x, ?_, ?_⟩
  · split
    · exact mul_nonneg size ‹_›
    · rw [neg_mul, ← mul_neg]
      exact mul_nonneg size (by omega)
  · split
    · simpa using bounds
    · simpa using bounds

theorem rho_of_absent {m : MeterRec} {ms : List Member} (h : firstOfRole .l ms = none ∨ firstOfRole .r ms = none) :
    m.rho ms = none := by
  have absent : correlationPair ms = none := by
    rw [correlationPair]
    obtain h | h := h <;> simp [h]
  rw [MeterRec.rho, absent]

theorem rho_of_pair {m : MeterRec} {ms : List Member} (hl : firstOfRole .l ms ≠ none) (hr : firstOfRole .r ms ≠ none) :
    m.rho ms = correlation (m.corr.map (·.mL)).sum (m.corr.map (·.mR)).sum (m.corr.map (·.x)).sum := by
  obtain ⟨l, hl⟩ := Option.ne_none_iff_exists'.mp hl
  obtain ⟨r, hr⟩ := Option.ne_none_iff_exists'.mp hr
  have pair : correlationPair ms = some (l, r) := by simp [correlationPair, hl, hr]
  rw [MeterRec.rho, pair]

/-- Settles O41: every level figure is `meanLevel` of its bins, which `meanLevel_rounds` bounds. -/
theorem gatedLevelsAndCorrelation : Obligations.GatedLevelsAndCorrelation := by
  unfold Obligations.GatedLevelsAndCorrelation
  refine ⟨?levels, fun m ms => ⟨rho_of_absent, rho_of_pair⟩,
    fun mL mR x => ⟨fun silent => if_pos silent, fun hL hR hx => correlation_rounds hL hR hx⟩⟩
  intro m hbins hlevels hmin logMean' rounds
  have mean (bins : List (Int × Nat)) : logMean' bins = logMean bins := by
    rw [logMean, countTotal_eq_sum]; rfl
  have rounded {bins : List (Int × Nat)} (hb : LevelsInRange bins) (ht : 0 < countTotal bins) :
      rounds (meanLevel bins) (logMean' bins) := by
    rw [mean]; exact meanLevel_rounds hb ht
  have range : LevelsInRange m.histogram := fun c hc => ⟨by linarith [(hbins c hc).1], (hbins c hc).2.1⟩
  have counted : ∀ c ∈ m.histogram, 0 < c.2 := fun c hc => (hbins c hc).2.2
  refine ⟨fun empty => ⟨gateFigures_of_nil empty, integrated_of_none (gateFigures_of_nil empty)⟩, fun filled => ?_,
    fun empty => if_pos empty, fun recorded => ?_⟩
  · have figures := gateFigures_of_ne_nil counted filled
    have integrated := integrated_of_gateFigures figures
    refine ⟨_, figures, rounded range (Nat.pos_of_ne_zero fun none => filled ((countTotal_eq_zero_iff counted).mp none)), rfl,
      countTotal_eq_sum _, fun few => integrated.trans (if_pos few), fun enough => ?_⟩
    refine ⟨_, integrated.trans (if_neg (not_lt.mpr enough)), rounded (fun c hc => range c (List.mem_of_mem_filter hc)) ?_⟩
    exact Nat.lt_of_lt_of_le hmin enough
  · refine ⟨_, if_neg recorded, rounded ?_ ?_⟩
    · intro c hc
      obtain ⟨b, hb, rfl⟩ := List.mem_map.mp hc
      exact hlevels b (List.mem_of_mem_take hb)
    · rw [countTotal_ones, List.length_take]
      have := List.length_pos_of_ne_nil recorded
      omega

end Sys2Proof.Machine

/-! Settings (1.5, 5.1, 6.1, 7.2, 8.1, 8.8, 9.7): which operations leave the settings of programmes, lanes and watches alone, and which
bring new ones into range. -/
namespace Sys2Proof.Machine

/-! ## A programme's settings -/

/-- The second programme record has the settings of the first. -/
structure Prog.SameSettings (x y : Prog) : Prop where
  members : y.members.length = x.members.length
  video : y.delay.video = x.delay.video
  trim : y.delay.trim = x.delay.trim
  glideLimit : y.delay.glideLimit = x.delay.glideLimit
  window : y.meter.window = x.meter.window
  relGate : y.meter.relGate = x.meter.relGate
  minCount : y.meter.minCount = x.meter.minCount
  gain : y.gain.settings = x.gain.settings
  period : y.report.period = x.report.period

theorem Prog.SameSettings.refl (x : Prog) : x.SameSettings x := ⟨rfl, rfl, rfl, rfl, rfl, rfl, rfl, rfl, rfl⟩

theorem Prog.SameSettings.trans {x y z : Prog} (a : x.SameSettings y) (b : y.SameSettings z) : x.SameSettings z :=
  ⟨b.members.trans a.members, b.video.trans a.video, b.trim.trans a.trim, b.glideLimit.trans a.glideLimit, b.window.trans a.window,
    b.relGate.trans a.relGate, b.minCount.trans a.minCount, b.gain.trans a.gain, b.period.trans a.period⟩

/-- The second record is no definition (UNDEFINED or RELEASING), or the first was one with the same settings. -/
def Prog.KeepsSettings (x y : Prog) : Prop := y.state.stored = true → x.state.stored = true ∧ x.SameSettings y

theorem Prog.KeepsSettings.refl (x : Prog) : x.KeepsSettings x := fun h => ⟨h, .refl x⟩

theorem Prog.KeepsSettings.trans {x y z : Prog} (a : x.KeepsSettings y) (b : y.KeepsSettings z) : x.KeepsSettings z := fun h =>
  have hb := b h
  have ha := a hb.1
  ⟨ha.1, ha.2.trans hb.2⟩

theorem Prog.SameSettings.keeps {x y : Prog} (h : x.SameSettings y) (hs : y.state = x.state) : x.KeepsSettings y :=
  fun hy => ⟨by rwa [← hs], h⟩

theorem Prog.keepsSettings_undefined (x : Prog) : x.KeepsSettings Prog.undefined := fun h => nomatch h

/-- A delay record whose settings are another's. -/
theorem Prog.sameSettings_of_delay (x : Prog) {r : DelayRec} (hv : r.video = x.delay.video) (ht : r.trim = x.delay.trim)
    (hg : r.glideLimit = x.delay.glideLimit) : x.SameSettings { x with delay := r } :=
  ⟨rfl, hv, ht, hg, rfl, rfl, rfl, rfl, rfl⟩

theorem Prog.sameSettings_of_members (x : Prog) {ms : List Member} (h : ms.length = x.members.length) :
    x.SameSettings { x with members := ms } :=
  ⟨h, rfl, rfl, rfl, rfl, rfl, rfl, rfl, rfl⟩

theorem Prog.sameSettings_of_gain (x : Prog) {g : GainRec} (h : g.settings = x.gain.settings) :
    x.SameSettings { x with gain := g } :=
  ⟨rfl, rfl, rfl, rfl, rfl, rfl, rfl, h, rfl⟩

/-! ## What the blocks' functions on one record keep -/

theorem Prog.moveDelay_sameSettings (d : Nat) (x : Prog) : x.SameSettings (x.moveDelay d) :=
  ⟨List.length_map _, rfl, rfl, rfl, rfl, rfl, rfl, rfl, rfl⟩

theorem Prog.setTaps_sameSettings (ls : Vector Nat 8) (x : Prog) : x.SameSettings (x.setTaps ls) :=
  x.sameSettings_of_members (List.length_map _)

theorem Prog.startMeter_sameSettings (x : Prog) : x.SameSettings x.startMeter :=
  ⟨List.length_map _, rfl, rfl, rfl, rfl, rfl, rfl, rfl, rfl⟩

theorem Prog.stopMeter_sameSettings (x : Prog) : x.SameSettings x.stopMeter :=
  ⟨List.length_map _, rfl, rfl, rfl, rfl, rfl, rfl, rfl, rfl⟩

theorem Prog.restart_sameSettings (x : Prog) : x.SameSettings x.restart :=
  ⟨List.length_map _, rfl, rfl, rfl, rfl, rfl, rfl, rfl, rfl⟩

theorem GainRec.offerCue_settings (n : Nat) (a : Int) (g : GainRec) : (g.offerCue n a).settings = g.settings := by
  unfold GainRec.offerCue
  split
  · rfl
  · split
    · rfl
    · split <;> rfl

theorem GainRec.limit_settings (n : Nat) (g : GainRec) : (g.limit n).settings = g.settings := by
  unfold GainRec.limit
  split
  · rfl
  · dsimp only
    split
    · rfl
    · exact GainRec.offerCue_settings _ _ _

theorem GainRec.move_settings (n : Nat) (a b : Int) (g : GainRec) : (g.move n a b).settings = g.settings := by
  unfold GainRec.move
  dsimp only
  split
  · rfl
  · exact GainRec.offerCue_settings _ _ _

theorem GainRec.decision_settings (r : BlockResults) (n : Nat) (g : GainRec) : (g.decision r n).settings = g.settings := by
  unfold GainRec.decision
  split
  · rfl
  · dsimp only
    split
    · exact GainRec.move_settings _ _ _ _
    · rfl

theorem GainRec.takeDue_settings (out : Int) (g : GainRec) : (g.takeDue out).settings = g.settings := by
  unfold GainRec.takeDue
  split <;> rfl

theorem GainRec.moveRamp_settings (g : GainRec) : g.moveRamp.settings = g.settings := by
  unfold GainRec.moveRamp
  split <;> rfl

theorem GainRec.endRamp_settings (g : GainRec) : g.endRamp.settings = g.settings := by
  unfold GainRec.endRamp
  split <;> rfl

theorem GainRec.boundary_settings (out : Int) (g : GainRec) : (g.boundary out).settings = g.settings :=
  (GainRec.moveRamp_settings _).trans (GainRec.takeDue_settings out g)

/-- What a delay record keeps of its settings when its change of delay moves on. -/
structure DelayRec.SameSettings (r q : DelayRec) : Prop where
  video : q.video = r.video
  trim : q.trim = r.trim
  glideLimit : q.glideLimit = r.glideLimit

theorem DelayRec.beginChange_sameSettings (r : DelayRec) : r.SameSettings r.beginChange := by
  unfold DelayRec.beginChange
  split <;> exact ⟨rfl, rfl, rfl⟩

theorem DelayRec.moveFades_sameSettings (st : ProgState) (r : DelayRec) : r.SameSettings (r.moveFades st) := by
  unfold DelayRec.moveFades
  split
  · exact ⟨rfl, rfl, rfl⟩
  · split <;> exact ⟨rfl, rfl, rfl⟩

theorem Prog.blockResults_sameSettings (x : Prog) : x.SameSettings x.blockResults := by
  unfold Prog.blockResults
  dsimp only
  split <;> exact ⟨rfl, rfl, rfl, rfl, rfl, rfl, rfl, rfl, rfl⟩

theorem Prog.completeBlock_sameSettings (x : Prog) : x.SameSettings x.completeBlock := by
  unfold Prog.completeBlock
  dsimp only
  split
  · exact x.blockResults_sameSettings
  · exact x.blockResults_sameSettings.trans (Prog.sameSettings_of_gain _ (GainRec.decision_settings _ _ _))

theorem ReportRec.count_period (r : ReportRec) : r.count.period = r.period := by
  unfold ReportRec.count
  split <;> rfl

theorem Prog.afterBlock_sameSettings (x : Prog) : x.SameSettings x.afterBlock :=
  ⟨rfl, rfl, rfl, rfl, rfl, rfl, rfl, rfl, x.report.count_period⟩

theorem Prog.packSubBlock_sameSettings (x : Prog) : x.SameSettings x.packSubBlock :=
  ⟨List.length_map _, rfl, rfl, rfl, rfl, rfl, rfl, rfl, rfl⟩

theorem Prog.glideStep_sameSettings (x : Prog) : x.SameSettings x.glideStep := by
  unfold Prog.glideStep
  dsimp only
  split
  · split
    · exact x.moveDelay_sameSettings _
    · split
      · exact x.moveDelay_sameSettings _
      · exact .refl x
  · exact .refl x

@[simp] theorem Prog.glideStep_state (x : Prog) : x.glideStep.state = x.state := by
  unfold Prog.glideStep
  dsimp only
  split
  · split
    · rfl
    · split <;> rfl
  · rfl

theorem Prog.outputStage_sameSettings (dram : Memory) (shift : LaneId → Int) (x : Prog) : x.SameSettings (x.outputStage dram shift) :=
  ⟨by simp [Prog.outputStage], rfl, rfl, rfl, rfl, rfl, rfl, GainRec.boundary_settings _ _, rfl⟩

theorem Prog.jumped_sameSettings (x : Prog) : x.SameSettings x.jumped :=
  ⟨List.length_map _, rfl, rfl, rfl, rfl, rfl, rfl, rfl, rfl⟩

theorem Prog.boundaryOutput_sameSettings (dram : Memory) (shift : LaneId → Int) (x : Prog) :
    x.SameSettings (x.boundaryOutput dram shift) := by
  unfold Prog.boundaryOutput
  split
  · have h := x.jumped_sameSettings.trans (Prog.outputStage_sameSettings dram shift x.jumped)
    exact ⟨by simp [h.members], rfl, rfl, rfl, rfl, rfl, rfl, h.gain, rfl⟩
  · exact x.outputStage_sameSettings dram shift

@[simp] theorem Prog.boundaryOutput_state (dram : Memory) (shift : LaneId → Int) (x : Prog) :
    (x.boundaryOutput dram shift).state = x.state := by
  unfold Prog.boundaryOutput
  split <;> rfl

theorem writeBus_length (dram : Memory) (ms : List Member) (xs : List Int) : (writeBus dram ms xs).2.length = ms.length := by
  induction ms generalizing dram xs with
  | nil => rfl
  | cons m ms ih =>
    cases xs with
    | nil => rfl
    | cons x xs => simp [writeBus, ih]

/-- A bus frame of a sample for each member keeps every setting. -/
theorem Prog.carryBus_sameSettings {bus : List Int} {ms : List Member} (x : Prog) (hb : bus.length = x.members.length)
    (hm : ms.length = x.members.length) : x.SameSettings (x.carryBus bus ms) := by
  unfold Prog.carryBus
  dsimp only
  split
  · have h := DelayRec.moveFades_sameSettings x.state x.delay
    exact ⟨by simp [Prog.meterFrame, hb, hm], h.video, h.trim, h.glideLimit, rfl, rfl, rfl, rfl, rfl⟩
  · have h := DelayRec.moveFades_sameSettings x.state x.delay
    exact ⟨hm, h.video, h.trim, h.glideLimit, rfl, rfl, rfl, rfl, rfl⟩

@[simp] theorem Prog.carryBus_state (bus : List Int) (ms : List Member) (x : Prog) : (x.carryBus bus ms).state = x.state := by
  unfold Prog.carryBus
  dsimp only
  split <;> rfl

theorem Dmc.resizeMembers_length (k : Nat) (newest : Int) (d : Dmc) (ms : List Member) :
    (d.resizeMembers k newest ms).2.length = ms.length := by
  simpa using congrArg List.length (d.resizeMembers_members k newest ms)

theorem Dmc.createRings_length (p : Nat) (d : Dmc) (ms : List Member) : (d.createRings p ms).2.length = ms.length := by
  induction ms generalizing d with
  | nil => rfl
  | cons m ms ih => simp [Dmc.createRings, ih]

/-! ## What the panel's operations leave of the watches' records and of the major level -/

/-- The second panel has the first's watch records and major level. -/
structure Panel.RecordsKept (v w : Panel) : Prop where
  majorLevel : w.wch.majorLevel = v.wch.majorLevel
  record : ∀ i : WatchId, (w.wch.watches[i]).record = (v.wch.watches[i]).record

theorem Panel.RecordsKept.refl (v : Panel) : v.RecordsKept v := ⟨rfl, fun _ => rfl⟩

theorem Panel.RecordsKept.trans {u v w : Panel} (a : u.RecordsKept v) (b : v.RecordsKept w) : u.RecordsKept w :=
  ⟨b.majorLevel.trans a.majorLevel, fun i => (b.record i).trans (a.record i)⟩

theorem Panel.Kept.records {v w : Panel} (h : v.Kept w) : v.RecordsKept w := ⟨h.majorLevel, fun i => by rw [h.watches]⟩

theorem Panel.RecordsKept.foldl {α : Type} (f : Panel → α → Panel) (h : ∀ v a, Panel.RecordsKept v (f v a)) (xs : List α) (v : Panel) :
    v.RecordsKept (xs.foldl f v) := by
  induction xs generalizing v with
  | nil => exact .refl v
  | cons x xs ih => exact (h v x).trans (ih _)

theorem Panel.setWatch_watches_self (w : WatchId) (x : Watch) (v : Panel) : (v.setWatch w x).wch.watches[w] = x := by
  simp [Panel.setWatch]

theorem Panel.setWatch_watches_other {w i : WatchId} (x : Watch) (v : Panel) (h : i ≠ w) :
    (v.setWatch w x).wch.watches[i] = v.wch.watches[i] := by
  have h' : w.val ≠ i.val := fun e => h (Fin.ext e.symm)
  simp [Panel.setWatch, h']

/-- A watch replaced by one with its record. -/
theorem Panel.setWatch_records {w : WatchId} {x : Watch} {v : Panel} (h : x.record = (v.wch.watches[w]).record) :
    v.RecordsKept (v.setWatch w x) := by
  refine ⟨rfl, fun i => ?_⟩
  by_cases e : i = w
  · subst e; rw [Panel.setWatch_watches_self, h]
  · rw [Panel.setWatch_watches_other _ _ e]

theorem Watch.levelRise_record (w : Watch) (q : Bool) : (w.levelRise q).1.record = w.record := by
  unfold Watch.levelRise
  split
  · split <;> rfl
  · rfl

theorem Watch.fall_record (w : Watch) (q : Bool) : (w.fall q).1.record = w.record := by
  unfold Watch.fall
  split
  · rfl
  · split <;> rfl

theorem Watch.edgeQuiet_record (w : Watch) (e : Bool) : (w.edgeQuiet e).1.record = w.record := by
  unfold Watch.edgeQuiet
  split
  · split <;> rfl
  · rfl

theorem Watch.edgeRise_record (w : Watch) (q e : Bool) : (w.edgeRise q e).1.record = w.record := by
  unfold Watch.edgeRise
  split
  · split <;> rfl
  · split
    · rfl
    · split <;> rfl

theorem Watch.act_record (w : Watch) (q : Bool) : (w.act q).1.record = w.record := by
  unfold Watch.act
  dsimp only
  split
  · rfl
  · exact w.fall_record q
  · exact w.fall_record q
  · exact Watch.levelRise_record _ q
  · exact w.levelRise_record q
  · exact w.edgeQuiet_record _
  · exact w.edgeRise_record q _

theorem Watch.judge_record (w : Watch) (value : Int) (now : Nat) : (w.judge value now).1.record = w.record := w.act_record _

theorem Panel.watchObserve_records (o : WatchObject) (vs : Measure → Option Int) (v : Panel) (w : WatchId) :
    v.RecordsKept (v.watchObserve o vs w) := by
  unfold Panel.watchObserve
  dsimp only
  split
  · split
    · exact .refl v
    · next value _ =>
      have judged := Panel.setWatch_records (v := v) (Watch.judge_record (v.wch.watches[w]) value v.now)
      split
      · exact judged
      · exact judged.trans (Panel.raiseEntry_kept _ _).records
      · exact judged.trans (Panel.clear_kept _ _).records
  · exact .refl v

theorem Panel.observe_records (o : WatchObject) (vs : Measure → Option Int) (v : Panel) : v.RecordsKept (v.observe o vs) :=
  .foldl _ (Panel.watchObserve_records o vs) _ v

theorem Panel.restartWatches_records (p : ProgId) (v : Panel) : v.RecordsKept (v.restartWatches p) := by
  refine .foldl _ (fun v id => ?_) _ v
  dsimp only
  split
  · have cleared := (Panel.clear_kept (.watch id) v).records
    exact cleared.trans (Panel.setWatch_records (cleared.record id).symm)
  · exact .refl v

theorem Panel.takeResults_records (p : ProgId) (x : Prog) (v : Panel) : v.RecordsKept (v.takeResults p x) := by
  unfold Panel.takeResults
  split
  · exact .refl v
  · dsimp only
    split
    · exact (Panel.observe_records _ _ v).trans (Panel.offer_kept _ _).records
    · exact Panel.observe_records _ _ v

theorem Panel.refChanged_records (new left : RefState) (latch : Bool) (v : Panel) : v.RecordsKept (v.refChanged new left latch) := by
  have seen := (Panel.offer_kept (.ref new left latch v.now) v).records.trans (Panel.observe_records .reference new.observed _)
  unfold Panel.refChanged
  dsimp only
  split
  · exact seen.trans (Panel.raise_kept _ _).records
  · split
    · exact seen.trans (Panel.clear_kept _ _).records
    · exact seen

end Sys2Proof.Machine

/-! Settings and the programme side: each of its operations but a definition leaves every setting alone. -/
namespace Sys2Proof.Machine

/-- Each programme defined in the second view has its settings of the first, and so have the watches' records. -/
structure ProgSide.SettingsKept (v w : ProgSide) : Prop where
  prog : ∀ p, (v.prog p).KeepsSettings (w.prog p)
  panel : v.panel.RecordsKept w.panel

namespace ProgSide.SettingsKept

theorem refl (v : ProgSide) : v.SettingsKept v := ⟨fun _ => .refl _, .refl _⟩

theorem trans {u v w : ProgSide} (a : u.SettingsKept v) (b : v.SettingsKept w) : u.SettingsKept w :=
  ⟨fun p => (a.prog p).trans (b.prog p), a.panel.trans b.panel⟩

theorem foldl {α : Type} (f : ProgSide → α → ProgSide) (h : ∀ (v : ProgSide) (a : α), v.SettingsKept (f v a)) (xs : List α)
    (v : ProgSide) : v.SettingsKept (xs.foldl f v) := by
  induction xs generalizing v with
  | nil => exact refl v
  | cons x xs ih => exact (h v x).trans (ih _)

theorem onPanel (v : ProgSide) (f : Panel → Panel) (h : v.panel.RecordsKept (f v.panel)) : v.SettingsKept (v.onPanel f) :=
  ⟨fun _ => .refl _, h⟩

theorem ofDmc (v : ProgSide) (d : Dmc) : v.SettingsKept { v with dmc := d } := ⟨fun _ => .refl _, .refl _⟩

/-- One programme's record replaced. -/
theorem set (v : ProgSide) (d : Dmc) {p : ProgId} {x : Prog} (h : (v.prog p).KeepsSettings x) :
    v.SettingsKept { v with dmc := d, progs := v.progs.set p x } := by
  refine ⟨fun q => ?_, .refl _⟩
  by_cases e : q = p
  · subst e
    have : (ProgSide.prog { v with dmc := d, progs := v.progs.set q x } q) = x := by simp [ProgSide.prog]
    rwa [this]
  · have e' : p.val ≠ q.val := fun e' => e (Fin.ext e'.symm)
    have : (ProgSide.prog { v with dmc := d, progs := v.progs.set p x } q) = v.prog q := by simp [ProgSide.prog, e']
    rw [this]
    exact .refl _

theorem modProg (v : ProgSide) (p : ProgId) {f : Prog → Prog} (h : (v.prog p).KeepsSettings (f (v.prog p))) :
    v.SettingsKept (v.modProg p f) := set v v.dmc h

theorem modDelay (v : ProgSide) (p : ProgId) {f : DelayRec → DelayRec} (h : (v.prog p).delay.SameSettings (f (v.prog p).delay)) :
    v.SettingsKept (v.modDelay p f) :=
  modProg v p ((Prog.sameSettings_of_delay _ h.video h.trim h.glideLimit).keeps rfl)

theorem moveDelay (v : ProgSide) (p : ProgId) (d : Nat) : v.SettingsKept (v.modProg p (Prog.moveDelay d)) :=
  modProg v p ((Prog.moveDelay_sameSettings d _).keeps rfl)

/-! ## The delay memory -/

theorem resize (v : ProgSide) (p : ProgId) (k : Nat) : v.SettingsKept (v.resize p k) :=
  set v _ ((Prog.sameSettings_of_members _ (Dmc.resizeMembers_length _ _ _ _)).keeps rfl)

theorem joinWait (v : ProgSide) (p : ProgId) : v.SettingsKept (v.joinWait p) := by
  unfold ProgSide.joinWait
  split
  · exact refl v
  · exact (ofDmc v _).trans (onPanel _ _ (Panel.raise_kept _ _).records)

theorem leaveWait (v : ProgSide) (p : ProgId) : v.SettingsKept (v.leaveWait p) := by
  unfold ProgSide.leaveWait
  split
  · exact (ofDmc v _).trans (onPanel _ _ (Panel.clear_kept _ _).records)
  · exact refl v

theorem fund (v : ProgSide) (p : ProgId) (request : Nat) : v.SettingsKept (v.fund p request) := by
  unfold ProgSide.fund
  dsimp only
  split
  · exact ((modDelay v p ⟨rfl, rfl, rfl⟩).trans (resize _ p _)).trans (leaveWait _ p)
  · exact ((modDelay v p ⟨rfl, rfl, rfl⟩).trans (resize _ p _)).trans (joinWait _ p)

theorem event {f : ProgSide → ProgSide} (v : ProgSide) (h : v.SettingsKept (f v)) : v.SettingsKept (ProgSide.event f v) := by
  unfold ProgSide.event
  dsimp only
  split
  · exact h
  · exact h.trans (onPanel _ _ (Panel.observe_records _ _ _))

/-! ## Changes of delay, and starts -/

theorem noticeDone (v : ProgSide) (p : ProgId) (kind : DoneKind) : v.SettingsKept (v.noticeDone p kind) :=
  onPanel v _ (Panel.offer_kept _ _).records

theorem completeGlide (v : ProgSide) (p : ProgId) : v.SettingsKept (v.completeGlide p) :=
  (modDelay v p ⟨rfl, rfl, rfl⟩).trans (noticeDone _ p _)

theorem judgeGlide (v : ProgSide) (p : ProgId) : v.SettingsKept (v.judgeGlide p) := by
  unfold ProgSide.judgeGlide
  dsimp only
  split
  · split
    · exact completeGlide v p
    · exact refl v
  · refine (moveDelay v p (64 * (v.prog p).delay.whole)).trans ?_
    split
    · exact completeGlide _ p
    · exact modDelay _ p ⟨rfl, rfl, rfl⟩

theorem takeRaise (v : ProgSide) (p : ProgId) : v.SettingsKept (v.takeRaise p) := by
  unfold ProgSide.takeRaise
  dsimp only
  split
  · split
    · exact refl v
    · exact modDelay v p (DelayRec.beginChange_sameSettings _)
  · exact judgeGlide v p
  · exact refl v
  · exact (moveDelay v p _).trans (modDelay _ p ⟨rfl, rfl, rfl⟩)
  · exact modDelay v p ⟨rfl, rfl, rfl⟩

end ProgSide.SettingsKept

/-- A programme starts with the settings it has. -/
theorem ProgSide.startProg_sameSettings (v : ProgSide) (p : ProgId) (delay : Nat) :
    (v.prog p).SameSettings ((v.startProg p delay).prog p) := by
  simp only [ProgSide.startProg, ProgSide.prog, Fin.getElem_fin, Vector.getElem_set_self]
  refine .trans ?_ (.trans (Prog.startMeter_sameSettings _) (Prog.setTaps_sameSettings _ _))
  exact ⟨Dmc.createRings_length _ _ _, rfl, rfl, rfl, rfl, rfl, rfl, rfl, rfl⟩

namespace ProgSide.SettingsKept

/-- A start of a programme that is defined. -/
theorem startProg (v : ProgSide) {p : ProgId} (h : (v.prog p).state.stored = true) (delay : Nat) :
    v.SettingsKept (v.startProg p delay) := by
  refine set v _ fun _ => ⟨h, ?_⟩
  have started := v.startProg_sameSettings p delay
  simpa only [ProgSide.startProg, ProgSide.prog, Fin.getElem_fin, Vector.getElem_set_self] using started

theorem leaveIfFull (v : ProgSide) (p : ProgId) : v.SettingsKept (v.leaveIfFull p) := by
  unfold ProgSide.leaveIfFull
  split
  · exact leaveWait v p
  · exact refl v

theorem serveWaiter (v : ProgSide) (p : ProgId) : v.SettingsKept (v.serveWaiter p) := by
  unfold ProgSide.serveWaiter
  dsimp only
  split
  · split
    · exact (((modDelay v p ⟨rfl, rfl, rfl⟩).trans (resize _ p _)).trans (takeRaise _ p)).trans (leaveIfFull _ p)
    · exact refl v
  · next waiting =>
    split
    · exact (startProg v (by rw [waiting]; rfl) _).trans (leaveIfFull _ p)
    · exact refl v
  · exact refl v

theorem serve (v : ProgSide) : v.SettingsKept v.serve := foldl _ serveWaiter _ v

theorem serveAfter (v : ProgSide) (p : ProgId) (before : Nat) : v.SettingsKept (v.serveAfter p before) := by
  unfold ProgSide.serveAfter
  split
  · exact serve v
  · exact refl v

theorem holdingFell (v : ProgSide) (p : ProgId) : v.SettingsKept (v.holdingFell p) := by
  unfold ProgSide.holdingFell
  dsimp only
  split
  · exact event v ((resize v p _).trans (serve _))
  · exact refl v

/-! ## Requests that move the delay -/

theorem fundEvent (v : ProgSide) (p : ProgId) (request : Nat) : v.SettingsKept (v.fundEvent p request) :=
  event v ((fund v p request).trans (serveAfter _ p _))

theorem actSteady (v : ProgSide) (p : ProgId) (request : Nat) : v.SettingsKept (v.actSteady p request) := by
  unfold ProgSide.actSteady
  dsimp only
  refine (fundEvent v p request).trans ?_
  split
  · exact noticeDone _ p _
  · exact modDelay _ p (DelayRec.beginChange_sameSettings _)

theorem actGliding (v : ProgSide) (p : ProgId) (request : Nat) : v.SettingsKept (v.actGliding p request) :=
  ((fundEvent v p request).trans (judgeGlide _ p)).trans (holdingFell _ p)

theorem newRequest (v : ProgSide) (p : ProgId) : v.SettingsKept (v.newRequest p) := by
  unfold ProgSide.newRequest
  dsimp only
  split
  · split
    · exact actSteady v p _
    · exact actGliding v p _
    · exact modDelay v p ⟨rfl, rfl, rfl⟩
  · exact modDelay v p ⟨rfl, rfl, rfl⟩

/-! ## Completions -/

theorem glideEnd (v : ProgSide) (p : ProgId) : v.SettingsKept (v.glideEnd p) := by
  unfold ProgSide.glideEnd
  split
  · exact completeGlide v p
  · exact refl v

theorem jumpFaded (v : ProgSide) (p : ProgId) : v.SettingsKept (v.jumpFaded p) := by
  unfold ProgSide.jumpFaded
  split
  · refine (modProg v p (Prog.SameSettings.keeps ?_ rfl)).trans (holdingFell _ p)
    exact (Prog.jumped_sameSettings _).trans (Prog.sameSettings_of_gain _ (GainRec.takeDue_settings _ _))
  · exact refl v

theorem fillEnd (v : ProgSide) (p : ProgId) : v.SettingsKept (v.fillEnd p) := by
  unfold ProgSide.fillEnd
  split
  · exact modDelay v p ⟨rfl, rfl, rfl⟩
  · exact refl v

theorem afterJump (v : ProgSide) (p : ProgId) (ahead : Bool) : v.SettingsKept (v.afterJump p ahead) := by
  unfold ProgSide.afterJump
  split
  · exact (modDelay v p ⟨rfl, rfl, rfl⟩).trans (actSteady _ p _)
  · split
    · exact modDelay v p (DelayRec.beginChange_sameSettings _)
    · exact refl v

theorem fadeInEnd (v : ProgSide) (p : ProgId) : v.SettingsKept (v.fadeInEnd p) := by
  unfold ProgSide.fadeInEnd
  dsimp only
  split
  · exact (((modDelay v p ⟨rfl, rfl, rfl⟩).trans (noticeDone _ p _)).trans (modDelay _ p ⟨rfl, rfl, rfl⟩)).trans (afterJump _ p _)
  · exact refl v

theorem endRamp (v : ProgSide) (p : ProgId) : v.SettingsKept (v.modProg p fun x => { x with gain := x.gain.endRamp }) :=
  modProg v p ((Prog.sameSettings_of_gain _ (GainRec.endRamp_settings _)).keeps rfl)

theorem beginRelease (v : ProgSide) (p : ProgId) : v.SettingsKept (v.beginRelease p) :=
  ((modProg v p (f := Prog.toReleasing) fun stored => nomatch stored).trans (leaveWait _ p)).trans (holdingFell _ p)

theorem dissolve (v : ProgSide) (p : ProgId) : v.SettingsKept (v.dissolve p) :=
  (set v _ (Prog.keepsSettings_undefined _)).trans (serve _)

theorem releaseEnd (v : ProgSide) (p : ProgId) : v.SettingsKept (v.releaseEnd p) := by
  unfold ProgSide.releaseEnd
  split
  · exact (event v (dissolve v p)).trans (onPanel _ _ (Panel.restartWatches_records p _))
  · exact refl v

theorem undefineWaiting (v : ProgSide) (p : ProgId) : v.SettingsKept (v.undefineWaiting p) :=
  ((leaveWait v p).trans (set _ _ (Prog.keepsSettings_undefined _))).trans (onPanel _ _ (Panel.restartWatches_records p _))

theorem completeSubBlock (v : ProgSide) (p : ProgId) : v.SettingsKept (v.completeSubBlock p) := by
  unfold ProgSide.completeSubBlock
  dsimp only
  split
  · have packed := (v.prog p).packSubBlock_sameSettings
    split
    · have done := packed.trans ((Prog.completeBlock_sameSettings _).trans (Prog.afterBlock_sameSettings _))
      have state : (v.prog p).packSubBlock.completeBlock.afterBlock.state = (v.prog p).state := by
        unfold Prog.completeBlock
        dsimp only
        split <;> rfl
      exact (set v v.dmc (done.keeps state)).trans (onPanel _ _ (Panel.takeResults_records p _ _))
    · exact set v v.dmc (packed.keeps rfl)
  · exact refl v

theorem settleProg (v : ProgSide) (p : ProgId) : v.SettingsKept (v.settleProg p) :=
  (((((jumpFaded v p).trans (fillEnd _ p)).trans (fadeInEnd _ p)).trans (glideEnd _ p)).trans (endRamp _ p)).trans
    ((releaseEnd _ p).trans (completeSubBlock _ p))

/-! ## The boundary -/

theorem boundaryProg (f : Front) (v : ProgSide) (p : ProgId) : v.SettingsKept (v.boundaryProg f p) := by
  unfold ProgSide.boundaryProg
  dsimp only
  split
  · refine set v _ (Prog.SameSettings.keeps ?_ (by simp))
    refine (Prog.glideStep_sameSettings _).trans (.trans ?_ (Prog.boundaryOutput_sameSettings _ _ _))
    exact Prog.carryBus_sameSettings _ (by simp [Front.bus]) (writeBus_length _ _ _)
  · exact refl v

theorem glidePages (v : ProgSide) (p : ProgId) : v.SettingsKept (v.glidePages p) := by
  unfold ProgSide.glidePages
  split
  · exact holdingFell v p
  · exact refl v

theorem boundary (f : Front) (v : ProgSide) : v.SettingsKept (v.boundary f) := foldl _ (boundaryProg f) _ v

theorem givePages (v : ProgSide) : v.SettingsKept v.givePages := foldl _ glidePages _ v

end ProgSide.SettingsKept

end Sys2Proof.Machine

/-! Settings and the lane side: each of its operations but LANE_SET leaves every lane's settings alone. -/
namespace Sys2Proof.Machine

/-- Each lane has in the second view its settings of the first, and each watch its record. -/
structure LaneSide.SettingsKept (v w : LaneSide) : Prop where
  lane : ∀ l, (w.lane l).settings = (v.lane l).settings
  panel : v.panel.RecordsKept w.panel

theorem LaneSide.EngineOnly.settingsKept {v w : LaneSide} (h : v.EngineOnly w) : v.SettingsKept w := ⟨h.settings, h.panel.records⟩

namespace LaneSide.SettingsKept

theorem refl (v : LaneSide) : v.SettingsKept v := ⟨fun _ => rfl, .refl _⟩

theorem trans {u v w : LaneSide} (a : u.SettingsKept v) (b : v.SettingsKept w) : u.SettingsKept w :=
  ⟨fun l => (b.lane l).trans (a.lane l), a.panel.trans b.panel⟩

theorem foldl {α : Type} (f : LaneSide → α → LaneSide) (h : ∀ (v : LaneSide) (a : α), v.SettingsKept (f v a)) (xs : List α)
    (v : LaneSide) : v.SettingsKept (xs.foldl f v) := by
  induction xs generalizing v with
  | nil => exact refl v
  | cons x xs ih => exact (h v x).trans (ih _)

theorem modLane (v : LaneSide) (l : LaneId) {f : Lane → Lane} (h : (f (v.lane l)).settings = (v.lane l).settings) :
    v.SettingsKept (v.modLane l f) := by
  refine ⟨fun m => ?_, .refl _⟩
  by_cases e : m = l
  · subst e; rw [LaneSide.modLane_lane_self, h]
  · rw [LaneSide.modLane_lane_other _ _ e]

theorem onPanel (v : LaneSide) (f : Panel → Panel) (h : v.panel.RecordsKept (f v.panel)) : v.SettingsKept (v.onPanel f) :=
  ⟨fun _ => rfl, h⟩

theorem move (v : LaneSide) (l : LaneId) {f : Lane → Lane} (h : (f (v.lane l)).settings = (v.lane l).settings) :
    v.SettingsKept (v.move l f) :=
  (modLane v l h).trans (onPanel _ _ (Panel.offer_kept _ _).records)

theorem quit (v : LaneSide) (l : LaneId) (was : Lane) : v.SettingsKept (v.quit l was) :=
  (LaneSide.EngineOnly.leaveEngine v l _ _).settingsKept

theorem fallSilent (v : LaneSide) (l : LaneId) : v.SettingsKept (v.fallSilent l) := by
  unfold LaneSide.fallSilent
  dsimp only
  split
  · exact (move v l rfl).trans (onPanel _ _ (Panel.clear_kept _ _).records)
  · exact move v l rfl

theorem lose (v : LaneSide) (l : LaneId) : v.SettingsKept (v.lose l) := by
  unfold LaneSide.lose
  dsimp only
  refine (move v l (f := Lane.toAbsent) rfl).trans (.trans ?_ (quit _ l _))
  split
  · exact onPanel _ _ (Panel.raise_kept _ _).records
  · exact refl _

theorem disable (v : LaneSide) (l : LaneId) : v.SettingsKept (v.disable l) :=
  ((move v l (f := Lane.toDisabled) rfl).trans
    (onPanel _ _ ((Panel.clear_kept _ _).trans (Panel.clear_kept _ _)).records)).trans (quit _ l _)

theorem enable (v : LaneSide) (l : LaneId) : v.SettingsKept (v.enable l) := move v l rfl

theorem reset (v : LaneSide) (l : LaneId) : v.SettingsKept (v.reset l) :=
  ((move v l (f := Lane.toAbsent) rfl).trans (quit _ l (v.lane l))).trans
    (onPanel _ (fun p => (p.clear (.laneLost l)).clear (.laneRejected l)) ((Panel.clear_kept _ _).trans (Panel.clear_kept _ _)).records)

theorem activity (v : LaneSide) (l : LaneId) : v.SettingsKept (v.activity l) := by
  unfold LaneSide.activity
  dsimp only
  refine (modLane v l (f := fun x => { x with activity := true }) rfl).trans ?_
  split
  · exact move _ l rfl
  · exact refl _

theorem judgeFrame_settings (f : LaneFrame) (x : Lane) : (x.judgeFrame f).settings = x.settings := by
  unfold Lane.judgeFrame
  split <;> rfl

theorem closeFrame (v : LaneSide) (l : LaneId) (f : LaneFrame) : v.SettingsKept (v.closeFrame l f) := by
  unfold LaneSide.closeFrame
  dsimp only
  refine (modLane v l (judgeFrame_settings f _)).trans ?_
  split
  · split
    · exact move _ l rfl
    · exact refl _
  · exact (modLane _ l rfl).trans (LaneSide.EngineOnly.fillMoved _ l).settingsKept
  · exact refl _

theorem marker (v : LaneSide) (l : LaneId) (f : LaneFrame) : v.SettingsKept (v.marker l f) := by
  unfold LaneSide.marker
  dsimp only
  have arrived : v.SettingsKept (if 0 < f.bitPeriods then v.activity l else v) := by
    split
    · exact activity v l
    · exact refl v
  generalize (if 0 < f.bitPeriods then v.activity l else v) = u at arrived ⊢
  have counted : u.SettingsKept (u.modLane l fun x => { x with gauge := x.gauge.mark, frameOpen := true }) := modLane u l rfl
  split
  · exact (arrived.trans counted).trans (closeFrame _ l f)
  · exact arrived.trans counted

theorem judgeSense (v : LaneSide) (l : LaneId) (count : Nat) : v.SettingsKept (v.judgeSense l count) := by
  have noted (u : LaneSide) : u.SettingsKept (u.reject l) :=
    (move u l (f := fun x => { x with state := .rejected }) rfl).trans (onPanel _ _ (Panel.raise_kept _ _).records)
  unfold LaneSide.judgeSense
  dsimp only
  refine (modLane v l (f := fun x => { x with senseGates := satSucc 10 x.senseGates }) rfl).trans ?_
  split
  · split
    · exact (move _ l rfl).trans (LaneSide.EngineOnly.ask _ l).settingsKept
    · split
      · exact noted _
      · exact modLane _ l rfl
  · split
    · exact noted _
    · exact modLane _ l rfl

theorem judgeGate (v : LaneSide) (l : LaneId) (count : Nat) : v.SettingsKept (v.judgeGate l count) := by
  unfold LaneSide.judgeGate
  dsimp only
  split
  · exact lose v l
  · split
    · exact judgeSense v l count
    · split
      · exact fallSilent v l
      · exact refl v

theorem gateFigures (v : LaneSide) (l : LaneId) (count : Nat) : v.SettingsKept (v.gateFigures l count) :=
  (((LaneSide.EngineOnly.modConv v l _).trans (LaneSide.EngineOnly.judgeBypass _ l count)).settingsKept.trans
    (onPanel _ _ (Panel.observe_records _ _ _))).trans (LaneSide.EngineOnly.settleSlips _ l).settingsKept

theorem expireGate (v : LaneSide) (l : LaneId) : v.SettingsKept (v.expireGate l) := by
  unfold LaneSide.expireGate
  dsimp only
  split
  · have judged := (modLane v l (f := Lane.endGate) rfl).trans (judgeGate _ l (v.lane l).gauge.count.toNat)
    generalize (v.modLane l Lane.endGate).judgeGate l (v.lane l).gauge.count.toNat = u at judged ⊢
    refine (judged.trans ?_).trans (modLane _ l rfl)
    split
    · exact gateFigures u l _
    · exact refl u
  · exact refl v

theorem fadedPoint (v : LaneSide) (l : LaneId) : v.SettingsKept (v.fadedPoint l) := by
  unfold LaneSide.fadedPoint
  dsimp only
  have moved : v.SettingsKept (v.modLane l fun x =>
      if x.conv.granted = x.conv.effective then x
      else { x with latency := x.conv.granted.latency, conv := { x.conv with effective := x.conv.granted } }) :=
    modLane v l (by dsimp only; split <;> rfl)
  refine moved.trans (.trans ?_ (LaneSide.EngineOnly.modConv _ l _).settingsKept)
  split
  · exact (LaneSide.EngineOnly.slip _ l).settingsKept
  · exact refl _

theorem preferenceChanged (v : LaneSide) (l : LaneId) : v.SettingsKept (v.preferenceChanged l) := by
  unfold LaneSide.preferenceChanged
  dsimp only
  split
  · exact ((LaneSide.EngineOnly.regrant v l _).trans (LaneSide.EngineOnly.release _)).settingsKept
  · exact (LaneSide.EngineOnly.upgradePass v).settingsKept
  · exact refl v

theorem bypassForbidden (v : LaneSide) (l : LaneId) : v.SettingsKept (v.bypassForbidden l) := by
  unfold LaneSide.bypassForbidden
  split
  · exact (LaneSide.EngineOnly.leaveBypass v l).settingsKept
  · exact refl v

end LaneSide.SettingsKept

/-! ## LANE_SET in its steps (R14, R17, R38) -/

/-- The first step: the settings present are stored. -/
def LaneSide.store (l : LaneId) (b : LaneSetBody) (v : LaneSide) : LaneSide :=
  v.modLane l fun x => { x with settings := x.settings.with b }

/-- The effect of a preference that may have changed from this one. -/
def LaneSide.preferenceEffect (l : LaneId) (old : LaneSettings) (v : LaneSide) : LaneSide :=
  if old.preference = (v.lane l).settings.preference then v else v.preferenceChanged l

/-- The effect of a bypass setting that may have been yes. -/
def LaneSide.bypassEffect (l : LaneId) (old : LaneSettings) (v : LaneSide) : LaneSide :=
  if old.bypassAllowed = true ∧ (v.lane l).settings.bypassAllowed = false then v.bypassForbidden l else v

/-- The effect of an open counting setting that may have changed from this one. -/
def LaneSide.countingEffect (l : LaneId) (old : LaneSettings) (v : LaneSide) : LaneSide :=
  if (v.lane l).state = .disabled ∧ old.openCounting ≠ (v.lane l).settings.openCounting then
    v.modLane l fun x => { x with gauge := x.gauge.disabled x.settings.openCounting }
  else v

/-- The effect of the enable setting. -/
def LaneSide.enableEffect (l : LaneId) (enable : Option Bool) (v : LaneSide) : LaneSide :=
  match enable with
  | some false => if (v.lane l).state = .disabled then v else v.disable l
  | some true => if (v.lane l).state = .disabled then v.enable l else v
  | none => v

namespace LaneSide.SettingsKept

theorem preferenceEffect (v : LaneSide) (l : LaneId) (old : LaneSettings) : v.SettingsKept (v.preferenceEffect l old) := by
  unfold LaneSide.preferenceEffect
  split
  · exact refl v
  · exact preferenceChanged v l

theorem bypassEffect (v : LaneSide) (l : LaneId) (old : LaneSettings) : v.SettingsKept (v.bypassEffect l old) := by
  unfold LaneSide.bypassEffect
  split
  · exact bypassForbidden v l
  · exact refl v

theorem countingEffect (v : LaneSide) (l : LaneId) (old : LaneSettings) : v.SettingsKept (v.countingEffect l old) := by
  unfold LaneSide.countingEffect
  split
  · exact modLane v l rfl
  · exact refl v

theorem enableEffect (v : LaneSide) (l : LaneId) (enable : Option Bool) : v.SettingsKept (v.enableEffect l enable) := by
  unfold LaneSide.enableEffect
  split
  · split
    · exact refl v
    · exact disable v l
  · split
    · exact LaneSide.SettingsKept.enable v l
    · exact refl v
  · exact refl v

end LaneSide.SettingsKept

/-- LANE_SET is its steps one after the other: no step changes the settings the later ones look at. -/
theorem LaneSide.setLane_eq (l : LaneId) (b : LaneSetBody) (v : LaneSide) :
    v.setLane l b = (((((v.store l b).preferenceEffect l (v.lane l).settings).bypassEffect l (v.lane l).settings).countingEffect l
      (v.lane l).settings).enableEffect l b.enable) := by
  have prefer := (LaneSide.SettingsKept.preferenceEffect (v.store l b) l (v.lane l).settings).lane l
  have bypass := (LaneSide.SettingsKept.bypassEffect ((v.store l b).preferenceEffect l (v.lane l).settings) l (v.lane l).settings).lane l
  rw [LaneSide.countingEffect, bypass, LaneSide.bypassEffect, prefer]
  rfl

/-- LANE_SET stores the settings present; what follows from them changes no setting. -/
theorem LaneSide.setLane_settingsKept (v : LaneSide) (l : LaneId) (b : LaneSetBody) : (v.store l b).SettingsKept (v.setLane l b) := by
  rw [LaneSide.setLane_eq]
  exact (((LaneSide.SettingsKept.preferenceEffect _ l _).trans (.bypassEffect _ l _)).trans (.countingEffect _ l _)).trans
    (.enableEffect _ l _)

/-- The boundary changes no setting of a lane. -/
theorem LaneSide.boundary_settingsKept (v : LaneSide) : v.SettingsKept v.boundary := by
  have produced : v.SettingsKept { v with front := { v.front with lanes := v.front.lanes.map Lane.boundary } } :=
    ⟨fun l => by simp [LaneSide.lane, Lane.boundary], .refl _⟩
  exact produced.trans (LaneSide.EngineOnly.foldl _ LaneSide.EngineOnly.fillMoved _ _).settingsKept

end Sys2Proof.Machine

/-! Settings in range: every request and every profile record brings its values into range, so every step keeps the ranges (R17, R86,
R88, R126, R129, R166, R170, R185, R188). -/
namespace Sys2Proof.Machine

/-! ## The ranges, object by object -/

/-- The settings of a defined programme in their ranges, and 1 to 8 members. -/
structure Prog.Within (x : Prog) : Prop where
  members : 1 ≤ x.members.length ∧ x.members.length ≤ 8
  video : x.delay.video ≤ 96000
  trim : -48000 ≤ x.delay.trim ∧ x.delay.trim ≤ 48000
  glideLimit : x.delay.glideLimit ≤ 4800
  window : 10 ≤ x.meter.window ∧ x.meter.window ≤ 3000
  relGate : 40 ≤ x.meter.relGate ∧ x.meter.relGate ≤ 200
  minCount : 1 ≤ x.meter.minCount ∧ x.meter.minCount ≤ 3000
  target : -400 ≤ x.gain.settings.target ∧ x.gain.settings.target ≤ -100
  gmax : 0 ≤ x.gain.settings.gmax ∧ x.gain.settings.gmax ≤ 200
  gmin : -300 ≤ x.gain.settings.gmin ∧ x.gain.settings.gmin ≤ 0
  upSlew : 1 ≤ x.gain.settings.upSlew ∧ x.gain.settings.upSlew ≤ 50
  downSlew : 1 ≤ x.gain.settings.downSlew ∧ x.gain.settings.downSlew ≤ 50
  band : 0 ≤ x.gain.settings.band ∧ x.gain.settings.band ≤ 100
  g0 : -300 ≤ x.gain.settings.g0 ∧ x.gain.settings.g0 ≤ 200
  period : x.report.period ≤ 600

/-- A watch record's settings in their ranges, its measure one of its object's kind. -/
structure WatchRecord.Within (r : WatchRecord) : Prop where
  threshold : -(2 ^ 31) ≤ r.threshold ∧ r.threshold < 2 ^ 31
  raiseCount : 1 ≤ r.raiseCount ∧ r.raiseCount ≤ 600
  clearCount : 1 ≤ r.clearCount ∧ r.clearCount ≤ 600
  severity : 1 ≤ r.severity ∧ r.severity ≤ 7
  measure : r.measure ∈ r.object.kind.measures

/-- The panel's settings in range. -/
structure Wch.Within (w : Wch) : Prop where
  majorLevel : 1 ≤ w.majorLevel ∧ w.majorLevel ≤ 7
  record : ∀ i : WatchId, (w.watches[i]).record.Within

theorem ProgState.stored_iff {st : ProgState} : st.stored = true ↔ st = .waiting ∨ st = .running := by cases st <;> decide

theorem State.settingsInRange_iff (s : State) : s.SettingsInRange ↔ s.wch.Within ∧ (∀ l : LaneId, (s.lane l).settings.tolerance ≤ 200)
    ∧ ∀ p : ProgId, (s.prog p).state.stored = true → (s.prog p).Within := by
  simp only [ProgState.stored_iff]
  constructor
  · rintro ⟨level, lanes, progs, watches⟩
    refine ⟨⟨level, fun i => ?_⟩, lanes, fun p hp => ?_⟩
    · obtain ⟨h1, h2, h3, h4, h5⟩ := watches i
      exact ⟨h1, h2, h3, h4, h5⟩
    · obtain ⟨h1, h2, h3, h4, h5, h6, h7, h8, h9, h10, h11, h12, h13, h14, h15⟩ := progs p hp
      exact ⟨h1, h2, h3, h4, h5, h6, h7, h8, h9, h10, h11, h12, h13, h14, h15⟩
  · rintro ⟨wch, lanes, progs⟩
    refine ⟨wch.majorLevel, lanes, fun p hp => ?_, fun i => ?_⟩
    · obtain ⟨h1, h2, h3, h4, h5, h6, h7, h8, h9, h10, h11, h12, h13, h14, h15⟩ := progs p hp
      exact ⟨h1, h2, h3, h4, h5, h6, h7, h8, h9, h10, h11, h12, h13, h14, h15⟩
    · obtain ⟨h1, h2, h3, h4, h5⟩ := wch.record i
      exact ⟨h1, h2, h3, h4, h5⟩

/-! ## Ranges carried along -/

theorem Prog.SameSettings.within {x y : Prog} (h : x.SameSettings y) (hx : x.Within) : y.Within := by
  obtain ⟨m, v, t, g, w, r, c, s, p⟩ := h
  exact ⟨m ▸ hx.members, v ▸ hx.video, t ▸ hx.trim, g ▸ hx.glideLimit, w ▸ hx.window, r ▸ hx.relGate, c ▸ hx.minCount,
    s ▸ hx.target, s ▸ hx.gmax, s ▸ hx.gmin, s ▸ hx.upSlew, s ▸ hx.downSlew, s ▸ hx.band, s ▸ hx.g0, p ▸ hx.period⟩

theorem Panel.RecordsKept.within {v w : Panel} (h : v.RecordsKept w) (hv : v.wch.Within) : w.wch.Within :=
  ⟨h.majorLevel ▸ hv.majorLevel, fun i => h.record i ▸ hv.record i⟩

/-- The ranges speak of the watches, the lanes and the programmes alone. -/
theorem State.SettingsInRange.congr {s t : State} (h : s.SettingsInRange) (hw : t.wch = s.wch) (hf : t.front = s.front)
    (hp : t.progs = s.progs) : t.SettingsInRange := by
  unfold State.SettingsInRange State.lane State.prog at h ⊢
  rwa [hw, hf, hp]

theorem State.SettingsInRange.onPanel {s : State} (h : s.SettingsInRange) {f : Panel → Panel} (hf : s.panel.RecordsKept (f s.panel)) :
    (s.onPanel f).SettingsInRange := by
  rw [State.settingsInRange_iff] at h ⊢
  exact ⟨hf.within h.1, h.2⟩

/-- The lane side of a state. -/
def State.laneSide (s : State) : LaneSide := { front := s.front, panel := s.panel }

/-- The programme side of a state. -/
def State.progSide (s : State) : ProgSide := { latencies := s.latencies, progs := s.progs, dmc := s.dmc, panel := s.panel }

theorem State.onLanes_lane (s : State) (f : LaneSide → LaneSide) (l : LaneId) : (s.onLanes f).lane l = (f s.laneSide).lane l := rfl

theorem State.onProgs_prog (s : State) (f : ProgSide → ProgSide) (p : ProgId) : (s.onProgs f).prog p = (f s.progSide).prog p := rfl

/-- The ranges after work on the lanes, told of the lane side. -/
theorem State.settingsInRange_onLanes (s : State) (f : LaneSide → LaneSide) : (s.onLanes f).SettingsInRange ↔
    (f s.laneSide).panel.wch.Within ∧ (∀ l : LaneId, ((f s.laneSide).lane l).settings.tolerance ≤ 200)
      ∧ ∀ p : ProgId, (s.prog p).state.stored = true → (s.prog p).Within := State.settingsInRange_iff _

/-- The ranges after work on the programmes, told of the programme side. -/
theorem State.settingsInRange_onProgs (s : State) (f : ProgSide → ProgSide) : (s.onProgs f).SettingsInRange ↔
    (f s.progSide).panel.wch.Within ∧ (∀ l : LaneId, (s.lane l).settings.tolerance ≤ 200)
      ∧ ∀ p : ProgId, ((f s.progSide).prog p).state.stored = true → ((f s.progSide).prog p).Within := State.settingsInRange_iff _

theorem State.SettingsInRange.onLanes {s : State} (h : s.SettingsInRange) {f : LaneSide → LaneSide}
    (hf : ∀ v : LaneSide, v.SettingsKept (f v)) : (s.onLanes f).SettingsInRange := by
  rw [State.settingsInRange_iff] at h
  rw [State.settingsInRange_onLanes]
  obtain ⟨wch, lanes, progs⟩ := h
  have kept := hf s.laneSide
  exact ⟨kept.panel.within wch, fun l => (congrArg LaneSettings.tolerance (kept.lane l)).trans_le (lanes l), progs⟩

theorem State.SettingsInRange.onProgs {s : State} (h : s.SettingsInRange) {f : ProgSide → ProgSide}
    (hf : ∀ v : ProgSide, v.SettingsKept (f v)) : (s.onProgs f).SettingsInRange := by
  rw [State.settingsInRange_iff] at h
  rw [State.settingsInRange_onProgs]
  obtain ⟨wch, lanes, progs⟩ := h
  have kept := hf s.progSide
  refine ⟨kept.panel.within wch, lanes, fun p stored => ?_⟩
  obtain ⟨was, same⟩ := kept.prog p stored
  exact same.within (progs p was)

/-- One programme's record changed: if it is defined after, it was before, and the change keeps the ranges. -/
theorem State.SettingsInRange.modProg {s : State} (h : s.SettingsInRange) (p : ProgId) {f : Prog → Prog}
    (hs : (f (s.prog p)).state = (s.prog p).state) (hf : (s.prog p).Within → (f (s.prog p)).Within) :
    (s.modProg p f).SettingsInRange := by
  rw [State.settingsInRange_iff] at h ⊢
  obtain ⟨wch, lanes, progs⟩ := h
  refine ⟨wch, lanes, fun q stored => ?_⟩
  rw [State.modProg_eq_setProg] at stored ⊢
  by_cases e : q = p
  · subst e
    rw [State.setProg_prog_self] at stored ⊢
    exact hf (progs q (hs ▸ stored))
  · rw [State.setProg_prog_other _ _ e] at stored ⊢
    exact progs q stored

/-! ## Values brought into range -/

theorem clampSetting_bounds (v : Option Int) {lo hi old : Int} (h : lo ≤ hi) (ho : lo ≤ old ∧ old ≤ hi) :
    lo ≤ clampSetting v lo hi old ∧ clampSetting v lo hi old ≤ hi := by
  cases v with
  | none => exact ho
  | some n => exact clampInt_bounds n h

/-- A count setting, held as a number: in range as the clamped integer is. -/
theorem clampSetting_toNat_bounds (v : Option Int) {lo hi old : Nat} (h : lo ≤ hi) (ho : lo ≤ old ∧ old ≤ hi) :
    lo ≤ (clampSetting v lo hi old).toNat ∧ (clampSetting v lo hi old).toNat ≤ hi := by
  have bounds := clampSetting_bounds v (lo := lo) (hi := hi) (old := old) (by omega) (by omega)
  omega

theorem clampedCount_bounds (v : Option Nat) {lo hi old : Nat} (h : lo ≤ hi) (ho : lo ≤ old ∧ old ≤ hi) :
    lo ≤ (v.map fun n => clampNat n lo hi).getD old ∧ (v.map fun n => clampNat n lo hi).getD old ≤ hi := by
  cases v with
  | none => exact ho
  | some n => exact clampNat_bounds n h

theorem limitedCount_le (v : Option Nat) {top old : Nat} (ho : old ≤ top) : (v.map (min top)).getD old ≤ top := by
  cases v with
  | none => exact ho
  | some n => exact Nat.min_le_left top n

/-- A LOUD_SET's values are brought into range (R126, R129). -/
theorem Prog.setLoud_within (b : LoudBody) {x : Prog} (h : x.Within) : (x.setLoud b).Within := by
  have store : (x.setLoud b).gain.settings = x.gain.settings.set b := by
    unfold Prog.setLoud
    dsimp only
    split
    · exact GainRec.limit_settings _ _
    · rfl
  have gmax := clampSetting_bounds b.gmax (lo := 0) (hi := 200) (by decide) h.gmax
  have gmin := clampSetting_bounds b.gmin (lo := -300) (hi := 0) (by decide) h.gmin
  have g0 := clampInt_bounds (b.g0.getD x.gain.settings.g0) (gmin.2.trans gmax.1)
  exact { members := h.members, video := h.video, trim := h.trim, glideLimit := h.glideLimit,
          window := clampSetting_toNat_bounds b.window (lo := 10) (hi := 3000) (by decide) h.window,
          relGate := clampSetting_bounds b.relGate (by decide) h.relGate,
          minCount := clampSetting_toNat_bounds b.minCount (lo := 1) (hi := 3000) (by decide) h.minCount,
          target := store ▸ clampSetting_bounds b.target (by decide) h.target,
          gmax := store ▸ gmax,
          gmin := store ▸ gmin,
          upSlew := store ▸ clampSetting_bounds b.upSlew (by decide) h.upSlew,
          downSlew := store ▸ clampSetting_bounds b.downSlew (by decide) h.downSlew,
          band := store ▸ clampSetting_bounds b.band (by decide) h.band,
          g0 := store ▸ ⟨gmin.1.trans g0.1, g0.2.trans gmax.2⟩,
          period := h.period }

theorem Prog.setLoud_state (b : LoudBody) (x : Prog) : (x.setLoud b).state = x.state := rfl

/-- A new definition has its settings at their defaults, which lie in range (R48). -/
theorem Prog.defined_within {ms : List MemberDef} (h : 1 ≤ ms.length ∧ ms.length ≤ 8) : (Prog.defined ms).Within := by
  constructor
  case members => simpa [Prog.defined] using h
  all_goals simp [Prog.defined, Prog.undefined, DelayRec.fresh, MeterRec.fresh, GainRec.fresh, GainSettings.factory, ReportRec.fresh]

/-- A stored programme's settings are brought into range (R48, R188). -/
theorem ProgRecord.stored_within (r : ProgRecord) {ms : List MemberDef} (h : 1 ≤ ms.length ∧ ms.length ≤ 8) : (r.stored ms).Within := by
  have loud := Prog.setLoud_within r.loud (Prog.defined_within h)
  exact { loud with
          video := Nat.min_le_left _ _
          trim := clampInt_bounds r.trim (by decide)
          glideLimit := Nat.min_le_left _ _
          period := Nat.min_le_left _ _ }

/-! ## Members read, members judged -/

theorem Reader.andThen_eq_some {α β : Type} {r : Reader α} {f : α → Reader β} {bs : List Byte} {q : β × List Byte} :
    r.andThen f bs = some q ↔ ∃ a rest, r bs = some (a, rest) ∧ f a rest = some q := by
  unfold Reader.andThen
  cases r bs with
  | none => simp
  | some p => obtain ⟨a, rest⟩ := p; simp

theorem Reader.map_eq_some {α β : Type} {r : Reader α} {f : α → β} {bs : List Byte} {b : β} {rest : List Byte} :
    r.map f bs = some (b, rest) ↔ ∃ a, r bs = some (a, rest) ∧ f a = b := by
  simp only [Reader.map, Reader.andThen_eq_some, Reader.pure, Option.some.injEq, Prod.mk.injEq]
  constructor
  · rintro ⟨a, _, h, rfl, rfl⟩; exact ⟨a, h, rfl⟩
  · rintro ⟨a, h, rfl⟩; exact ⟨a, rest, h, rfl, rfl⟩

theorem Reader.check_eq_some {α : Type} {ok : α → Bool} {r : Reader α} {bs : List Byte} {a : α} {rest : List Byte} :
    r.check ok bs = some (a, rest) ↔ r bs = some (a, rest) ∧ ok a = true := by
  simp only [Reader.check, Reader.andThen_eq_some]
  constructor
  · rintro ⟨x, left, h, hx⟩
    split at hx
    · cases hx; exact ⟨h, ‹_›⟩
    · cases hx
  · rintro ⟨h, ok⟩
    exact ⟨a, rest, h, by simp [ok, Reader.pure]⟩

theorem Reader.whole_eq_some {α : Type} {r : Reader α} {bs : List Byte} {a : α} : r.whole bs = some a ↔ r bs = some (a, []) := by
  unfold Reader.whole
  rcases h : r bs with _ | ⟨x, _ | ⟨b, rest⟩⟩ <;> simp

/-- A row of n values read is n values, each read by the reader from some bytes. -/
theorem Reader.times_eq_some {α : Type} {r : Reader α} {n : Nat} {bs : List Byte} {as : List α} {rest : List Byte}
    (h : r.times n bs = some (as, rest)) : as.length = n ∧ ∀ a ∈ as, ∃ src left, r src = some (a, left) := by
  induction n generalizing bs as with
  | zero => cases h; simp
  | succ n ih =>
    obtain ⟨a, left, read, more⟩ := Reader.andThen_eq_some.1 h
    obtain ⟨others, readOthers, rfl⟩ := Reader.map_eq_some.1 more
    obtain ⟨len, each⟩ := ih readOthers
    refine ⟨by simp [len], fun x hx => ?_⟩
    rcases List.mem_cons.1 hx with rfl | hx
    · exact ⟨bs, left, read⟩
    · exact each x hx

/-- A member list read has 1 to 8 members (R48). -/
theorem readMembers_length {bs : List Byte} {ms : List MemberBody} {rest : List Byte} (h : readMembers bs = some (ms, rest)) :
    1 ≤ ms.length ∧ ms.length ≤ 8 := by
  obtain ⟨n, left, count, row⟩ := Reader.andThen_eq_some.1 h
  obtain ⟨-, ok⟩ := Reader.check_eq_some.1 count
  rw [(Reader.times_eq_some row).1]
  simpa using ok

theorem bodyProgDefine_length {body : List Byte} {p : Nat} {ms : List MemberBody} (h : bodyProgDefine body = some (p, ms)) :
    1 ≤ ms.length ∧ ms.length ≤ 8 := by
  obtain ⟨n, left, -, members⟩ := Reader.andThen_eq_some.1 (Reader.whole_eq_some.1 h)
  obtain ⟨a, read, same⟩ := Reader.map_eq_some.1 members
  cases same
  exact readMembers_length read

/-- The parts of a profile, each read from some bytes. -/
structure Profile.Read (q : Profile) : Prop where
  major : q.majorLevel < 256
  lanes : q.lanes.length = 8
  progs : ∀ r ∈ q.progs, ∃ src left, readProgRecord src = some (r, left)
  ascending : ascendingBelow16 (q.progs.map (·.prog)) = true
  watches : q.watches.length = 32
  watch : ∀ b ∈ q.watches, ∃ src left, readWatchRecord src = some (b, left)

theorem readProfile_read {bs : List Byte} {q : Profile} (h : readProfile bs = some q) : q.Read := by
  obtain ⟨body, ascending⟩ := Reader.check_eq_some.1 (Reader.whole_eq_some.1 h)
  obtain ⟨major, bs1, readMajor, body⟩ := Reader.andThen_eq_some.1 body
  obtain ⟨lanes, bs2, readLanes, body⟩ := Reader.andThen_eq_some.1 body
  obtain ⟨n, bs3, -, body⟩ := Reader.andThen_eq_some.1 body
  obtain ⟨progs, bs4, readProgs, body⟩ := Reader.andThen_eq_some.1 body
  obtain ⟨watches, readWatches, rfl⟩ := Reader.map_eq_some.1 body
  have byte : major < 256 := by
    cases bs with
    | nil => cases readMajor
    | cons b bs => cases readMajor; exact b.isLt
  obtain ⟨watchCount, eachWatch⟩ := Reader.times_eq_some readWatches
  exact ⟨byte, (Reader.times_eq_some readLanes).1, (Reader.times_eq_some readProgs).2, ascending, watchCount, eachWatch⟩

theorem judgeImage_read {mem : Memory} {q : Profile} (h : judgeImage mem = some q) : q.Read := by
  unfold judgeImage at h
  dsimp only at h
  split at h
  · split at h
    · exact readProfile_read h
    · cases h
  · cases h

theorem readProgRecord_length {bs rest : List Byte} {r : ProgRecord} (h : readProgRecord bs = some (r, rest)) :
    1 ≤ r.members.length ∧ r.members.length ≤ 8 := by
  obtain ⟨prog, bs1, -, h⟩ := Reader.andThen_eq_some.1 h
  obtain ⟨members, bs2, readMs, h⟩ := Reader.andThen_eq_some.1 h
  obtain ⟨video, bs3, -, h⟩ := Reader.andThen_eq_some.1 h
  obtain ⟨trim, bs4, -, h⟩ := Reader.andThen_eq_some.1 h
  obtain ⟨method, bs5, -, h⟩ := Reader.andThen_eq_some.1 h
  obtain ⟨glide, bs6, -, h⟩ := Reader.andThen_eq_some.1 h
  obtain ⟨loud, bs7, -, h⟩ := Reader.andThen_eq_some.1 h
  obtain ⟨paused, bs8, -, h⟩ := Reader.andThen_eq_some.1 h
  obtain ⟨period, bs9, -, h⟩ := Reader.andThen_eq_some.1 h
  obtain ⟨selection, -, rfl⟩ := Reader.map_eq_some.1 h
  exact readMembers_length readMs

/-- Members all judged good are as many as those of the request. -/
theorem judgeMembers_length {progs : Vector Prog 16} {earlier : List MemberDef} {ms : List MemberBody} {defs : List MemberDef}
    (h : judgeMembers progs earlier ms = .ok defs) : defs.length = earlier.length + ms.length := by
  induction ms generalizing earlier with
  | nil => cases h; rfl
  | cons m ms ih =>
    unfold judgeMembers at h
    split at h
    · cases h
    · rw [ih h, List.length_append, List.length_cons, List.length_cons, List.length_nil]; omega

end Sys2Proof.Machine

/-! Every step keeps every setting in its range: the commands, one by one. -/
namespace Sys2Proof.Machine

/-! ## Watch records -/

theorem Reader.opt_eq_some {α : Type} {r : Reader α} {present : Bool} {bs rest : List Byte} {a : α}
    (h : Reader.opt present r bs = some (some a, rest)) : r bs = some (a, rest) := by
  unfold Reader.opt at h
  split at h
  · obtain ⟨b, read, same⟩ := Reader.map_eq_some.1 h
    cases same
    exact read
  · cases h

theorem s32_bounds {bs rest : List Byte} {n : Int} (h : s32 bs = some (n, rest)) : -(2 ^ 31) ≤ n ∧ n < 2 ^ 31 := by
  obtain ⟨k, -, rfl⟩ := Reader.map_eq_some.1 h
  exact ⟨BitVec.le_toInt _, BitVec.toInt_lt⟩

/-- A threshold, where one is present, is a 32-bit number (11.2). -/
def WatchBody.ThresholdFits (b : WatchBody) : Prop := ∀ n, b.threshold = some n → -(2 ^ 31) ≤ n ∧ n < 2 ^ 31

theorem readWatch_thresholdFits {bits : Nat} {bs rest : List Byte} {b : WatchBody} (h : readWatch bits bs = some (b, rest)) :
    b.ThresholdFits := by
  obtain ⟨enable, bs1, -, h⟩ := Reader.andThen_eq_some.1 h
  obtain ⟨object, bs2, -, h⟩ := Reader.andThen_eq_some.1 h
  obtain ⟨measure, bs3, -, h⟩ := Reader.andThen_eq_some.1 h
  obtain ⟨threshold, bs4, readThreshold, h⟩ := Reader.andThen_eq_some.1 h
  obtain ⟨sense, bs5, -, h⟩ := Reader.andThen_eq_some.1 h
  obtain ⟨mode, bs6, -, h⟩ := Reader.andThen_eq_some.1 h
  obtain ⟨raiseCount, bs7, -, h⟩ := Reader.andThen_eq_some.1 h
  obtain ⟨clearCount, bs8, -, h⟩ := Reader.andThen_eq_some.1 h
  obtain ⟨severity, bs9, -, h⟩ := Reader.andThen_eq_some.1 h
  obtain ⟨freezeEnable, -, rfl⟩ := Reader.map_eq_some.1 h
  rintro n rfl
  exact s32_bounds (Reader.opt_eq_some readThreshold)

theorem readWatchRecord_thresholdFits {bs rest : List Byte} {b : WatchBody} (h : readWatchRecord bs = some (b, rest)) :
    b.ThresholdFits := readWatch_thresholdFits (Reader.check_eq_some.1 h).1

theorem bodyWatchSet_thresholdFits {body : List Byte} {b : WatchSetBody} (h : bodyWatchSet body = some b) :
    ∀ part, b.watch = some part → part.2.ThresholdFits := by
  obtain ⟨h, -⟩ := Reader.check_eq_some.1 (Reader.whole_eq_some.1 h)
  obtain ⟨bits, bs1, -, h⟩ := Reader.andThen_eq_some.1 h
  obtain ⟨watch, bs2, readPart, h⟩ := Reader.andThen_eq_some.1 h
  obtain ⟨major, -, rfl⟩ := Reader.map_eq_some.1 h
  rintro part rfl
  obtain ⟨w, bs3, -, h⟩ := Reader.andThen_eq_some.1 (Reader.opt_eq_some readPart)
  obtain ⟨fields, bs4, -, h⟩ := Reader.andThen_eq_some.1 h
  obtain ⟨b, readFields, rfl⟩ := Reader.map_eq_some.1 h
  exact readWatch_thresholdFits readFields

theorem ObjectKind.object_kind {k : ObjectKind} {n : Nat} {o : WatchObject} (h : k.object n = some o) : o.kind = k := by
  cases k with
  | programme => obtain ⟨p, -, rfl⟩ := Option.map_eq_some_iff.1 h; rfl
  | lane => obtain ⟨l, -, rfl⟩ := Option.map_eq_some_iff.1 h; rfl
  | reference => cases h; rfl
  | pool => cases h; rfl

/-- A watch part taken gives a record in range (R170). -/
theorem WatchBody.judge_within {b : WatchBody} {r new : WatchRecord} (hb : b.ThresholdFits) (hr : r.Within) (h : b.judge r = .ok new) :
    new.Within := by
  unfold WatchBody.judge at h
  split at h
  · cases h
  · next measure listed =>
    split at h
    · cases h
    · next object named =>
      cases h
      refine ⟨?_, clampedCount_bounds _ (by decide) hr.raiseCount, clampedCount_bounds _ (by decide) hr.clearCount,
        clampedCount_bounds _ (by decide) hr.severity, ?_⟩
      · show -(2 ^ 31) ≤ b.threshold.getD r.threshold ∧ b.threshold.getD r.threshold < 2 ^ 31
        cases ht : b.threshold with
        | none => exact hr.threshold
        | some n => exact hb n ht
      · show measure ∈ object.kind.measures
        rw [ObjectKind.object_kind named]
        exact List.mem_of_getElem? listed

theorem WatchRecord.start_record (r : WatchRecord) : r.start.record = r := rfl

/-- A watch restarted with a record in range. -/
theorem Panel.restartWatch_within {v : Panel} (h : v.wch.Within) (id : WatchId) {r : WatchRecord} (hr : r.Within) :
    (v.restartWatch id r).wch.Within := by
  have cleared := (Panel.clear_kept (.watch id) v).records.within h
  refine ⟨cleared.majorLevel, fun i => ?_⟩
  unfold Panel.restartWatch
  by_cases e : i = id
  · subst e; rwa [Panel.setWatch_watches_self]
  · rw [Panel.setWatch_watches_other _ _ e]; exact cleared.record i

theorem Panel.setMajorLevel_within {v : Panel} (h : v.wch.Within) (level : Option Nat) : (v.setMajorLevel level).wch.Within := by
  cases level with
  | none => exact h
  | some n => exact ⟨clampNat_bounds n (by decide), h.record⟩

theorem watchSetAnswer_settingsInRange {b : WatchSetBody} (hb : ∀ part, b.watch = some part → part.2.ThresholdFits) {s : State}
    (h : s.SettingsInRange) : (watchSetAnswer b s).2.2.SettingsInRange := by
  unfold watchSetAnswer
  split
  · exact h
  · next part judged =>
    rw [State.settingsInRange_iff] at h ⊢
    refine ⟨Panel.setMajorLevel_within ?_ _, h.2⟩
    cases part with
    | none => exact h.1
    | some part =>
      unfold WatchSetBody.judge at judged
      split at judged
      · cases judged
      · next n fields present =>
        split at judged
        · cases judged
        · next id _ =>
          split at judged
          · cases judged
          · next r ok =>
            cases judged
            exact Panel.restartWatch_within h.1 id (WatchBody.judge_within (hb _ present) (h.1.record id) ok)

/-! ## Definitions -/

theorem ProgSide.startProg_prog_other (v : ProgSide) {p q : ProgId} (delay : Nat) (h : q ≠ p) :
    (v.startProg p delay).prog q = v.prog q := by
  have h' : p.val ≠ q.val := fun e => h (Fin.ext e.symm)
  simp [ProgSide.startProg, ProgSide.prog, h']

@[simp] theorem ProgSide.joinWait_prog (v : ProgSide) (p q : ProgId) : (v.joinWait p).prog q = v.prog q := by
  unfold ProgSide.joinWait
  split <;> rfl

/-- Funding a new programme changes no other. -/
theorem ProgSide.fundNew_prog_other (v : ProgSide) {p q : ProgId} (h : q ≠ p) : (v.fundNew p).prog q = v.prog q := by
  unfold ProgSide.fundNew
  dsimp only
  split
  · exact v.startProg_prog_other _ h
  · split
    · rw [ProgSide.joinWait_prog, v.startProg_prog_other _ h]
    · rw [ProgSide.joinWait_prog, ProgSide.modProg_prog_other _ _ h]

/-- Funding a new programme keeps its settings. -/
theorem ProgSide.fundNew_sameSettings (v : ProgSide) (p : ProgId) : (v.prog p).SameSettings ((v.fundNew p).prog p) := by
  unfold ProgSide.fundNew
  dsimp only
  split
  · exact v.startProg_sameSettings p _
  · split
    · rw [ProgSide.joinWait_prog]; exact v.startProg_sameSettings p _
    · rw [ProgSide.joinWait_prog, ProgSide.modProg_prog_self]; exact ⟨rfl, rfl, rfl, rfl, rfl, rfl, rfl, rfl, rfl⟩

theorem ProgSide.fundNew_records (v : ProgSide) (p : ProgId) : v.panel.RecordsKept (v.fundNew p).panel := by
  have joined (u : ProgSide) : u.panel.RecordsKept (u.joinWait p).panel := (ProgSide.SettingsKept.joinWait u p).panel
  unfold ProgSide.fundNew
  dsimp only
  split
  · exact .refl _
  · split
    · exact joined (v.startProg p _)
    · exact joined (v.modProg p _)

@[simp] theorem ProgSide.event_prog (f : ProgSide → ProgSide) (v : ProgSide) (p : ProgId) :
    (ProgSide.event f v).prog p = (f v).prog p := by
  unfold ProgSide.event
  dsimp only
  split
  · rfl
  · rw [ProgSide.onPanel_prog]

theorem ProgSide.define_prog_other (v : ProgSide) {p q : ProgId} (x : Prog) (h : q ≠ p) : (v.define p x).prog q = v.prog q := by
  have h' : p.val ≠ q.val := fun e => h (Fin.ext e.symm)
  rw [ProgSide.define, ProgSide.event_prog, ProgSide.fundNew_prog_other _ h]
  simp [ProgSide.prog, h']

theorem ProgSide.define_sameSettings (v : ProgSide) (p : ProgId) (x : Prog) : x.SameSettings ((v.define p x).prog p) := by
  have funded := ProgSide.fundNew_sameSettings { v with progs := v.progs.set p x } p
  rw [ProgSide.define, ProgSide.event_prog]
  have self : ProgSide.prog { v with progs := v.progs.set p x } p = x := by simp [ProgSide.prog]
  rwa [self] at funded

theorem ProgSide.define_records (v : ProgSide) (p : ProgId) (x : Prog) : v.panel.RecordsKept (v.define p x).panel := by
  have funded := ProgSide.fundNew_records { v with progs := v.progs.set p x } p
  unfold ProgSide.define ProgSide.event
  dsimp only
  split
  · exact funded
  · rw [ProgSide.onPanel_panel]
    exact funded.trans (Panel.observe_records _ _ _)

/-- A programme defined with settings in range. -/
theorem State.SettingsInRange.define {s : State} (h : s.SettingsInRange) (p : ProgId) {x : Prog} (hx : x.Within) :
    (s.onProgs (ProgSide.define p x)).SettingsInRange := by
  rw [State.settingsInRange_iff] at h
  rw [State.settingsInRange_onProgs]
  obtain ⟨wch, lanes, progs⟩ := h
  refine ⟨(s.progSide.define_records p x).within wch, lanes, fun q stored => ?_⟩
  by_cases e : q = p
  · subst e; exact (s.progSide.define_sameSettings q x).within hx
  · rw [s.progSide.define_prog_other x e] at stored ⊢
    exact progs q stored

/-! ## The profile load -/

theorem State.SettingsInRange.laneSet {s : State} (h : s.SettingsInRange) (l : LaneId) (b : LaneSetBody) :
    (s.onLanes (LaneSide.setLane l b)).SettingsInRange := by
  rw [State.settingsInRange_iff] at h
  rw [State.settingsInRange_onLanes]
  obtain ⟨wch, lanes, progs⟩ := h
  have kept := s.laneSide.setLane_settingsKept l b
  refine ⟨kept.panel.within wch, fun m => (congrArg LaneSettings.tolerance (kept.lane m)).trans_le ?_, progs⟩
  unfold LaneSide.store
  by_cases e : m = l
  · subst e
    rw [LaneSide.modLane_lane_self]
    exact limitedCount_le b.tolerance (lanes m)
  · rw [LaneSide.modLane_lane_other _ _ e]
    exact lanes m

theorem State.SettingsInRange.foldl {α : Type} {f : State → α → State} {xs : List α}
    (hf : ∀ x ∈ xs, ∀ s : State, s.SettingsInRange → (f s x).SettingsInRange) {s : State} (h : s.SettingsInRange) :
    (xs.foldl f s).SettingsInRange :=
  List.foldlRecOn xs f h fun s hs x hx => hf x hx s hs

theorem State.SettingsInRange.applyProg {s : State} (h : s.SettingsInRange) {r : ProgRecord}
    (hr : 1 ≤ r.members.length ∧ r.members.length ≤ 8) : (s.applyProg r).SettingsInRange := by
  unfold State.applyProg
  split
  · next p defs _ judged =>
    have count : defs.length = r.members.length := by simpa using judgeMembers_length judged
    have counted : State.SettingsInRange { s with pfu := { s.pfu with defined := s.pfu.defined + 1 } } := h.congr rfl rfl rfl
    exact counted.define p (r.stored_within (count ▸ hr))
  · exact h.congr rfl rfl rfl

theorem State.SettingsInRange.applyWatch {s : State} (h : s.SettingsInRange) (major : Nat) {w : WatchId × WatchBody}
    (hw : w.2.ThresholdFits) : (applyWatch major s w).SettingsInRange := by
  refine watchSetAnswer_settingsInRange (fun part present => ?_) h
  obtain rfl : (w.1.val, w.2) = part := Option.some.inj present
  exact hw

/-- A profile whose programmes have 1 to 8 members and whose thresholds fit is applied within the ranges. -/
theorem State.SettingsInRange.applyProfile {s : State} (h : s.SettingsInRange) {q : Profile}
    (hp : ∀ r ∈ q.progs, 1 ≤ r.members.length ∧ r.members.length ≤ 8) (hw : ∀ b ∈ q.watches, b.ThresholdFits) :
    (s.applyProfile q).SettingsInRange := by
  have lanes : (s.applyLanes q.lanes).SettingsInRange := .foldl (fun x _ s hs => hs.laneSet x.1 _) h
  have progs := State.SettingsInRange.foldl (fun r hr s hs => hs.applyProg (hp r hr)) lanes
  exact .foldl (fun w hm s hs => hs.applyWatch q.majorLevel (hw w.2 (List.of_mem_zip hm).2)) progs

/-- The image the load judges was read from the memory. -/
theorem Pfu.image_read {u : Pfu} {q : Profile} (h : u.image = some q) : q.Read := by
  unfold Pfu.image at h
  split at h
  · exact judgeImage_read h
  · cases h

theorem State.SettingsInRange.applyRead {s : State} (h : s.SettingsInRange) {q : Profile} (read : q.Read) :
    (s.applyProfile q).SettingsInRange := by
  refine h.applyProfile (fun r hr => ?_) fun b hb => ?_
  · obtain ⟨src, left, readRec⟩ := read.progs r hr
    exact readProgRecord_length readRec
  · obtain ⟨src, left, readRec⟩ := read.watch b hb
    exact readWatchRecord_thresholdFits readRec

theorem State.SettingsInRange.applyFactory {s : State} (h : s.SettingsInRange) :
    (s.applyProfile Profile.factory).SettingsInRange := by
  refine h.applyProfile (fun r hr => ?_) fun b hb => ?_
  · simp [Profile.factory] at hr
  · obtain rfl := List.eq_of_mem_replicate hb
    intro n present
    obtain rfl : 0 = n := Option.some.inj present
    decide

theorem State.SettingsInRange.setOutcome {s : State} (h : s.SettingsInRange) (o : LoadOutcome) : (s.setOutcome o).SettingsInRange :=
  h.congr rfl rfl rfl

theorem State.SettingsInRange.loadEnd {s : State} (h : s.SettingsInRange) : s.loadEnd.SettingsInRange := by
  unfold State.loadEnd
  split
  · have start : State.SettingsInRange { s with pfu := s.pfu.readStart } := h.congr rfl rfl rfl
    generalize { s with pfu := s.pfu.readStart } = u at start ⊢
    dsimp only
    split
    · next q image => exact (start.applyRead (Pfu.image_read image)).setOutcome _
    · exact (start.applyFactory.onPanel (Panel.raise_kept .profileFault _).records).setOutcome _
  · exact h

/-! ## Requests -/

/-- A request taken keeps the ranges if its block's answer does. -/
theorem State.SettingsInRange.take {s : State} (h : s.SettingsInRange) {ofKind : Byte → Bool} {inLoad : Bool}
    {act : List Byte → State → Answer} (hact : ∀ body, (act body s).2.2.SettingsInRange) :
    (State.takeRequest ofKind inLoad act s).SettingsInRange := by
  unfold State.takeRequest
  split
  · exact h
  · split
    · split
      · exact h.congr rfl rfl rfl
      · exact (hact _).congr rfl rfl rfl
    · exact h

theorem State.SettingsInRange.withBody {s : State} (h : s.SettingsInRange) {α : Type} {read : List Byte → Option α}
    {act : α → State → Answer} {body : List Byte} (hact : ∀ a, read body = some a → (act a s).2.2.SettingsInRange) :
    (withBody read act body s).2.2.SettingsInRange := by
  unfold Machine.withBody
  split
  · exact h
  · next a fits => exact hact a fits

theorem State.SettingsInRange.onProg {s : State} (h : s.SettingsInRange) {refuses : ProgState → Option Status} {n : Nat}
    {act : ProgId → State → Answer} (hact : ∀ p, (act p s).2.2.SettingsInRange) : (onProg refuses n act s).2.2.SettingsInRange := by
  unfold Machine.onProg
  split
  · exact h
  · split
    · exact h
    · exact hact _

theorem State.SettingsInRange.onLane {s : State} (h : s.SettingsInRange) {n : Nat} {act : LaneId → State → Answer}
    (hact : ∀ l, (act l s).2.2.SettingsInRange) : (onLane n act s).2.2.SettingsInRange := by
  unfold Machine.onLane
  split
  · exact h
  · exact hact _

theorem progDefineAnswer_settingsInRange {ms : List MemberBody} (hm : 1 ≤ ms.length ∧ ms.length ≤ 8) (p : ProgId) {s : State}
    (h : s.SettingsInRange) : (progDefineAnswer ms p s).2.2.SettingsInRange := by
  unfold progDefineAnswer
  split
  · exact h
  · next defs judged =>
    have count : defs.length = ms.length := by simpa using judgeMembers_length judged
    exact h.define p (Prog.defined_within (count ▸ hm))

theorem progUndefineAnswer_settingsInRange (p : ProgId) {s : State} (h : s.SettingsInRange) :
    (progUndefineAnswer p s).2.2.SettingsInRange := by
  refine h.onProgs fun v => ?_
  split
  · exact .undefineWaiting v p
  · exact .beginRelease v p

/-- A delay record stored before its new request is made keeps the ranges. -/
theorem State.SettingsInRange.storeDelay {s : State} (h : s.SettingsInRange) (p : ProgId) {f : DelayRec → DelayRec}
    (hf : ∀ x : Prog, x.Within → Prog.Within { x with delay := f x.delay }) {g : ProgSide → ProgSide}
    (hg : ∀ v : ProgSide, v.SettingsKept (g v)) : (s.onProgs fun v => g (v.modDelay p f)).SettingsInRange :=
  (h.modProg p (f := fun x => { x with delay := f x.delay }) rfl (hf _)).onProgs hg

theorem videoLatencyAnswer_settingsInRange (latency : Nat) (p : ProgId) {s : State} (h : s.SettingsInRange) :
    (videoLatencyAnswer latency p s).2.2.SettingsInRange :=
  h.storeDelay p (g := ProgSide.newRequest p) (fun _ hx => { hx with video := Nat.min_le_left _ _ }) fun v => .newRequest v p

theorem delaySetAnswer_settingsInRange (b : DelaySetBody) (p : ProgId) {s : State} (h : s.SettingsInRange) :
    (delaySetAnswer b p s).2.2.SettingsInRange := by
  refine h.storeDelay p (f := DelayRec.store b) (g := fun v => if b.trim.isSome then v.newRequest p else v)
    (fun _ hx => { hx with trim := clampSetting_bounds _ (by decide) hx.trim, glideLimit := limitedCount_le _ hx.glideLimit })
    fun v => ?_
  split
  · exact .newRequest v p
  · exact .refl v

theorem Prog.pause_within (paused : Bool) {x : Prog} (h : x.Within) :
    Prog.Within { x with gain := { x.gain with paused := paused } } :=
  (x.sameSettings_of_gain (g := { x.gain with paused := paused }) rfl).within h

theorem reportSetAnswer_settingsInRange (b : Option Nat × Option Selection) (p : ProgId) {s : State} (h : s.SettingsInRange) :
    (reportSetAnswer b p s).2.2.SettingsInRange :=
  h.modProg p rfl fun hx => { hx with period := limitedCount_le b.1 hx.period }

theorem monitorSetAnswer_settingsInRange (b : Option Nat × Option Bool) {s : State} (h : s.SettingsInRange) :
    (monitorSetAnswer b s).2.2.SettingsInRange := by
  have taken (selected : Option (Option ProgId)) : (monitorTaken selected b.2 s).2.2.SettingsInRange := by
    rw [State.settingsInRange_iff] at h ⊢
    exact ⟨⟨h.1.majorLevel, h.1.record⟩, h.2⟩
  unfold monitorSetAnswer
  split
  · exact taken none
  · exact h
  · exact taken _

theorem alarmAckAnswer_settingsInRange (n : Nat) {s : State} (h : s.SettingsInRange) :
    (alarmAckAnswer n s).2.2.SettingsInRange := by
  unfold alarmAckAnswer
  split
  · exact h
  · split
    · exact h
    · exact h.onPanel (Panel.acknowledge_kept _ _).records

theorem freezeAnswer_settingsInRange (set : Bool) {s : State} (h : s.SettingsInRange) :
    (freezeAnswer set s).2.2.SettingsInRange := by
  rw [State.settingsInRange_iff] at h ⊢
  exact ⟨⟨h.1.majorLevel, h.1.record⟩, h.2⟩

theorem watchQueryAnswer_settingsInRange (n : Nat) {s : State} (h : s.SettingsInRange) :
    (watchQueryAnswer n s).2.2.SettingsInRange := by
  unfold watchQueryAnswer
  split <;> exact h

theorem laneResetAnswer_settingsInRange (l : LaneId) {s : State} (h : s.SettingsInRange) :
    (laneResetAnswer l s).2.2.SettingsInRange := by
  unfold laneResetAnswer
  split
  · exact h
  · exact h.onLanes fun v => .reset v l

theorem profileStoreAnswer_settingsInRange {s : State} (h : s.SettingsInRange) :
    (profileStoreAnswer () s).2.2.SettingsInRange := by
  unfold profileStoreAnswer
  split
  · exact h
  · exact h.congr rfl rfl rfl

theorem statusAnswer_settingsInRange (clear : Bool) {s : State} (h : s.SettingsInRange) :
    (statusAnswer clear s).2.2.SettingsInRange := by
  have start : State.SettingsInRange { s with refu := { s.refu with latch := false } } := h.congr rfl rfl rfl
  cases clear with
  | false => exact h
  | true =>
    have zeroed (v : Panel) : v.RecordsKept { v with lnk := { v.lnk with loss := 0 } } := ⟨rfl, fun _ => rfl⟩
    exact start.onPanel ((zeroed _).trans (Panel.clear_kept .noticeLoss _).records)

/-! ## Events -/

theorem State.SettingsInRange.changeRef {s : State} (h : s.SettingsInRange) (new : RefState) : (s.changeRef new).SettingsInRange := by
  have start : State.SettingsInRange { s with refu := { s.refu with state := new, latch := s.refu.latch || new == .holdover } } :=
    h.congr rfl rfl rfl
  exact start.onPanel (Panel.refChanged_records _ _ _ _)

theorem State.SettingsInRange.presenceReached {s : State} (h : s.SettingsInRange) : s.presenceReached.SettingsInRange := by
  unfold State.presenceReached
  split
  · exact h.changeRef _
  · exact h

theorem State.SettingsInRange.silenceReached {s : State} (h : s.SettingsInRange) : s.silenceReached.SettingsInRange := by
  unfold State.silenceReached
  split
  · exact h.changeRef _
  · exact h

theorem State.SettingsInRange.strobe {s : State} (h : s.SettingsInRange) (phase : Int) : (s.strobe phase).SettingsInRange := by
  have start : State.SettingsInRange { s with refu := { s.refu with strobeSeen := true } } := h.congr rfl rfl rfl
  unfold State.strobe
  dsimp only
  split
  · exact start.changeRef _
  · exact start

theorem Prog.realign_keeps (l : LaneId) (old new : Nat) (x : Prog) : x.KeepsSettings (x.realign l old new) := by
  unfold Prog.realign
  split
  · exact (x.sameSettings_of_members (List.length_map _)).keeps rfl
  · exact .refl x

theorem State.SettingsInRange.laneFadedPoint {s : State} (h : s.SettingsInRange) (l : LaneId) :
    (s.laneFadedPoint l).SettingsInRange := by
  unfold State.laneFadedPoint
  split
  · have faded := h.onLanes fun v => LaneSide.SettingsKept.fadedPoint v l
    dsimp only
    generalize s.onLanes (LaneSide.fadedPoint l) = t at faded ⊢
    rw [State.settingsInRange_iff] at faded ⊢
    obtain ⟨wch, lanes, progs⟩ := faded
    refine ⟨wch, lanes, fun p stored => ?_⟩
    have map : State.prog { t with progs := t.progs.map (Prog.realign l (s.lane l).latency (t.lane l).latency) } p
        = (t.prog p).realign l (s.lane l).latency (t.lane l).latency := Vector.getElem_map _ _
    rw [map] at stored ⊢
    obtain ⟨was, same⟩ := Prog.realign_keeps _ _ _ _ stored
    exact same.within (progs p was)
  · exact h

theorem State.SettingsInRange.laneFadeEnd {s : State} (h : s.SettingsInRange) (l : LaneId) : (s.laneFadeEnd l).SettingsInRange := by
  unfold State.laneFadeEnd
  split
  · exact h.onLanes fun v => (LaneSide.EngineOnly.modConv v l _).settingsKept
  · exact h

theorem State.SettingsInRange.settle {s : State} (h : s.SettingsInRange) : s.settle.SettingsInRange := by
  have gates : (allLanes.foldl State.settleGate s.presenceReached.silenceReached).SettingsInRange :=
    .foldl (fun l _ s hs => hs.onLanes fun v => .expireGate v l) h.presenceReached.silenceReached
  have fades := State.SettingsInRange.foldl (f := State.settleFade) (xs := allLanes)
    (fun l _ s hs => (hs.laneFadedPoint l).laneFadeEnd l) gates
  unfold State.settle
  dsimp only
  generalize allLanes.foldl State.settleFade _ = u at fades ⊢
  exact fades.onProgs (ProgSide.SettingsKept.foldl ProgSide.settleProg ProgSide.SettingsKept.settleProg allProgs)

theorem State.SettingsInRange.frameBoundary {s : State} (h : s.SettingsInRange) : s.frameBoundary.SettingsInRange := by
  have settled := h.settle
  unfold State.frameBoundary
  dsimp only
  generalize s.settle = u at settled ⊢
  have counted : State.SettingsInRange { u with refu := u.refu.boundary } := settled.congr rfl rfl rfl
  have lanes := counted.onLanes LaneSide.boundary_settingsKept
  generalize State.onLanes _ LaneSide.boundary = u at lanes ⊢
  have progs := lanes.onProgs (ProgSide.SettingsKept.boundary u.front)
  generalize u.onProgs (ProgSide.boundary u.front) = u at progs ⊢
  exact (progs.congr (t := u.drive) rfl rfl rfl).onProgs ProgSide.SettingsKept.givePages

theorem State.SettingsInRange.transferAcked {s : State} (h : s.SettingsInRange) : s.transferAcked.SettingsInRange := by
  unfold State.transferAcked
  split
  · exact h
  · dsimp only
    split
    · next o _ _ =>
      have start : State.SettingsInRange { s with pfu := { { s.pfu with mem := o.commit s.pfu.mem } with
          store := none, storeCount := o.storeCount, lastStore := .succeeded } } := h.congr rfl rfl rfl
      exact start.onPanel ((Panel.clear_kept _ _).trans (Panel.offer_kept _ _)).records
    · exact h.congr rfl rfl rfl

theorem State.SettingsInRange.ackTimeout {s : State} (h : s.SettingsInRange) (whole : Bool) : (s.ackTimeout whole).SettingsInRange := by
  unfold State.ackTimeout
  split
  · next o _ =>
    have start : State.SettingsInRange { s with pfu := { s.pfu with
        mem := if whole then o.commit s.pfu.mem else s.pfu.mem, store := none, lastStore := .failed } } := h.congr rfl rfl rfl
    exact start.onPanel ((Panel.raise_kept _ _).trans (Panel.offer_kept _ _)).records
  · split
    · exact h.congr rfl rfl rfl
    · exact h

/-- The reset values lie in range (R20, R59, R150, R166). -/
theorem State.afterReset_settingsInRange (rate : Nat) (dram mem : Memory) (pending : List Instr) :
    (State.afterReset rate dram mem pending).SettingsInRange := by
  rw [State.settingsInRange_iff]
  refine ⟨⟨by simp [State.afterReset, Wch.reset], fun i => ?_⟩, fun l => ?_, fun p stored => ?_⟩
  · simp only [State.afterReset, Wch.reset, Watch.reset, Fin.getElem_fin, Vector.getElem_replicate]
    constructor <;> decide
  · simp [State.lane, State.afterReset, Lane.reset, LaneSettings.factory]
  · simp [State.prog, State.afterReset, Prog.undefined, ProgState.stored] at stored

theorem State.SettingsInRange.restarted {s : State} (h : s.SettingsInRange) : s.restarted.SettingsInRange := by
  unfold State.restarted
  split
  · exact State.afterReset_settingsInRange _ _ _ _
  · exact h

/-! ## Every command -/

/-- A command carried out keeps the ranges if its effect does. -/
theorem State.SettingsInRange.carry {s t : State} (h : s.SettingsInRange) {effect : State → State}
    (he : s.carry effect = .next t) (hf : (effect s).SettingsInRange) : t.SettingsInRange := by
  cases hp : s.powered with
  | true =>
    rw [State.carry_on hp] at he
    cases he
    exact hf.congr rfl rfl rfl
  | false =>
    rw [State.carry_off hp] at he
    cases he
    exact h

/-- A command that works on the link controller alone. -/
theorem State.SettingsInRange.carryLink {s t : State} (h : s.SettingsInRange) {f : Lnk → Lnk}
    (he : s.carry (fun s => s.onLink f) = .next t) : t.SettingsInRange := h.carry he (h.congr rfl rfl rfl)

/-- A command that works on the lanes. -/
theorem State.SettingsInRange.carryLanes {s t : State} (h : s.SettingsInRange) {f : LaneSide → LaneSide}
    (he : s.carry (fun s => s.onLanes f) = .next t) (hf : ∀ v : LaneSide, v.SettingsKept (f v)) : t.SettingsInRange :=
  h.carry he (h.onLanes hf)

/-- A command that works on the programmes. -/
theorem State.SettingsInRange.carryProgs {s t : State} (h : s.SettingsInRange) {f : ProgSide → ProgSide}
    (he : s.carry (fun s => s.onProgs f) = .next t) (hf : ∀ v : ProgSide, v.SettingsKept (f v)) : t.SettingsInRange :=
  h.carry he (h.onProgs hf)

theorem exec_settingsInRange {c : Instr} {s t : State} (h : s.SettingsInRange) (he : exec c s = .next t) : t.SettingsInRange := by
  have power (rate : Nat) (on : Bool) (pending : List Instr) :
      State.SettingsInRange { State.afterReset rate s.dmc.dram s.pfu.mem pending with powered := on } :=
    (State.afterReset_settingsInRange rate s.dmc.dram s.pfu.mem pending).congr rfl rfl rfl
  cases c with
  | powerOn a b => cases he; exact power _ true _
  | powerLoss => cases he; exact power _ false _
  | restart => exact h.carry he (h.take fun _ => h.withBody fun _ _ => h.congr rfl rfl rfl)
  | restartTakesEffect => exact h.carry he h.restarted
  | frameReceived bytes => exact h.carryLink he
  | lengthFieldExceeds1024 bytes => exact h.carryLink he
  | interByteTimeout => exact h.carryLink he
  | characterError => exact h.carryLink he
  | txFrameEnd => exact h.carryLink he
  | unknownKindRequest => exact h.carry he (h.take fun _ => h)
  | status => exact h.carry he (h.take fun _ => h.withBody fun clear _ => statusAnswer_settingsInRange clear h)
  | credit => exact h.carry he (h.take fun _ => h.withBody fun _ _ => h.congr rfl rfl rfl)
  | laneQuery => exact h.carry he (h.take fun _ => h.withBody fun _ _ => h.onLane fun _ => h)
  | laneSet => exact h.carry he (h.take fun _ => h.withBody fun b _ => h.onLane fun l => h.laneSet l b)
  | laneReset => exact h.carry he (h.take fun _ => h.withBody fun _ _ => h.onLane fun l => laneResetAnswer_settingsInRange l h)
  | progDefine =>
    exact h.carry he (h.take fun _ => h.withBody fun b fits => h.onProg fun p =>
      progDefineAnswer_settingsInRange (bodyProgDefine_length fits) p h)
  | progUndefine =>
    exact h.carry he (h.take fun _ => h.withBody fun _ _ => h.onProg fun p => progUndefineAnswer_settingsInRange p h)
  | progQuery => exact h.carry he (h.take fun _ => h.withBody fun _ _ => h.onProg fun _ => h)
  | progReset =>
    exact h.carry he (h.take fun _ => h.withBody fun _ _ => h.onProg fun p =>
      h.modProg p rfl (Prog.restart_sameSettings _).within)
  | delaySet => exact h.carry he (h.take fun _ => h.withBody fun b _ => h.onProg fun p => delaySetAnswer_settingsInRange b p h)
  | videoLatency =>
    exact h.carry he (h.take fun _ => h.withBody fun b _ => h.onProg fun p => videoLatencyAnswer_settingsInRange b.2 p h)
  | loudSet =>
    exact h.carry he (h.take fun _ => h.withBody fun b _ => h.onProg fun p =>
      h.modProg p (Prog.setLoud_state b.2 _) (Prog.setLoud_within b.2))
  | loudPause =>
    exact h.carry he (h.take fun _ => h.withBody fun _ _ => h.onProg fun p =>
      h.modProg p rfl (Prog.pause_within true))
  | loudResume =>
    exact h.carry he (h.take fun _ => h.withBody fun _ _ => h.onProg fun p =>
      h.modProg p rfl (Prog.pause_within false))
  | loudQuery => exact h.carry he (h.take fun _ => h.withBody fun _ _ => h.onProg fun _ => h)
  | reportSet => exact h.carry he (h.take fun _ => h.withBody fun b _ => h.onProg fun p => reportSetAnswer_settingsInRange b.2 p h)
  | watchSet =>
    exact h.carry he (h.take fun _ => h.withBody fun _ fits => watchSetAnswer_settingsInRange (bodyWatchSet_thresholdFits fits) h)
  | watchQuery => exact h.carry he (h.take fun _ => h.withBody fun n _ => watchQueryAnswer_settingsInRange n h)
  | alarmList => exact h.carry he (h.take fun _ => h.withBody fun _ _ => h)
  | alarmAck => exact h.carry he (h.take fun _ => h.withBody fun n _ => alarmAckAnswer_settingsInRange n h)
  | freeze => exact h.carry he (h.take fun _ => h.withBody fun set _ => freezeAnswer_settingsInRange set h)
  | monitorSet => exact h.carry he (h.take fun _ => h.withBody fun b _ => monitorSetAnswer_settingsInRange b h)
  | profileStore => exact h.carry he (h.take fun _ => h.withBody fun _ _ => profileStoreAnswer_settingsInRange h)
  | profileInfo => exact h.carry he (h.take fun _ => h.withBody fun _ _ => h)
  | outputFrameBoundary => exact h.carry he h.frameBoundary
  | gainRampComplete p =>
    exact h.carryProgs he fun v => .endRamp v p
  | refStrobe phase => exact h.carry he (h.strobe phase)
  | presenceCountReached => exact h.carry he h.presenceReached
  | silenceCountReached => exact h.carry he h.silenceReached
  | laneActivity l => exact h.carryLanes he fun v => .activity v l
  | laneFrameClosed l f => exact h.carryLanes he fun v => .marker v l f
  | gateExpiry l => exact h.carryLanes he fun v => .expireGate v l
  | laneFadeFadedPoint l => exact h.carry he (h.laneFadedPoint l)
  | laneFadeComplete l => exact h.carry he (h.laneFadeEnd l)
  | glideComplete p => exact h.carryProgs he fun v => .glideEnd v p
  | jumpFadedPoint p => exact h.carryProgs he fun v => .jumpFaded v p
  | fillingEnd p => exact h.carryProgs he fun v => .fillEnd v p
  | fadeInComplete p => exact h.carryProgs he fun v => .fadeInEnd v p
  | releaseFadeComplete p => exact h.carryProgs he fun v => .releaseEnd v p
  | subBlockComplete p => exact h.carryProgs he fun v => .completeSubBlock v p
  | profileLoadEnd => exact h.carry he h.loadEnd
  | profileTransferAck => exact h.carry he h.transferAcked
  | profileAckTimeout whole => exact h.carry he (h.ackTimeout whole)

/-- Settles O58: each command stores its values brought into range, and what follows from them stores none. -/
theorem stepKeepsEverySettingInRange : Obligations.StepKeepsEverySettingInRange := by
  intro s t hstep h
  unfold step at hstep
  split at hstep
  · cases hstep; exact h
  · next c rest _ => exact exec_settingsInRange (s := s.withPending rest) (h.congr rfl rfl rfl) hstep

end Sys2Proof.Machine

/-! Reset, power-on and power loss (R20, R26, R44, R59, R82, R150, R173, R187, R189, R193, R194). -/
namespace Sys2Proof.Machine

/-! ## What stands in the state after a reset -/

section
variable (rate : Nat) (dram mem : Memory) (pending : List Instr)

@[simp] theorem State.afterReset_lane (l : LaneId) : (State.afterReset rate dram mem pending).lane l = Lane.reset := by
  simp [State.afterReset, State.lane]

@[simp] theorem State.afterReset_prog (p : ProgId) : (State.afterReset rate dram mem pending).prog p = Prog.undefined := by
  simp [State.afterReset, State.prog]

@[simp] theorem State.afterReset_watch (w : WatchId) : (State.afterReset rate dram mem pending).wch.watches[w] = Watch.reset := by
  simp [State.afterReset, Wch.reset]

theorem State.afterReset_dram : (State.afterReset rate dram mem pending).dmc.dram = dram := by rw [State.afterReset]

theorem State.afterReset_mem : (State.afterReset rate dram mem pending).pfu.mem = mem := by rw [State.afterReset, Pfu.reset]

theorem Lane.reset_atReset : Lane.reset.AtReset := by
  unfold Lane.AtReset
  decide

theorem Watch.reset_atReset : Watch.reset.AtReset := by
  unfold Watch.AtReset
  decide

theorem State.afterReset_tapsInUse : (State.afterReset rate dram mem pending).front.tapsInUse = 0 := by
  simp [State.afterReset, Front.tapsInUse, Vector.toList_replicate, Lane.cost, Lane.reset]

/-- After a reset every block is in its reset state, whatever the memories and the line rate. -/
theorem State.afterReset_atReset : (State.afterReset rate dram mem pending).AtReset := by
  refine ⟨rfl, ⟨rfl, rfl, rfl, rfl, rfl⟩, fun l => ?_, rfl, State.afterReset_tapsInUse _ _ _ _, fun p => ?_, ?_, rfl, fun w => ?_,
    ⟨rfl, rfl, rfl, rfl, rfl, rfl, rfl, rfl⟩, ⟨rfl, rfl, rfl, rfl, rfl, rfl, rfl, rfl, rfl⟩, ⟨rfl, rfl, rfl, rfl, rfl, rfl, rfl⟩, rfl⟩
  · rw [State.afterReset_lane]; exact Lane.reset_atReset
  · rw [State.afterReset_prog]; exact ⟨rfl, rfl, rfl⟩
  · simp only [State.afterReset, allPages]
  · rw [State.afterReset_watch]; exact Watch.reset_atReset

end

/-! ## Power -/

/-- A state at its reset values is so again when power has gone from it and come back. -/
theorem State.atReset_poweredAgain (s : State) (h : s.AtReset) :
    State.AtReset { ({ s with powered := false } : State) with powered := true } := by
  unfold State.AtReset at h ⊢
  exact ⟨rfl, h.2⟩

/-- Without power no command but power-on and power loss has an effect. -/
theorem exec_off {c : Instr} {s : State} (h : s.powered = false) (on : ∀ a b, c ≠ .powerOn a b) (loss : c ≠ .powerLoss) :
    exec c s = .next s := by
  cases c with
  | powerOn a b => exact absurd rfl (on a b)
  | powerLoss => exact absurd rfl loss
  | _ => rw [exec]; exact State.carry_off h _

/-- Settles O4: both commands answer the state after a reset, over the memories as they were. -/
theorem powerOnTakesTheResetValuesAndPowerLossKeepsTheMemories :
    Obligations.PowerOnTakesTheResetValuesAndPowerLossKeepsTheMemories := by
  refine ⟨fun strap1 strap0 s => ?_, fun s => ?_, fun c s => exec_off⟩
  · refine ⟨State.afterReset (strapRate strap1 strap0) s.dmc.dram s.pfu.mem s.pending, rfl, State.afterReset_atReset _ _ _ _, ?_,
      State.afterReset_dram _ _ _ _, State.afterReset_mem _ _ _ _, rfl⟩
    cases strap1 <;> cases strap0 <;> rfl
  · let fresh := State.afterReset s.lnk.lineRate s.dmc.dram s.pfu.mem s.pending
    exact ⟨{ fresh with powered := false }, rfl, rfl, State.afterReset_dram s.lnk.lineRate _ s.pfu.mem s.pending,
      State.afterReset_mem s.lnk.lineRate s.dmc.dram _ s.pending, rfl,
      fresh.atReset_poweredAgain (State.afterReset_atReset _ _ _ _)⟩

/-! ## The invariants at reset -/

theorem State.reset_countsBounded : State.reset.CountsBounded := by
  unfold State.CountsBounded
  decide

theorem State.reset_linkBounded : State.reset.LinkBounded := by
  unfold State.LinkBounded
  decide

theorem State.reset_alarmsConsistent : State.reset.AlarmsConsistent := by
  refine ⟨List.nodup_nil, fun w => ?_, ?_, ?_, rfl⟩
  · rw [State.reset, State.afterReset_watch]; rfl
  · simp [State.reset, State.afterReset, Wch.reset]
  · simp [State.reset, State.afterReset, Wch.reset]

theorem State.reset_pagesConserved : State.reset.PagesConserved := by
  have held : heldPages State.reset.progs = [] :=
    List.flatMap_eq_nil_iff.2 fun p _ => by
      rw [show State.reset.progs[p] = State.reset.prog p from rfl, State.reset, State.afterReset_prog]; rfl
  refine ⟨?_, fun p _ => ?_, fun p waiting => ?_, fun _ p => ?_⟩
  · rw [held, List.append_nil, State.reset, State.afterReset]
  · rw [State.reset, State.afterReset_prog]; rfl
  · rw [State.reset, State.afterReset_prog] at waiting; cases waiting
  · rw [State.reset, State.afterReset_prog]; rfl

/-- An UNDEFINED programme's gain record is as new (R128). -/
theorem State.reset_gainsLimited : State.reset.GainsLimited := by
  intro p
  rw [State.reset, State.afterReset_prog]
  refine ⟨?_, by simp [Prog.undefined, GainRec.fresh], fun _ => rfl, by simp [Prog.undefined, GainRec.fresh]⟩
  simp [GainSettings.InRange, Prog.undefined, GainRec.fresh, GainSettings.factory]

theorem State.reset_histogramsTrue : State.reset.HistogramsTrue := by
  intro p
  rw [State.reset, State.afterReset_prog]
  refine ⟨by decide, by decide, by decide, List.Pairwise.nil, by simp [Prog.undefined, MeterRec.fresh], fun b => ?_⟩
  simp [Histogram.count, Prog.undefined, MeterRec.fresh]

theorem State.reset_factorsInRange : State.reset.FactorsInRange := by
  intro p
  rw [State.reset, State.afterReset_prog]
  simp [Prog.undefined, GainRec.fresh, GainSettings.factory, Config.fadeFrames, Config.unitFactor]

/-- No programme is defined, so what is said of defined ones holds, and none waits for pages. -/
theorem State.reset_delayMemoryLaws : State.reset.DelayMemoryLaws := by
  refine ⟨fun p live => ?_, List.nodup_nil, fun p => ?_, by simp [State.reset, State.afterReset], fun p => ?_⟩
  · rw [State.reset, State.afterReset_prog] at live; cases live
  · rw [State.reset, State.afterReset_prog]; simp [State.afterReset, Prog.undefined]
  · simp [State.reset, State.afterReset, Wch.reset, Wch.isRaised]

theorem State.reset_requestsBounded : State.reset.RequestsBounded := by
  intro p
  rw [State.reset, State.afterReset_prog]
  simp [Prog.undefined, DelayRec.fresh]

/-- Settles O3: the values by the definition of the reset state, the invariants since nothing is defined, queued or raised. -/
theorem resetStateHasItsValuesAndInvariants : Obligations.ResetStateHasItsValuesAndInvariants := by
  have undefined (p : ProgId) : (State.reset.prog p).state.live ≠ true := by
    rw [State.reset, State.afterReset_prog]; decide
  refine ⟨State.afterReset_atReset _ _ _ _, ⟨Memory.wf_nil, Memory.wf_nil⟩, State.reset_countsBounded, State.reset_linkBounded, State.reset_alarmsConsistent, ?_,
    ⟨rfl, fun l => ?_⟩, State.reset_pagesConserved, fun p live => absurd live (undefined p), State.reset_requestsBounded,
    State.reset_gainsLimited, State.reset_histogramsTrue, State.afterReset_settingsInRange _ _ _ _, State.reset_delayMemoryLaws,
    fun p live => absurd live (undefined p), State.reset_factorsInRange⟩
  · unfold State.BudgetKept
    rw [State.reset, State.afterReset_tapsInUse]
    decide
  · rw [State.reset, State.afterReset_lane]; decide

end Sys2Proof.Machine

/-! STATUS and the queries: the figures the model computes are those the manual names (R19, R24, R43, R58, R81, R90, R103, R127, R149,
R171, R172, R179, R194). -/
namespace Sys2Proof.Machine

/-! ## Numbers that name an object (1.5) -/

theorem laneOf_val (l : LaneId) : laneOf l.val = some l := by simp [laneOf]

theorem laneOf_above {n : Nat} (h : 7 < n) : laneOf n = none := dif_neg (by omega)

theorem laneOf_byte (l : LaneId) : laneOf (BitVec.ofNat 8 l.val).toNat = some l := by
  rw [BitVec.toNat_ofNat, Nat.mod_eq_of_lt (l.isLt.trans (by decide)), laneOf_val]

theorem progOf_val (p : ProgId) : progOf p.val = some p := by simp [progOf]

theorem progOf_byte (p : ProgId) : progOf (BitVec.ofNat 8 p.val).toNat = some p := by
  rw [BitVec.toNat_ofNat, Nat.mod_eq_of_lt (p.isLt.trans (by decide)), progOf_val]

theorem watchOf_val (w : WatchId) : watchOf w.val = some w := by simp [watchOf]

theorem watchOf_above {n : Nat} (h : 31 < n) : watchOf n = none := dif_neg (by omega)

theorem watchOf_byte (w : WatchId) : watchOf (BitVec.ofNat 8 w.val).toNat = some w := by
  rw [BitVec.toNat_ofNat, Nat.mod_eq_of_lt (w.isLt.trans (by decide)), watchOf_val]

theorem bodyNumber_byte (n : Byte) : bodyNumber [n] = some n.toNat := rfl

/-! ## Channels and taps (R9, R32, R35) -/

/-- The ones of a slot mask, counted slot by slot. -/
theorem onesBelow_eq_countP (a : BitVec 8) : onesBelow a.toNat 8 = (List.finRange 8).countP fun k => a.getLsbD k.val := by
  have slots : List.finRange 8 = [0, 1, 2, 3, 4, 5, 6, 7] := by decide
  simp only [slots, onesBelow, BitVec.testBit_toNat, List.countP_cons, List.countP_nil]
  simp
  ac_rfl

theorem Lane.channels_eq (x : Lane) : x.channels = (List.finRange 8).countP fun k => x.active.getLsbD k.val :=
  onesBelow_eq_countP x.active

theorem Front.tapsInUse_eq (f : Front) : f.tapsInUse = ((List.finRange 8).map fun l => (f.lanes[l]).cost).sum := by
  have each : f.lanes.toList = (List.finRange 8).map fun l => f.lanes[l] := by
    apply List.ext_getElem <;> simp
  rw [Front.tapsInUse, each, List.map_map]
  rfl

theorem Lane.cost_eq (x : Lane) : x.cost = if x.state = .running then
    (match x.conv.granted with | .full => 64 | .short => 32 | .none => 0 | .bypass => 0)
      * (List.finRange 8).countP fun k => x.active.getLsbD k.val
    else 0 := by
  rw [Lane.cost, Lane.channels_eq]
  cases x.conv.granted <;> rfl

/-! ## Queries of a lane, a programme, a watch -/

/-- The restart mark is clear when a request can be taken. -/
theorem State.Takes.restart {s : State} {kind tag : Byte} {body : List Byte} (h : s.Takes kind tag body) :
    s.lnk.restart = .none := State.restart_of_nextRequest h.2.2

/-- A request whose body its block reads, answered in a state that leaves RESTART alone. -/
theorem State.carry_body {s : State} {kind tag : Byte} {body : List Byte} (h : s.Takes kind tag body) {ofKind : Byte → Bool}
    (hk : ofKind kind = true) {α : Type} {read : List Byte → Option α} {a : α} (hr : read body = some a)
    {act : α → State → Answer} {st : Status} {b : ReplyBody} {t : State} (ha : act a s = (st, b, t)) (ht : t.lnk.restart = .none) :
    s.carry (State.takeRequest ofKind false (withBody read act)) = .next (t.reply kind tag st b) :=
  State.carry_take_reply h hk false (by rw [withBody, hr]; exact ha) ht

theorem onLane_some {n : Nat} {l : LaneId} (h : laneOf n = some l) (act : LaneId → State → Answer) (s : State) :
    onLane n act s = act l s := by rw [onLane, h]

theorem onLane_none {n : Nat} (h : laneOf n = none) (act : LaneId → State → Answer) (s : State) :
    onLane n act s = (.noObject, .empty, s) := by rw [onLane, h]

theorem onProg_admitted {refuses : ProgState → Option Status} {n : Nat} {p : ProgId} {s : State} (h : progOf n = some p)
    (hr : refuses (s.prog p).state = none) (act : ProgId → State → Answer) : onProg refuses n act s = act p s := by
  rw [onProg, h]
  simp only [hr]

theorem ProgState.refusesQuery_eq_none {st : ProgState} (h : st ≠ .undefined) : st.refusesQuery = none := by
  cases st with
  | undefined => exact absurd rfl h
  | waiting => rfl
  | running => rfl
  | releasing => rfl

theorem laneReply_eq (s : State) (l : LaneId) : laneReply l s.front =
    (let x := s.lane l
     { state := x.state, settled := x.settled, active := x.active, grade := x.grade, deadRun := x.deadRun,
       senseGates := x.senseGates, mode := x.gauge.mode, gateOpen := x.gauge.mode != .closed, count := x.gauge.count,
       history := x.gauge.history, framing := x.lastFraming, invalid := x.lastInvalid, activity := x.lastActivity,
       settings := x.settings, granted := x.conv.granted, effective := x.conv.effective, forced := x.conv.forced,
       tracking := x.conv.tracking, acquisition := x.conv.acquisition, ratio := x.conv.ratio,
       settling := if x.state = .waitingBudget then x.conv.settling else none, fill := x.conv.fifo.length, latency := x.latency,
       slipCount := x.conv.slipCount, slipsInGate := x.conv.slipsInGate, gatesSinceSlip := x.conv.gatesSinceSlip,
       fade := x.conv.fade, fadePos := if x.conv.fade = .none then none else some x.conv.fadePos,
       place := (s.front.admission.findIdx? (· == l)).map (· + 1) }) := by
  have fadePos : shown ((s.front.lanes[l]).conv.fade != .none) (s.front.lanes[l]).conv.fadePos
      = if (s.front.lanes[l]).conv.fade = .none then none else some (s.front.lanes[l]).conv.fadePos := by
    cases (s.front.lanes[l]).conv.fade <;> rfl
  rw [laneReply, fadePos]
  rfl

theorem Prog.pagesPerChannel_eq (x : Prog) :
    x.pagesPerChannel = match x.members.head?.bind (·.ring) with | none => 0 | some ring => ring.rest.length + 1 := by
  unfold Prog.pagesPerChannel
  cases x.members.head?.bind (·.ring) <;> rfl

theorem ProgState.live_eq (st : ProgState) : st.live = (st == .running || st == .releasing) := by cases st <;> rfl

theorem progReply_eq (s : State) (p : ProgId) : progReply p s =
    (let x := s.prog p
     let r := x.delay
     let live : Bool := x.state == .running || x.state == .releasing
     let pages := match x.members.head?.bind (·.ring) with | none => 0 | some ring => ring.rest.length + 1
     { state := x.state, inputStamp := x.inputStamp,
       members := x.members.map fun m =>
         { spec := m.spec, weight := m.spec.effectiveWeight, laneRunning := (s.lane m.spec.lane).state == .running,
           slotActive := (s.lane m.spec.lane).active.getLsbD m.spec.slot.val, tap := shown live m.tap,
           latency := (s.lane m.spec.lane).latency }
       outputStamp := shown live ((64 * (x.inputStamp : Int) - r.current) / 64), video := r.video, trim := r.trim,
       requested := r.requested, pending := r.pending, method := r.method, glideLimit := r.glideLimit,
       funded := shown live r.funded, current := shown live r.current, change := r.change,
       kind := shown (r.change != .steady) r.kind,
       fadePos := shown (r.change == .fadeOut || r.change == .fadeIn) r.fadePos, fill := shown (r.change == .filling) r.fill,
       ahead := r.ahead, lipSync := shown live ((r.current / 64 : Nat) - ((r.pending.getD r.requested : Nat) : Int)),
       releasePos := shown (x.state == .releasing) r.releasePos, entryLevel := shown (x.state == .releasing) r.entryLevel,
       pagesPerChannel := pages, pagesHeld := x.members.length * pages, holding := shown live (max (r.current / 64) r.funded),
       place := (s.dmc.wait.findIdx? (· == p)).map (· + 1),
       outstanding := if p ∈ s.dmc.wait then x.members.length * (r.requested / 1024 + 1) - x.members.length * pages else 0,
       deficit := if p ∈ s.dmc.wait then r.requested - r.funded else 0 }) := by
  simp only [progReply, Prog.pagesHeld, Prog.pagesPerChannel_eq, ProgState.live_eq, decide_eq_true_eq]
  rfl

/-! ## The link's and the watch unit's counts -/

theorem statusReply_eq (s : State) : statusReply s =
    (let taps := ((List.finRange 8).map fun l =>
       if (s.lane l).state = .running then
         (match (s.lane l).conv.granted with | .full => 64 | .short => 32 | .none => 0 | .bypass => 0)
           * (List.finRange 8).countP fun k => (s.lane l).active.getLsbD k.val
       else 0).sum
     { lineRate := s.lnk.lineRate, credit := s.lnk.credit, loss := s.lnk.loss, frameErrors := s.lnk.frameErrors,
       noticeCount := s.lnk.notices.length, requestCount := s.lnk.requests.length, refState := s.refu.state, latch := s.refu.latch,
       clock := s.refu.clock, tapsInUse := taps, freeTaps := 2048 - taps, admission := s.front.admission,
       freePages := s.dmc.free.length, headPage := s.dmc.free.head?, wait := s.dmc.wait, majorLevel := s.wch.majorLevel,
       freeze := s.wch.freeze, major := s.wch.major, minor := s.wch.minor, alarms := s.wch.table.length,
       unacked := s.wch.table.countP (fun e => !e.acked), highest := (s.wch.table.map (·.severity)).max?,
       selected := s.wch.selected, follow := s.wch.follow, monitored := s.wch.monitored, load := s.pfu.outcome,
       storing := s.pfu.store.isSome }) := by
  have taps := s.front.tapsInUse_eq
  simp only [Lane.cost_eq] at taps
  rw [statusReply, Front.freeTaps, taps, List.countP_eq_length_filter]
  rfl

/-- STATUS answered, with what its option clears. -/
theorem exec_status {s : State} {tag option : Byte} {clear : Bool} (hp : s.powered = true)
    (hn : s.nextRequest = some { kind := 0x01, tag := tag, body := [option], reply := none }) (hb : bodyFlag [option] = some clear) :
    exec .status s = .next ((if clear then s.statusClear else s).reply 0x01 tag .ok (.status (statusReply s))) := by
  have restart : (if clear then s.statusClear else s).lnk.restart = .none := by
    cases clear with
    | false => exact State.restart_of_nextRequest hn
    | true => exact (Panel.clear_kept .noticeLoss _).restart.trans (State.restart_of_nextRequest hn)
  rw [exec, execStatus, State.carry_take_in_load hp hn rfl, withBody, hb]
  simp only [statusAnswer]
  rw [answerRequest_transmit _ _ _ _ _ restart]

/-- Settles O14: each query answers its figures from the state it leaves as it is; STATUS with the clear option clears after. -/
theorem statusAndQueriesReportTheFigures : Obligations.StatusAndQueriesReportTheFigures := by
  refine ⟨fun s tag option hp hn => ⟨?_, ?_⟩, fun s tag l h => ?_, fun s tag n above h => ?_, fun s tag p h defined => ?_,
    fun s tag p h defined => ?_, fun s tag w h => ?_, fun s tag n above h => ?_, fun s tag hp hn => ?_⟩
  · rintro rfl
    rw [exec_status hp hn rfl, statusReply_eq]
    rfl
  · rintro rfl
    rw [exec_status hp hn rfl, statusReply_eq]
    rfl
  · rw [exec, execLaneQuery, State.carry_body h rfl (bodyNumber_byte _) (onLane_some (laneOf_byte l) _ s) h.restart, laneReply_eq]
  · exact State.carry_body h rfl (bodyNumber_byte n) (onLane_none (laneOf_above above) _ s) h.restart
  · rw [exec, execProgQuery, State.carry_body h rfl (bodyNumber_byte _)
      (onProg_admitted (progOf_byte p) (ProgState.refusesQuery_eq_none defined) _) h.restart, progReply_eq]
    rfl
  · rw [exec, execLoudQuery, State.carry_body h rfl (bodyNumber_byte _)
      (onProg_admitted (progOf_byte p) (ProgState.refusesQuery_eq_none defined) _) h.restart, loudReply, MeterRec.total,
      countTotal_eq_sum]
    rfl
  · exact State.carry_body h rfl (bodyNumber_byte _) (by rw [watchQueryAnswer, watchOf_byte]; rfl) h.restart
  · exact State.carry_body h rfl (bodyNumber_byte n) (by rw [watchQueryAnswer, watchOf_above above]) h.restart
  · rw [exec, execProfileInfo, State.carry_take_in_load hp hn rfl]
    exact congrArg Host.Outcome.next (answerRequest_transmit _ _ _ _ _ (State.restart_of_nextRequest hn))

end Sys2Proof.Machine

/-! The conversion engine's operations: what an ask, a release and a change of grant do to each lane (R35 to R40, R42). -/
namespace Sys2Proof.Machine

/-! ## One lane's record replaced -/

/-- This view with one lane's record replaced. -/
def LaneSide.put (l : LaneId) (x : Lane) (v : LaneSide) : LaneSide := v.modLane l fun _ => x

theorem LaneSide.modLane_eq_put (v : LaneSide) (l : LaneId) (f : Lane → Lane) : v.modLane l f = v.put l (f (v.lane l)) := rfl

theorem LaneSide.modConv_eq_put (v : LaneSide) (l : LaneId) (f : Converter → Converter) :
    v.modConv l f = v.put l { v.lane l with conv := f (v.lane l).conv } := rfl

@[simp] theorem LaneSide.put_lane_self (v : LaneSide) (l : LaneId) (x : Lane) : (v.put l x).lane l = x := v.modLane_lane_self l _

theorem LaneSide.put_lane_other (v : LaneSide) {l m : LaneId} (x : Lane) (h : m ≠ l) : (v.put l x).lane m = v.lane m :=
  v.modLane_lane_other _ h

@[simp] theorem LaneSide.put_panel (v : LaneSide) (l : LaneId) (x : Lane) : (v.put l x).panel = v.panel := rfl

@[simp] theorem LaneSide.put_admission (v : LaneSide) (l : LaneId) (x : Lane) : (v.put l x).front.admission = v.front.admission := rfl

@[simp] theorem LaneSide.put_put (v : LaneSide) (l : LaneId) (x y : Lane) : (v.put l x).put l y = v.put l y := by
  simp [LaneSide.put, LaneSide.modLane]

theorem LaneSide.put_onPanel (v : LaneSide) (l : LaneId) (x : Lane) (f : Panel → Panel) :
    (v.onPanel f).put l x = (v.put l x).onPanel f := rfl

theorem LaneSide.onPanel_onPanel (v : LaneSide) (f g : Panel → Panel) : (v.onPanel f).onPanel g = v.onPanel fun p => g (f p) := rfl

/-- Two views with the same lanes, queue and panel are one. -/
theorem LaneSide.eq_of_lanes {v w : LaneSide} (lane : ∀ m, v.lane m = w.lane m) (admission : v.front.admission = w.front.admission)
    (panel : v.panel = w.panel) : v = w := by
  have lanes : v.front.lanes = w.front.lanes := Vector.ext fun i hi => lane ⟨i, hi⟩
  obtain ⟨⟨_, _⟩, _⟩ := v
  obtain ⟨⟨_, _⟩, _⟩ := w
  cases lanes; cases admission; cases panel
  rfl

theorem LaneSide.put_self (v : LaneSide) (l : LaneId) : v.put l (v.lane l) = v := by
  refine LaneSide.eq_of_lanes (fun m => ?_) rfl rfl
  by_cases e : m = l
  · subst e; exact v.put_lane_self m _
  · exact v.put_lane_other _ e

/-- A change of one lane's record, with work on the panel, as the state shows it. -/
theorem State.onLanes_put {s : State} {f : LaneSide → LaneSide} {l : LaneId} {x : Lane} {g : Panel → Panel}
    (h : f s.laneSide = (s.laneSide.put l x).onPanel g) :
    s.onLanes f = { s.setLane l x with wch := (g s.panel).wch, lnk := (g s.panel).lnk } := by
  show { s with front := (f s.laneSide).front, wch := (f s.laneSide).panel.wch, lnk := (f s.laneSide).panel.lnk } = _
  rw [h]
  rfl

theorem mem_allLanes (l : LaneId) : l ∈ allLanes := by revert l; decide

/-! ## The mode a lane is granted (R36, R37) -/

/-- FULL where it is preferred and 64 taps a channel are free, else SHORT. -/
def grantedMode (pref : Preference) (channels free : Nat) : ConvMode := if pref = .full ∧ 64 * channels ≤ free then .full else .short

theorem modeFor_eq_some {pref : Preference} {channels free : Nat} (h : 32 * channels ≤ free) :
    modeFor pref channels free = some (grantedMode pref channels free) := by
  unfold modeFor grantedMode
  simp only [ConvMode.cost, h, if_true]
  split <;> rfl

theorem modeFor_eq_none {pref : Preference} {channels free : Nat} (h : ¬32 * channels ≤ free) :
    modeFor pref channels free = none ∧ grantedMode pref channels free = .short := by
  have full : ¬64 * channels ≤ free := by omega
  simp [modeFor, grantedMode, ConvMode.cost, h, full]

/-! ## Grants changed and nothing else -/

/-- The second record differs from the first only in its granted mode and its lane fade. -/
def Lane.Regranted (x y : Lane) : Prop :=
  y = { x with conv := { x.conv with granted := y.conv.granted, fade := y.conv.fade, fadePos := y.conv.fadePos } }

theorem Lane.Regranted.refl (x : Lane) : x.Regranted x := rfl

theorem Lane.Regranted.trans {x y z : Lane} (a : x.Regranted y) (b : y.Regranted z) : x.Regranted z := by
  unfold Lane.Regranted at *
  rw [b, a]

/-- This lane with its granted mode changed and a lane fade asked for (R40). -/
def Lane.regranted (m : ConvMode) (x : Lane) : Lane := { x with conv := ({ x.conv with granted := m } : Converter).askFade }

theorem Converter.askFade_eq (c : Converter) : c.askFade = { c with
    fade := if c.fade = .none then .fadeOut else c.fade, fadePos := if c.fade = .none then 480 else c.fadePos } := by
  unfold Converter.askFade
  split <;> rfl

theorem Lane.regranted_eq (m : ConvMode) (x : Lane) : x.regranted m = { x with conv := { x.conv with
    granted := m, fade := if x.conv.fade = .none then .fadeOut else x.conv.fade,
    fadePos := if x.conv.fade = .none then 480 else x.conv.fadePos } } := by
  rw [Lane.regranted, Converter.askFade_eq]

theorem Lane.regranted_regranted (m : ConvMode) (x : Lane) : x.Regranted (x.regranted m) := by
  rw [Lane.regranted_eq]
  rfl

theorem LaneSide.regrant_eq_put (v : LaneSide) (l : LaneId) (m : ConvMode) : v.regrant l m = v.put l ((v.lane l).regranted m) := rfl

/-- Every lane differs only in its granted mode and its lane fade, and nothing else of the view differs. -/
structure LaneSide.Regranted (v w : LaneSide) : Prop where
  lane : ∀ m, (v.lane m).Regranted (w.lane m)
  admission : w.front.admission = v.front.admission
  panel : w.panel = v.panel

theorem LaneSide.Regranted.refl (v : LaneSide) : v.Regranted v := ⟨fun _ => .refl _, rfl, rfl⟩

theorem LaneSide.Regranted.trans {u v w : LaneSide} (a : u.Regranted v) (b : v.Regranted w) : u.Regranted w :=
  ⟨fun m => (a.lane m).trans (b.lane m), b.admission.trans a.admission, b.panel.trans a.panel⟩

theorem LaneSide.Regranted.foldl {α : Type} (f : LaneSide → α → LaneSide) (h : ∀ (v : LaneSide) (a : α), v.Regranted (f v a))
    (xs : List α) (v : LaneSide) : v.Regranted (xs.foldl f v) := by
  induction xs generalizing v with
  | nil => exact refl v
  | cons x xs ih => exact (h v x).trans (ih _)

theorem LaneSide.Regranted.regrant (v : LaneSide) (l : LaneId) (m : ConvMode) : v.Regranted (v.regrant l m) := by
  rw [LaneSide.regrant_eq_put]
  refine ⟨fun k => ?_, rfl, rfl⟩
  by_cases e : k = l
  · subst e; rw [LaneSide.put_lane_self]; exact Lane.regranted_regranted _ _
  · rw [LaneSide.put_lane_other _ _ e]; exact .refl _

/-! ## Downgrades (R36, step 3) -/

/-- A lane as a downgrade leaves it: as it was, or changed from FULL to SHORT. -/
def Lane.Downgraded (x y : Lane) : Prop := y = x ∨ x.state = .running ∧ x.conv.granted = .full ∧ y = x.regranted .short

theorem Lane.regranted_granted (m : ConvMode) (x : Lane) : (x.regranted m).conv.granted = m := by rw [Lane.regranted_eq]

theorem Lane.Downgraded.trans {x y z : Lane} (a : x.Downgraded y) (b : y.Downgraded z) : x.Downgraded z := by
  rcases a with rfl | ⟨running, full, rfl⟩
  · exact b
  · rcases b with rfl | ⟨-, again, -⟩
    · exact .inr ⟨running, full, rfl⟩
    · rw [Lane.regranted_granted] at again; cases again

theorem Lane.Downgraded.regranted {x y : Lane} (h : x.Downgraded y) : x.Regranted y := by
  rcases h with rfl | ⟨-, -, rfl⟩
  · exact .refl _
  · exact Lane.regranted_regranted _ _

/-- A lane that does not run on FULL is not downgraded. -/
theorem Lane.Downgraded.eq {x y : Lane} (h : x.Downgraded y) (hx : ¬(x.state = .running ∧ x.conv.granted = .full)) : y = x := by
  rcases h with rfl | ⟨running, full, -⟩
  · rfl
  · exact absurd ⟨running, full⟩ hx

theorem LaneSide.downgrade_lane (need : Nat) (ds : List LaneId) (v : LaneSide) (m : LaneId) :
    (v.lane m).Downgraded ((v.downgrade need ds).lane m) := by
  induction ds generalizing v with
  | nil => exact .inl rfl
  | cons d ds ih =>
    unfold LaneSide.downgrade
    split
    · exact .inl rfl
    · split
      · next full =>
        refine .trans ?_ (ih _)
        rw [LaneSide.regrant_eq_put]
        by_cases e : m = d
        · subst e; rw [LaneSide.put_lane_self]; exact .inr ⟨full.1, full.2, rfl⟩
        · rw [LaneSide.put_lane_other _ _ e]; exact .inl rfl
      · exact ih v

theorem LaneSide.downgrade_rest (need : Nat) (ds : List LaneId) (v : LaneSide) :
    (v.downgrade need ds).front.admission = v.front.admission ∧ (v.downgrade need ds).panel = v.panel := by
  induction ds generalizing v with
  | nil => exact ⟨rfl, rfl⟩
  | cons d ds ih =>
    unfold LaneSide.downgrade
    split
    · exact ⟨rfl, rfl⟩
    · split
      · exact ih (v.regrant d .short)
      · exact ih v

/-- Downgrading ends with room for the asker, or with no lane of the list on FULL. -/
theorem LaneSide.downgrade_room (need : Nat) (ds : List LaneId) (v : LaneSide) :
    need ≤ (v.downgrade need ds).front.freeTaps
      ∨ ∀ d ∈ ds, ¬(((v.downgrade need ds).lane d).state = .running ∧ ((v.downgrade need ds).lane d).conv.granted = .full) := by
  induction ds generalizing v with
  | nil => exact .inr (by simp)
  | cons d ds ih =>
    have short (u : LaneSide) (h : ¬((u.lane d).state = .running ∧ (u.lane d).conv.granted = .full)) :
        ¬(((u.downgrade need ds).lane d).state = .running ∧ ((u.downgrade need ds).lane d).conv.granted = .full) := by
      rwa [(LaneSide.downgrade_lane need ds u d).eq h]
    unfold LaneSide.downgrade
    split
    · exact .inl ‹_›
    · split
      · refine (ih (v.regrant d .short)).imp_right fun rest => List.forall_mem_cons.2 ⟨short _ ?_, rest⟩
        rw [LaneSide.regrant_eq_put, LaneSide.put_lane_self, Lane.regranted_granted]
        simp
      · next notFull => exact (ih v).imp_right fun rest => List.forall_mem_cons.2 ⟨short _ notFull, rest⟩

/-! ## There is always room for SHORT (R35, R36) -/

theorem Lane.channels_le (x : Lane) : x.channels ≤ 8 := by
  rw [Lane.channels_eq]
  exact List.countP_le_length.trans (by simp)

/-- A lane that does not run on FULL costs at most 32 taps for each of eight channels. -/
theorem Lane.cost_le {x : Lane} (h : ¬(x.state = .running ∧ x.conv.granted = .full)) : x.cost ≤ 256 := by
  have channels := x.channels_le
  unfold Lane.cost
  split
  · next running =>
    have cost : x.conv.granted.cost ≤ 32 := by
      cases hg : x.conv.granted with
      | full => exact absurd ⟨running, hg⟩ h
      | none => decide
      | short => decide
      | bypass => decide
    exact Nat.mul_le_mul cost channels
  · omega

/-- With no lane on FULL and the asker at no cost, eight channels of SHORT are free. -/
theorem Front.freeTaps_ge {f : Front} {l : LaneId} (hl : (f.lanes[l]).cost = 0)
    (h : ∀ m : LaneId, ¬((f.lanes[m]).state = .running ∧ (f.lanes[m]).conv.granted = .full)) : 256 ≤ f.freeTaps := by
  have others : ∀ m ∈ Finset.univ.erase l, (f.lanes[m]).cost ≤ 256 := fun m _ => Lane.cost_le (h m)
  have total : f.tapsInUse ≤ 7 * 256 := by
    rw [Front.tapsInUse_eq, ← List.ofFn_eq_map, List.sum_ofFn, ← Finset.add_sum_erase _ _ (Finset.mem_univ l), hl, zero_add]
    exact (Finset.sum_le_card_nsmul _ _ _ others).trans (by simp)
  unfold Front.freeTaps Config.tapBudget
  omega

/-! ## An ask (R36) -/

/-- An ask of a lane that has no taps yet is always granted: at once, or after other lanes have gone from FULL to SHORT. -/
theorem LaneSide.ask_eq {v : LaneSide} {l : LaneId} (hl : (v.lane l).cost = 0) : ∃ u : LaneSide,
    v.ask l = u.grant l (grantedMode (v.lane l).settings.preference (v.lane l).channels v.front.freeTaps)
      ∧ (∀ m, (v.lane m).Downgraded (u.lane m)) ∧ u.lane l = v.lane l ∧ u.front.admission = v.front.admission ∧ u.panel = v.panel
      ∧ (32 * (v.lane l).channels ≤ v.front.freeTaps → u = v) := by
  unfold LaneSide.ask
  dsimp only
  by_cases room : 32 * (v.lane l).channels ≤ v.front.freeTaps
  · exact ⟨v, by rw [modeFor_eq_some room], fun _ => .inl rfl, rfl, rfl, rfl, fun _ => rfl⟩
  · obtain ⟨none, short⟩ := modeFor_eq_none (pref := (v.lane l).settings.preference) room
    have notFull : ¬((v.lane l).state = .running ∧ (v.lane l).conv.granted = .full) := by
      rintro ⟨running, full⟩
      rw [Lane.cost, if_pos running, full] at hl
      have : (v.lane l).channels = 0 := by simpa [ConvMode.cost] using hl
      omega
    have others := v.downgrade_lane (ConvMode.short.cost * (v.lane l).channels) allLanes.reverse
    have rest := v.downgrade_rest (ConvMode.short.cost * (v.lane l).channels) allLanes.reverse
    have kept := (others l).eq notFull
    have fits : ConvMode.short.cost * (v.lane l).channels
        ≤ (v.downgrade (ConvMode.short.cost * (v.lane l).channels) allLanes.reverse).front.freeTaps := by
      rcases v.downgrade_room (ConvMode.short.cost * (v.lane l).channels) allLanes.reverse with fits | noFull
      · exact fits
      · have room := Front.freeTaps_ge (f := (v.downgrade _ _).front) (l := l) (show (LaneSide.lane _ l).cost = 0 by rw [kept]; exact hl)
          fun m => noFull m (List.mem_reverse.2 (mem_allLanes m))
        exact (Nat.mul_le_mul_left 32 (v.lane l).channels_le).trans room
    rw [none, short]
    dsimp only
    rw [if_pos fits]
    exact ⟨_, rfl, others, kept, rest.1, rest.2, fun h => absurd h room⟩

/-- An ask of a running lane that has no taps: its grant changes, and other lanes may go from FULL to SHORT. -/
theorem LaneSide.ask_running {v : LaneSide} {l : LaneId} (running : (v.lane l).state = .running) (hl : (v.lane l).cost = 0) :
    ((v.ask l).lane l = (v.lane l).regranted (grantedMode (v.lane l).settings.preference (v.lane l).channels v.front.freeTaps))
      ∧ (∀ m, m ≠ l → (v.lane m).Downgraded ((v.ask l).lane m))
      ∧ (32 * (v.lane l).channels ≤ v.front.freeTaps → ∀ m, m ≠ l → (v.ask l).lane m = v.lane m)
      ∧ v.Regranted (v.ask l) := by
  obtain ⟨u, ask, others, kept, admission, panel, room⟩ := LaneSide.ask_eq hl
  have grant (m : ConvMode) : u.grant l m = u.regrant l m := by
    rw [LaneSide.grant, kept, if_neg (by rw [running]; decide)]
  rw [ask, grant, LaneSide.regrant_eq_put, kept]
  refine ⟨LaneSide.put_lane_self _ _ _, fun m e => ?_, fun fits m e => ?_, ?_⟩
  · rw [LaneSide.put_lane_other _ _ e]; exact others m
  · rw [LaneSide.put_lane_other _ _ e, room fits]
  · have down : v.Regranted u := ⟨fun m => (others m).regranted, admission, panel⟩
    have up := LaneSide.Regranted.regrant u l (grantedMode (v.lane l).settings.preference (v.lane l).channels v.front.freeTaps)
    rw [LaneSide.regrant_eq_put, kept] at up
    exact down.trans up

/-! ## Upgrades and the release of budget (R37) -/

theorem LaneSide.Regranted.upgrade (v : LaneSide) (l : LaneId) : v.Regranted (v.upgrade l) := by
  unfold LaneSide.upgrade
  dsimp only
  split
  · exact .regrant v l _
  · exact .refl v

theorem LaneSide.Regranted.upgradePass (v : LaneSide) : v.Regranted v.upgradePass := foldl _ upgrade _ v

/-- With nothing waiting a release of budget is the upgrade pass. -/
theorem LaneSide.release_eq {v : LaneSide} (h : v.front.admission = []) : v.release = v.upgradePass := by
  rw [LaneSide.release, h]
  rfl

/-- A lane that an upgrade pass would not take. -/
def Lane.NoUpgrade (x : Lane) : Prop := ¬(x.state = .running ∧ x.conv.granted = .short ∧ x.settings.preference = .full)

theorem LaneSide.upgrade_eq_self {v : LaneSide} {l : LaneId} (h : (v.lane l).NoUpgrade) : v.upgrade l = v := by
  unfold LaneSide.upgrade
  dsimp only
  rw [if_neg]
  exact fun ⟨running, short, full, _⟩ => h ⟨running, short, full⟩

theorem LaneSide.upgrade_lane_other (v : LaneSide) {l m : LaneId} (h : m ≠ l) : (v.upgrade l).lane m = v.lane m := by
  unfold LaneSide.upgrade
  dsimp only
  split
  · exact v.put_lane_other _ h
  · rfl

/-- An upgrade leaves a lane that no upgrade takes. -/
theorem LaneSide.upgrade_noUpgrade (v : LaneSide) {l m : LaneId} (h : (v.lane m).NoUpgrade) : (v.upgrade l).lane m = v.lane m := by
  by_cases e : m = l
  · subst e; rw [LaneSide.upgrade_eq_self h]
  · exact v.upgrade_lane_other e

theorem LaneSide.upgrades_noUpgrade (ls : List LaneId) (v : LaneSide) {m : LaneId} (h : (v.lane m).NoUpgrade) :
    (ls.foldl LaneSide.upgrade v).lane m = v.lane m := by
  induction ls generalizing v with
  | nil => rfl
  | cons l ls ih =>
    have kept := v.upgrade_noUpgrade (l := l) h
    rw [List.foldl_cons, ih _ (by rwa [kept]), kept]

theorem LaneSide.upgradePass_noUpgrade (v : LaneSide) {m : LaneId} (h : (v.lane m).NoUpgrade) : v.upgradePass.lane m = v.lane m :=
  LaneSide.upgrades_noUpgrade allLanes v h

/-- An upgrade pass that only one lane can be taken by is that lane's upgrade. -/
theorem LaneSide.upgradePass_only {v : LaneSide} {l : LaneId} (h : ∀ m, m ≠ l → (v.lane m).NoUpgrade) : v.upgradePass = v.upgrade l := by
  have once (ls : List LaneId) (hls : ls.Nodup) (u : LaneSide) (hu : ∀ m, m ≠ l → (u.lane m).NoUpgrade) :
      ls.foldl LaneSide.upgrade u = if l ∈ ls then u.upgrade l else u := by
    induction ls generalizing u with
    | nil => simp
    | cons k ls ih =>
      obtain ⟨fresh, nodup⟩ := List.nodup_cons.1 hls
      rw [List.foldl_cons]
      by_cases e : k = l
      · subst e
        rw [ih nodup _ fun m e => by rw [u.upgrade_lane_other e]; exact hu m e, if_neg fresh, if_pos List.mem_cons_self]
      · rw [LaneSide.upgrade_eq_self (hu k e), ih nodup u hu]
        simp [Ne.symm e]
  exact (once allLanes (by decide) v h).trans (if_pos (mem_allLanes l))

/-- What a release of budget leaves of a lane that does not run and does not wait, of the queue and of the alarms. -/
structure LaneSide.Released (l : LaneId) (v w : LaneSide) : Prop where
  lane : w.lane l = v.lane l
  admission : w.front.admission.Sublist v.front.admission
  raised : ∀ a, a ≠ .noticeLoss → (∀ q ∈ v.front.admission, a ≠ .laneLost q) → w.panel.wch.isRaised a = v.panel.wch.isRaised a

theorem LaneSide.enterRunning_lane_other (v : LaneSide) {l m : LaneId} (mode : ConvMode) (h : m ≠ l) :
    (v.enterRunning l mode).lane m = v.lane m := by
  rw [LaneSide.enterRunning, LaneSide.onPanel_lane, LaneSide.noticeLane, LaneSide.onPanel_lane, LaneSide.modLane_lane_other _ _ h]

theorem LaneSide.enterRunning_isRaised (v : LaneSide) (l : LaneId) (mode : ConvMode) {a : AlarmId} (h : a ≠ .noticeLoss)
    (hl : a ≠ .laneLost l) : (v.enterRunning l mode).panel.wch.isRaised a = v.panel.wch.isRaised a :=
  (Panel.clear_isRaised_other _ _ hl h).trans (Panel.offer_isRaised _ _ h)

/-- The service of a waiting lane leaves the other lanes alone, and alarms but LANE_LOST for it. -/
theorem LaneSide.serve_other (v : LaneSide) {l q : LaneId} (h : l ≠ q) : (v.serve q).lane l = v.lane l
    ∧ (v.serve q).front.admission.Sublist v.front.admission
    ∧ ∀ a, a ≠ .noticeLoss → a ≠ .laneLost q → (v.serve q).panel.wch.isRaised a = v.panel.wch.isRaised a := by
  unfold LaneSide.serve
  dsimp only
  split
  · exact ⟨rfl, List.Sublist.refl _, fun _ _ _ => rfl⟩
  · split
    · exact ⟨LaneSide.enterRunning_lane_other _ _ h, List.filter_sublist,
        fun a loss lost => LaneSide.enterRunning_isRaised _ q _ loss lost⟩
    · refine ⟨?_, List.filter_sublist, fun _ _ _ => rfl⟩
      rw [LaneSide.regrant_eq_put, LaneSide.put_lane_other _ _ h, LaneSide.modConv_lane_other _ _ h]
      rfl

theorem LaneSide.release_released {v : LaneSide} {l : LaneId} (queue : l ∉ v.front.admission) (state : (v.lane l).state ≠ .running) :
    LaneSide.Released l v v.release := by
  have served (qs : List LaneId) (hq : l ∉ qs) (u : LaneSide) : (qs.foldl LaneSide.serve u).lane l = u.lane l
      ∧ (qs.foldl LaneSide.serve u).front.admission.Sublist u.front.admission
      ∧ ∀ a, a ≠ .noticeLoss → (∀ q ∈ qs, a ≠ .laneLost q) →
          (qs.foldl LaneSide.serve u).panel.wch.isRaised a = u.panel.wch.isRaised a := by
    induction qs generalizing u with
    | nil => exact ⟨rfl, List.Sublist.refl _, fun _ _ _ => rfl⟩
    | cons q qs ih =>
      obtain ⟨lane, queue, raised⟩ := u.serve_other (l := l) (q := q) fun e => hq (e ▸ List.mem_cons_self)
      obtain ⟨lane', queue', raised'⟩ := ih (fun e => hq (List.mem_cons_of_mem _ e)) (u.serve q)
      exact ⟨lane'.trans lane, queue'.trans queue, fun a loss lost =>
        (raised' a loss fun q hq => lost q (List.mem_cons_of_mem _ hq)).trans (raised a loss (lost q List.mem_cons_self))⟩
  obtain ⟨lane, admission, raised⟩ := served v.front.admission queue v
  have pass := LaneSide.Regranted.upgradePass (v.front.admission.foldl LaneSide.serve v)
  refine ⟨?_, ?_, fun a loss lost => ?_⟩
  · rw [LaneSide.release, LaneSide.upgradePass_noUpgrade, lane]
    rw [lane]
    exact fun ⟨running, _⟩ => state running
  · rw [LaneSide.release, pass.admission]; exact admission
  · rw [LaneSide.release, pass.panel]; exact raised a loss lost

theorem LaneSide.release_panel {v : LaneSide} (h : v.front.admission = []) : v.release.panel = v.panel := by
  rw [LaneSide.release_eq h]
  exact (LaneSide.Regranted.upgradePass v).panel

end Sys2Proof.Machine

/-! LANE_SET without the enable setting (R14, R17, R38). -/
namespace Sys2Proof.Machine

/-! ## What the lane requests leave of the panel -/

theorem LaneSide.move_kept (v : LaneSide) (l : LaneId) (f : Lane → Lane) : v.panel.Kept (v.move l f).panel := Panel.offer_kept _ _

theorem LaneSide.quit_kept (v : LaneSide) (l : LaneId) (was : Lane) : v.panel.Kept (v.quit l was).panel :=
  (LaneSide.EngineOnly.leaveEngine v l _ _).panel

theorem LaneSide.disable_kept (v : LaneSide) (l : LaneId) : v.panel.Kept (v.disable l).panel :=
  ((v.move_kept l Lane.toDisabled).trans ((Panel.clear_kept (.laneLost l) _).trans (Panel.clear_kept (.laneRejected l) _))).trans
    (LaneSide.quit_kept ((v.move l Lane.toDisabled).onPanel fun p => (p.clear (.laneLost l)).clear (.laneRejected l)) l (v.lane l))

theorem LaneSide.reset_kept (v : LaneSide) (l : LaneId) : v.panel.Kept (v.reset l).panel :=
  ((v.move_kept l Lane.toAbsent).trans (LaneSide.quit_kept _ l (v.lane l))).trans
    ((Panel.clear_kept (.laneLost l) _).trans (Panel.clear_kept (.laneRejected l) _))

theorem LaneSide.preferenceEffect_engineOnly (v : LaneSide) (l : LaneId) (old : LaneSettings) :
    v.EngineOnly (v.preferenceEffect l old) := by
  unfold LaneSide.preferenceEffect LaneSide.preferenceChanged
  dsimp only
  split
  · exact .refl v
  · split
    · exact (LaneSide.EngineOnly.regrant v l _).trans (LaneSide.EngineOnly.release _)
    · exact LaneSide.EngineOnly.upgradePass v
    · exact .refl v

theorem LaneSide.bypassEffect_engineOnly (v : LaneSide) (l : LaneId) (old : LaneSettings) :
    v.EngineOnly (v.bypassEffect l old) := by
  unfold LaneSide.bypassEffect LaneSide.bypassForbidden
  split
  · split
    · exact LaneSide.EngineOnly.leaveBypass v l
    · exact .refl v
  · exact .refl v

theorem LaneSide.countingEffect_panel (v : LaneSide) (l : LaneId) (old : LaneSettings) : (v.countingEffect l old).panel = v.panel := by
  unfold LaneSide.countingEffect
  split <;> rfl

theorem LaneSide.enableEffect_kept (v : LaneSide) (l : LaneId) (enable : Option Bool) : v.panel.Kept (v.enableEffect l enable).panel := by
  unfold LaneSide.enableEffect
  split
  · split
    · exact .refl _
    · exact v.disable_kept l
  · split
    · exact v.move_kept l _
    · exact .refl _
  · exact .refl _

theorem LaneSide.setLane_kept (v : LaneSide) (l : LaneId) (b : LaneSetBody) : v.panel.Kept (v.setLane l b).panel := by
  rw [LaneSide.setLane_eq]
  refine .trans ?_ (LaneSide.enableEffect_kept _ l b.enable)
  rw [LaneSide.countingEffect_panel]
  exact ((v.store l b).preferenceEffect_engineOnly l _).panel.trans (LaneSide.bypassEffect_engineOnly _ l _).panel

/-! ## The steps that have nothing to do -/

/-- A changed preference reaches the arbiter only from a running lane on FULL or SHORT that it takes to the other. -/
theorem LaneSide.preferenceEffect_eq_self {v : LaneSide} {l : LaneId} {old : LaneSettings}
    (h : (v.lane l).state = .running → ¬(old.preference = .full ∧ (v.lane l).settings.preference = .short ∧ (v.lane l).conv.granted = .full)
      ∧ ¬(old.preference = .short ∧ (v.lane l).settings.preference = .full ∧ (v.lane l).conv.granted = .short)) :
    v.preferenceEffect l old = v := by
  unfold LaneSide.preferenceEffect LaneSide.preferenceChanged
  dsimp only
  split
  · rfl
  · next changed =>
    split
    · next running short full =>
      rw [short] at changed
      refine absurd ⟨?_, short, full⟩ (h running).1
      cases hp : old.preference with
      | full => rfl
      | short => exact absurd hp changed
    · next running full short =>
      rw [full] at changed
      refine absurd ⟨?_, full, short⟩ (h running).2
      cases hp : old.preference with
      | full => exact absurd hp changed
      | short => rfl
    · rfl

theorem LaneSide.bypassEffect_eq_self {v : LaneSide} {l : LaneId} {old : LaneSettings}
    (h : ¬(old.bypassAllowed = true ∧ (v.lane l).settings.bypassAllowed = false ∧ (v.lane l).judgesExit = true)) :
    v.bypassEffect l old = v := by
  unfold LaneSide.bypassEffect LaneSide.bypassForbidden
  split
  · next forbidden =>
    rw [if_neg fun exits => h ⟨forbidden.1, forbidden.2, exits⟩]
  · rfl

theorem Lane.judgesExit_iff (x : Lane) : x.judgesExit = true ↔ x.state = .running ∧ x.conv.granted = .bypass ∧ x.conv.forced = false := by
  simp [Lane.judgesExit, and_assoc]

/-! ## The settings stored -/

/-- The settings a LANE_SET without the enable setting leaves. -/
theorem LaneSettings.with_eq {b : LaneSetBody} (h : b.enable = none) (old : LaneSettings) : old.with b =
    { enabled := old.enabled, preference := b.preference.getD old.preference,
      bypassAllowed := b.bypassAllowed.getD old.bypassAllowed,
      tolerance := (b.tolerance.map fun n => min n 200).getD old.tolerance,
      openCounting := b.openCounting.getD old.openCounting } := by
  have limit : (min 200 : Nat → Nat) = fun n => min n 200 := funext fun n => min_comm 200 n
  simp only [LaneSettings.with, h, Option.getD_none, limit]

/-- The lane with the settings present stored. -/
def Lane.stored (b : LaneSetBody) (x : Lane) : Lane := { x with settings := x.settings.with b }

theorem LaneSide.store_eq_put (v : LaneSide) (l : LaneId) (b : LaneSetBody) : v.store l b = v.put l ((v.lane l).stored b) := rfl

/-- What is free depends on the lanes' costs alone. -/
theorem LaneSide.freeTaps_put {v : LaneSide} {l : LaneId} {x : Lane} (h : x.cost = (v.lane l).cost) :
    (v.put l x).front.freeTaps = v.front.freeTaps := by
  have cost (m : LaneId) : ((v.put l x).front.lanes[m]).cost = (v.front.lanes[m]).cost := by
    by_cases e : m = l
    · subst e; exact (congrArg Lane.cost (v.put_lane_self m x)).trans h
    · exact congrArg Lane.cost (v.put_lane_other x e)
  rw [Front.freeTaps, Front.freeTaps, Front.tapsInUse_eq, Front.tapsInUse_eq]
  simp only [cost]

/-- The grant a running lane has after a LANE_SET that took its settings from these to those it has now (R38). -/
def Lane.grantUnder (old : LaneSettings) (free : Nat) (x : Lane) : ConvMode :=
  match x.conv.granted with
  | .none => .none
  | .full => if old.preference = .full ∧ x.settings.preference = .short then .short else .full
  | .short => if old.preference = .short ∧ x.settings.preference = .full ∧ 32 * x.channels ≤ free then .full else .short
  | .bypass =>
    if old.bypassAllowed = true ∧ x.settings.bypassAllowed = false ∧ x.conv.forced = false then
      grantedMode x.settings.preference x.channels free
    else .bypass

/-- What the preference and bypass settings of a running lane bring about, its settings stored: its grant becomes the one the settings
call for, and other lanes change grants only when budget is released or asked for. -/
structure LaneSide.Reset (l : LaneId) (old : LaneSettings) (v w : LaneSide) : Prop where
  lane : w.lane l = (if (v.lane l).grantUnder old v.front.freeTaps = (v.lane l).conv.granted then v.lane l
    else (v.lane l).regranted ((v.lane l).grantUnder old v.front.freeTaps))
  others : (v.lane l).grantUnder old v.front.freeTaps = (v.lane l).conv.granted ∨ (v.lane l).conv.granted = .short →
    ∀ m, m ≠ l → w.lane m = v.lane m
  regranted : v.Regranted w

theorem LaneSide.Reset.of_eq {l : LaneId} {old : LaneSettings} {v : LaneSide}
    (h : (v.lane l).grantUnder old v.front.freeTaps = (v.lane l).conv.granted) : LaneSide.Reset l old v v :=
  ⟨(if_pos h).symm, fun _ _ _ => rfl, .refl v⟩

/-- The preference and bypass settings of a running lane take effect, with nothing waiting for budget; the upgrade to FULL is told with
no other lane to be upgraded. -/
theorem LaneSide.effects_running {v : LaneSide} {l : LaneId} {old : LaneSettings} (running : (v.lane l).state = .running)
    (admission : v.front.admission = [])
    (others : (v.lane l).conv.granted = .short → ∀ m, m ≠ l → (v.lane m).NoUpgrade) :
    LaneSide.Reset l old v ((v.preferenceEffect l old).bypassEffect l old) := by
  have noExit {w : LaneSide} (h : (w.lane l).conv.granted ≠ .bypass) : w.bypassEffect l old = w :=
    LaneSide.bypassEffect_eq_self fun ⟨_, _, exits⟩ => h ((Lane.judgesExit_iff _).1 exits).2.1
  cases hg : (v.lane l).conv.granted with
  | none =>
    have same : (v.lane l).grantUnder old v.front.freeTaps = (v.lane l).conv.granted := by rw [Lane.grantUnder, hg]
    rw [LaneSide.preferenceEffect_eq_self (by simp [hg]), noExit (by simp [hg])]
    exact .of_eq same
  | full =>
    by_cases short : old.preference = .full ∧ (v.lane l).settings.preference = .short
    · have grant : (v.lane l).grantUnder old v.front.freeTaps = .short := by rw [Lane.grantUnder, hg]; exact if_pos short
      have effect : v.preferenceEffect l old = (v.regrant l .short).upgradePass := by
        rw [LaneSide.preferenceEffect, short.1, short.2, if_neg (by decide), LaneSide.preferenceChanged, running, short.2, hg]
        exact LaneSide.release_eq admission
      have lane : (v.preferenceEffect l old).lane l = (v.lane l).regranted .short := by
        rw [effect, LaneSide.upgradePass_noUpgrade, LaneSide.regrant_eq_put, LaneSide.put_lane_self]
        rw [LaneSide.regrant_eq_put, LaneSide.put_lane_self, Lane.regranted_eq]
        rintro ⟨-, -, full⟩
        rw [short.2] at full
        cases full
      rw [noExit (by rw [lane, Lane.regranted_granted]; simp)]
      refine ⟨?_, ?_, ?_⟩
      · rw [lane, grant, hg]; rfl
      · rw [grant, hg]; simp
      · rw [effect]; exact (LaneSide.Regranted.regrant v l _).trans (.upgradePass _)
    · have same : (v.lane l).grantUnder old v.front.freeTaps = (v.lane l).conv.granted := by
        rw [Lane.grantUnder, hg]; exact if_neg short
      rw [LaneSide.preferenceEffect_eq_self fun _ => ⟨fun ⟨was, now, _⟩ => short ⟨was, now⟩, by simp [hg]⟩, noExit (by simp [hg])]
      exact .of_eq same
  | short =>
    by_cases full : old.preference = .short ∧ (v.lane l).settings.preference = .full
    · have effect : v.preferenceEffect l old = v.upgrade l := by
        rw [LaneSide.preferenceEffect, full.1, full.2, if_neg (by decide), LaneSide.preferenceChanged, running, full.2, hg]
        exact LaneSide.upgradePass_only (others hg)
      by_cases room : 32 * (v.lane l).channels ≤ v.front.freeTaps
      · have grant : (v.lane l).grantUnder old v.front.freeTaps = .full := by
          rw [Lane.grantUnder, hg]; exact if_pos ⟨full.1, full.2, room⟩
        have upgraded : v.upgrade l = v.put l ((v.lane l).regranted .full) := if_pos ⟨running, hg, full.2, room⟩
        rw [effect, upgraded, noExit (by rw [LaneSide.put_lane_self, Lane.regranted_granted]; simp)]
        refine ⟨?_, fun _ m e => v.put_lane_other _ e, LaneSide.Regranted.regrant v l _⟩
        rw [LaneSide.put_lane_self, grant, hg]; rfl
      · have same : (v.lane l).grantUnder old v.front.freeTaps = (v.lane l).conv.granted := by
          rw [Lane.grantUnder, hg]; exact if_neg fun h => room h.2.2
        have upgraded : v.upgrade l = v := if_neg fun h => room h.2.2.2
        rw [effect, upgraded, noExit (by simp [hg])]
        exact .of_eq same
    · have same : (v.lane l).grantUnder old v.front.freeTaps = (v.lane l).conv.granted := by
        rw [Lane.grantUnder, hg]; exact if_neg fun h => full ⟨h.1, h.2.1⟩
      rw [LaneSide.preferenceEffect_eq_self fun _ => ⟨by simp [hg], fun ⟨was, now, _⟩ => full ⟨was, now⟩⟩, noExit (by simp [hg])]
      exact .of_eq same
  | bypass =>
    rw [LaneSide.preferenceEffect_eq_self (by simp [hg])]
    by_cases leaves : old.bypassAllowed = true ∧ (v.lane l).settings.bypassAllowed = false ∧ (v.lane l).conv.forced = false
    · have grant : (v.lane l).grantUnder old v.front.freeTaps
          = grantedMode (v.lane l).settings.preference (v.lane l).channels v.front.freeTaps := by
        rw [Lane.grantUnder, hg]; exact if_pos leaves
      have changed : grantedMode (v.lane l).settings.preference (v.lane l).channels v.front.freeTaps ≠ .bypass := by
        unfold grantedMode; split <;> decide
      have effect : v.bypassEffect l old = v.ask l := by
        rw [LaneSide.bypassEffect, if_pos ⟨leaves.1, leaves.2.1⟩, LaneSide.bypassForbidden,
          if_pos ((Lane.judgesExit_iff _).2 ⟨running, hg, leaves.2.2⟩), LaneSide.leaveBypass]
      have free : (v.lane l).cost = 0 := by simp [Lane.cost, hg, ConvMode.cost]
      obtain ⟨lane, -, -, regranted⟩ := LaneSide.ask_running running free
      rw [effect]
      refine ⟨?_, ?_, regranted⟩
      · rw [lane, grant, hg, if_neg changed]
      · rw [grant, hg]; simp [changed]
    · have same : (v.lane l).grantUnder old v.front.freeTaps = (v.lane l).conv.granted := by
        rw [Lane.grantUnder, hg]; exact if_neg leaves
      rw [LaneSide.bypassEffect_eq_self fun ⟨was, now, exits⟩ => leaves ⟨was, now, ((Lane.judgesExit_iff _).1 exits).2.2⟩]
      exact .of_eq same

/-! ## LANE_SET answered -/

theorem Lane.Regranted.state {x y : Lane} (h : x.Regranted y) : y.state = x.state := by rw [h]

theorem Lane.Regranted.settings {x y : Lane} (h : x.Regranted y) : y.settings = x.settings := by rw [h]

theorem Lane.Regranted.gauge {x y : Lane} (h : x.Regranted y) : y.gauge = x.gauge := by rw [h]

theorem Lane.Regranted.fifo {x y : Lane} (h : x.Regranted y) : y.conv.fifo = x.conv.fifo := by rw [h]

/-- Work on the lanes that leaves the panel alone. -/
theorem State.onLanes_front_only {s : State} {f : LaneSide → LaneSide} (h : (f s.laneSide).panel = s.laneSide.panel) :
    s.onLanes f = { s with front := (f s.laneSide).front } := by
  show { s with front := (f s.laneSide).front, wch := (f s.laneSide).panel.wch, lnk := (f s.laneSide).panel.lnk } = _
  rw [h]
  rfl

theorem State.setLane_restart (s : State) (l : LaneId) (b : LaneSetBody) :
    (s.onLanes (LaneSide.setLane l b)).lnk.restart = s.lnk.restart := (s.laneSide.setLane_kept l b).restart

/-- A LANE_SET on a lane that exists, answered OK or CLAMPED. -/
theorem exec_laneSet {s : State} {tag : Byte} {body : List Byte} {b : LaneSetBody} {l : LaneId} (h : s.Takes 0x11 tag body)
    (hb : bodyLaneSet body = some b) (hl : b.lane = l.val) : exec .laneSet s =
      .next ((s.onLanes (LaneSide.setLane l b)).reply 0x11 tag (takenStatus (decide (200 < b.tolerance.getD 0)))
        (if decide (200 < b.tolerance.getD 0) = true then .tolerance 200 else .empty)) := by
  rw [exec, execLaneSet]
  exact State.carry_body h rfl hb (onLane_some (by rw [hl, laneOf_val]) _ s) ((s.setLane_restart l b).trans h.restart)

theorem exec_laneSet_status {s t : State} {tag : Byte} {b : LaneSetBody}
    (h : exec .laneSet s = .next (t.reply 0x11 tag (takenStatus (decide (200 < b.tolerance.getD 0)))
      (if decide (200 < b.tolerance.getD 0) = true then .tolerance 200 else .empty))) :
    ((∃ n, b.tolerance = some n ∧ 200 < n) ∧ exec .laneSet s = .next (t.reply 0x11 tag .clamped (.tolerance 200)))
      ∨ ((∀ n, b.tolerance = some n → n ≤ 200) ∧ exec .laneSet s = .next (t.reply 0x11 tag .ok .empty)) := by
  by_cases high : 200 < b.tolerance.getD 0
  · left
    rw [h, decide_eq_true high]
    cases ht : b.tolerance with
    | none => rw [ht] at high; exact absurd high (by decide)
    | some n => rw [ht] at high; exact ⟨⟨n, rfl, high⟩, rfl⟩
  · right
    rw [h, decide_eq_false high]
    refine ⟨fun n hn => ?_, rfl⟩
    rw [hn] at high
    exact Nat.not_lt.1 high

/-- Without the enable setting the last step has nothing to do. -/
theorem LaneSide.setLane_noEnable (v : LaneSide) {l : LaneId} {b : LaneSetBody} (h : b.enable = none) : v.setLane l b =
    (((v.store l b).preferenceEffect l (v.lane l).settings).bypassEffect l (v.lane l).settings).countingEffect l (v.lane l).settings := by
  rw [LaneSide.setLane_eq, h]
  rfl

/-- On a lane that does not run the preference and bypass settings have no effect. -/
theorem LaneSide.effects_idle {v : LaneSide} {l : LaneId} (old : LaneSettings) (h : (v.lane l).state ≠ .running) :
    (v.preferenceEffect l old).bypassEffect l old = v := by
  rw [LaneSide.preferenceEffect_eq_self fun running => absurd running h,
    LaneSide.bypassEffect_eq_self fun ⟨_, _, exits⟩ => h ((Lane.judgesExit_iff _).1 exits).1]

/-- On a lane neither RUNNING nor DISABLED the settings are stored and nothing else changes. -/
theorem LaneSide.setLane_stored {v : LaneSide} {l : LaneId} {b : LaneSetBody} (enable : b.enable = none)
    (notRunning : (v.lane l).state ≠ .running) (notDisabled : (v.lane l).state ≠ .disabled) :
    v.setLane l b = v.put l ((v.lane l).stored b) := by
  have state : ((v.store l b).lane l).state = (v.lane l).state := by rw [LaneSide.store_eq_put, LaneSide.put_lane_self]; rfl
  rw [LaneSide.setLane_noEnable _ enable, LaneSide.effects_idle _ (by rwa [state]), LaneSide.countingEffect, state,
    if_neg fun h => notDisabled h.1, LaneSide.store_eq_put]

/-- On a DISABLED lane a changed open counting opens or closes the gauge (R14). -/
theorem LaneSide.setLane_disabled {v : LaneSide} {l : LaneId} {b : LaneSetBody} (enable : b.enable = none)
    (disabled : (v.lane l).state = .disabled) : v.setLane l b = v.put l { (v.lane l).stored b with
      gauge := if ((v.lane l).settings.with b).openCounting = (v.lane l).settings.openCounting then (v.lane l).gauge
        else (v.lane l).gauge.disabled ((v.lane l).settings.with b).openCounting } := by
  have lane : (v.store l b).lane l = (v.lane l).stored b := LaneSide.put_lane_self _ _ _
  rw [LaneSide.setLane_noEnable _ enable, LaneSide.effects_idle _ (by rw [lane]; simp [Lane.stored, disabled]),
    LaneSide.countingEffect, LaneSide.modLane_eq_put, lane, LaneSide.store_eq_put, LaneSide.put_put]
  by_cases same : ((v.lane l).settings.with b).openCounting = (v.lane l).settings.openCounting
  · rw [if_neg fun h => h.2 same.symm, if_pos same]; rfl
  · rw [if_pos ⟨disabled, Ne.symm same⟩, if_neg same]; rfl

/-- On a RUNNING lane the arbiter follows the settings (R38). -/
theorem LaneSide.setLane_running {v : LaneSide} {l : LaneId} {b : LaneSetBody} (enable : b.enable = none)
    (running : (v.lane l).state = .running) (admission : v.front.admission = [])
    (others : (v.lane l).conv.granted = .short → ∀ m, m ≠ l → (v.lane m).NoUpgrade) :
    LaneSide.Reset l (v.lane l).settings (v.put l ((v.lane l).stored b)) (v.setLane l b) := by
  have lane : (v.put l ((v.lane l).stored b)).lane l = (v.lane l).stored b := LaneSide.put_lane_self _ _ _
  have effects := LaneSide.effects_running (v := v.put l ((v.lane l).stored b)) (l := l) (old := (v.lane l).settings)
    (by rw [lane]; exact running) admission fun short m e => by
      rw [lane] at short
      rw [LaneSide.put_lane_other _ _ e]
      exact others short m e
  rw [LaneSide.setLane_noEnable _ enable, LaneSide.store_eq_put, LaneSide.countingEffect, if_neg]
  · exact effects
  · rintro ⟨disabled, -⟩
    rw [(effects.regranted.lane l).state, lane] at disabled
    exact absurd (running.symm.trans disabled) (by decide)

/-- The fade a lane is known to have may be read off the lane itself. -/
theorem Lane.eq_of_asked {x y : Lane} {c : Converter} {g : ConvMode} {f : LaneFade} {p : Nat}
    (h : y = { x with conv := { c with granted := g, fade := f, fadePos := p } }) :
    y = { x with conv := { c with granted := g, fade := y.conv.fade, fadePos := y.conv.fadePos } } := by
  rw [h]

/-- Settles O19: the settings are stored, and on a running lane the arbiter follows them as `LaneSide.setLane_running` says. -/
theorem laneSetStoresTheSettings : Obligations.LaneSetStoresTheSettings := by
  intro s tag body b h hb
  refine ⟨fun above => State.carry_body h rfl hb (onLane_none (laneOf_above above) _ s) h.restart, fun l hl enable => ?_⟩
  intro x old new kept channels free granted fades
  have stored : x.stored b = kept := by rw [Lane.stored, LaneSettings.with_eq enable]
  refine ⟨s.onLanes (LaneSide.setLane l b), exec_laneSet_status (exec_laneSet h hb hl.symm), fun notRunning notDisabled => ?_,
    fun disabled => ?_, fun running admission noOther => ?_⟩
  · have set := LaneSide.setLane_stored (v := s.laneSide) (l := l) enable notRunning notDisabled
    rw [State.onLanes_put (g := id) set, ← stored]
    rfl
  · have set := LaneSide.setLane_disabled (v := s.laneSide) (l := l) enable disabled
    rw [State.onLanes_put (g := id) set, ← stored]
    rfl
  · have lane : (s.laneSide.put l (x.stored b)).lane l = kept := by rw [LaneSide.put_lane_self, stored]
    have grant : kept.grantUnder old (s.laneSide.put l (x.stored b)).front.freeTaps = granted := by
      rw [LaneSide.freeTaps_put (show (x.stored b).cost = (s.laneSide.lane l).cost from rfl), Lane.grantUnder]
      simp only [grantedMode, Lane.channels_eq]
      rfl
    obtain ⟨final, others, regranted⟩ := LaneSide.setLane_running (v := s.laneSide) (l := l) (b := b) enable running admission
      fun short m e => fun ⟨run, was, full⟩ => by
        have pref := noOther short m e run was
        exact absurd (pref.symm.trans full) (by decide)
    rw [show s.laneSide.lane l = x from rfl, lane, show x.settings = old from rfl, grant] at final others
    have other (m : LaneId) (e : m ≠ l) : (s.lane m).Regranted ((s.laneSide.setLane l b).lane m) := by
      have kept := regranted.lane m
      rwa [LaneSide.put_lane_other _ _ e] at kept
    have asked : (s.laneSide.setLane l b).lane l = { kept with conv := { x.conv with
        granted := granted, fade := if fades then .fadeOut else x.conv.fade, fadePos := if fades then 480 else x.conv.fadePos } } := by
      rw [final]
      by_cases same : granted = x.conv.granted
      · rw [if_pos same, if_neg fun h => h.1 same, if_neg fun h => h.1 same, same]
      · rw [if_neg same, Lane.regranted_eq]
        simp only [fades, ne_eq, same, not_false_eq_true, true_and]
        rfl
    rw [State.onLanes_front_only regranted.panel]
    refine ⟨rfl, regranted.admission.trans admission, congrArg (·.conv.granted) asked, fun changed => ?_, fun unchanged => ?_, ?_,
      fun quiet m e => (others quiet m e).trans (LaneSide.put_lane_other _ _ e),
      fun m e => ⟨(other m e).state, (other m e).settings, (other m e).gauge, (other m e).fifo⟩⟩
    all_goals change LaneSide.lane _ l = _ at asked
    · rw [if_pos changed, if_pos changed] at asked
      exact ⟨congrArg (·.conv.fade) asked, congrArg (·.conv.fadePos) asked⟩
    · rw [if_neg unchanged, if_neg unchanged] at asked
      exact ⟨congrArg (·.conv.fade) asked, congrArg (·.conv.fadePos) asked⟩
    · exact Lane.eq_of_asked asked

end Sys2Proof.Machine

/-! A lane leaves the state it is in (R8, R11, R13, R14, R18, R42): enabling, disabling and LANE_RESET. -/
namespace Sys2Proof.Machine

/-! ## A change of state, and what the engine does with a lane that has left -/

/-- The LANE notice of a lane that has become this record, and was in that state (R13). -/
def Lane.moveNotice (l : LaneId) (left : LaneState) (y : Lane) (v : Panel) : Panel :=
  v.offer (.lane l y.state left y.settled y.active v.now)

theorem LaneSide.move_eq (v : LaneSide) (l : LaneId) (f : Lane → Lane) :
    v.move l f = (v.put l (f (v.lane l))).onPanel (Lane.moveNotice l (v.lane l).state (f (v.lane l))) := by
  rw [LaneSide.move, LaneSide.noticeLane, LaneSide.modLane_eq_put, LaneSide.put_lane_self]
  rfl

theorem Lane.moveNotice_isRaised (l : LaneId) (left : LaneState) (y : Lane) (v : Panel) {a : AlarmId} (h : a ≠ .noticeLoss) :
    (y.moveNotice l left v).wch.isRaised a = v.wch.isRaised a := v.offer_isRaised _ h

/-- What a lane that has left a state leaves behind: its own record, its place on the queue and the alarms (R42). -/
structure LaneSide.Left (l : LaneId) (was : Lane) (v w : LaneSide) : Prop where
  lane : w.lane l = if was.state = .running then { v.lane l with conv := (v.lane l).conv.cleared } else v.lane l
  queue : was.state = .running ∨ was.state = .waitingBudget → l ∉ w.front.admission
  raised : ∀ a, a ≠ .noticeLoss → a ≠ .slip l → (∀ q, q ≠ l → a ≠ .laneLost q) → w.panel.wch.isRaised a = v.panel.wch.isRaised a
  slip : was.state = .running → w.panel.wch.isRaised (.slip l) = false
  idle : was.state ≠ .running → w.panel = v.panel
  engine : was.state = .running → v.front.admission = [] → w.panel = v.panel.clear (.slip l)
  rest : v.EngineOnly w

theorem LaneSide.leaveQueue_not_mem (v : LaneSide) (l : LaneId) : l ∉ (v.leaveQueue l).front.admission := by
  simp [LaneSide.leaveQueue]

/-- A lane that has left no budget and no place leaves nothing for the engine to do. -/
theorem LaneSide.quit_idle (v : LaneSide) (l : LaneId) {was : Lane} (running : was.state ≠ .running)
    (waiting : was.state ≠ .waitingBudget) : v.quit l was = v := by
  unfold LaneSide.quit LaneSide.leaveEngine
  split <;> simp_all

/-- The record, the queue place and SLIP of a lane that ran; then its taps are given back. -/
def LaneSide.stopped (l : LaneId) (v : LaneSide) : LaneSide :=
  ((v.modConv l Converter.cleared).onPanel (Panel.clear (.slip l))).leaveQueue l

theorem LaneSide.stopped_lane (v : LaneSide) (l : LaneId) : (v.stopped l).lane l = { v.lane l with conv := (v.lane l).conv.cleared } :=
  v.put_lane_self l _

theorem LaneSide.quit_running (v : LaneSide) (l : LaneId) {was : Lane} (running : was.state = .running) :
    v.quit l was = if 0 < was.cost then (v.stopped l).release else v.stopped l := by
  rw [LaneSide.quit, running]
  rfl

/-- Whether or not it gives taps back, a lane that no longer runs and stands on no queue is left alone by the release. -/
theorem LaneSide.quit_released {v : LaneSide} {l : LaneId} {was : Lane} (running : was.state = .running)
    (state : (v.lane l).state ≠ .running) : LaneSide.Released l (v.stopped l) (v.quit l was) := by
  rw [LaneSide.quit_running v l running]
  split
  · exact LaneSide.release_released ((v.modConv l Converter.cleared).onPanel _ |>.leaveQueue_not_mem l) (by rwa [v.stopped_lane l])
  · exact ⟨rfl, List.Sublist.refl _, fun _ _ _ => rfl⟩

theorem LaneSide.quit_left {v : LaneSide} {l : LaneId} (was : Lane) (state : (v.lane l).state ≠ .running) :
    LaneSide.Left l was v (v.quit l was) := by
  have rest : v.EngineOnly (v.quit l was) := LaneSide.EngineOnly.leaveEngine v l _ _
  by_cases running : was.state = .running
  · have released := LaneSide.quit_released running state
    have gone : l ∉ (v.stopped l).front.admission := LaneSide.leaveQueue_not_mem _ l
    refine ⟨?_, fun _ mem => gone (released.admission.subset mem), fun a loss slip lost => ?_, fun _ => ?_,
      fun idle => absurd running idle, fun _ queue => ?_, rest⟩
    · rw [if_pos running, released.lane, v.stopped_lane l]
    · rw [released.raised a loss fun q mem => lost q fun e => gone (e ▸ mem)]
      exact Panel.clear_isRaised_other _ _ slip loss
    · rw [released.raised _ (by simp) fun q _ => by simp]
      exact Panel.clear_isRaised _ _ (by simp)
    · have empty : (v.stopped l).front.admission = [] := by simp [LaneSide.stopped, LaneSide.leaveQueue, queue]
      rw [LaneSide.quit_running v l running]
      split
      · exact LaneSide.release_panel empty
      · rfl
  · by_cases waiting : was.state = .waitingBudget
    · have left : v.quit l was = v.leaveQueue l := by rw [LaneSide.quit, waiting]; rfl
      rw [left] at rest ⊢
      exact ⟨(if_neg running).symm, fun _ => v.leaveQueue_not_mem l, fun _ _ _ _ => rfl, fun h => absurd h running, fun _ => rfl,
        fun h => absurd h running, rest⟩
    · rw [LaneSide.quit_idle v l running waiting] at rest ⊢
      exact ⟨(if_neg running).symm, fun h => absurd h (not_or.2 ⟨running, waiting⟩), fun _ _ _ _ => rfl, fun h => absurd h running,
        fun _ => rfl, fun h => absurd h running, rest⟩

/-- The figures a lane that has left RUNNING does not have any more; its slip count stays (R42). -/
theorem LaneSide.Left.cleared {l : LaneId} {was : Lane} {v w : LaneSide} (h : LaneSide.Left l was v w) (running : was.state = .running) :
    (w.lane l).conv.granted = .none ∧ (w.lane l).conv.effective = .none ∧ (w.lane l).conv.fifo = [] ∧ (w.lane l).conv.fade = .none := by
  rw [h.lane, if_pos running]
  exact ⟨rfl, rfl, rfl, rfl⟩

/-- Of the lane's own record only the converter changes, and of that not the slip count. -/
theorem LaneSide.Left.record {l : LaneId} {was : Lane} {v w : LaneSide} (h : LaneSide.Left l was v w) :
    w.lane l = { v.lane l with conv := (w.lane l).conv } ∧ (w.lane l).conv.slipCount = (v.lane l).conv.slipCount := by
  rw [h.lane]
  split <;> exact ⟨rfl, rfl⟩

/-! ## Disabling and enabling by LANE_SET (R14) -/

/-- The settings a LANE_SET leaves that names only the enable setting. -/
theorem LaneSettings.with_enable {b : LaneSetBody} {e : Bool} (enable : b.enable = some e) (preference : b.preference = none)
    (bypass : b.bypassAllowed = none) (tolerance : b.tolerance = none) (counting : b.openCounting = none) (old : LaneSettings) :
    old.with b = { old with enabled := e } := by
  simp [LaneSettings.with, enable, preference, bypass, tolerance, counting]

/-- The lane with its enable setting changed. -/
def Lane.enabledAs (e : Bool) (x : Lane) : Lane := { x with settings := { x.settings with enabled := e } }

@[simp] theorem Lane.enabledAs_state (e : Bool) (x : Lane) : (x.enabledAs e).state = x.state := rfl

/-- When the enable setting alone changes, only the last step has something to do. -/
theorem LaneSide.setLane_enable {v : LaneSide} {l : LaneId} {b : LaneSetBody} {e : Bool} (enable : b.enable = some e)
    (only : (v.lane l).settings.with b = { (v.lane l).settings with enabled := e }) : v.setLane l b =
      (v.put l ((v.lane l).enabledAs e)).enableEffect l (some e) := by
  have stored : v.store l b = v.put l ((v.lane l).enabledAs e) := by
    rw [LaneSide.store_eq_put, Lane.stored, only, Lane.enabledAs]
  rw [LaneSide.setLane_eq, enable, stored]
  generalize hu : v.put l ((v.lane l).enabledAs e) = u
  have lane : (u.lane l).settings = { (v.lane l).settings with enabled := e } := by rw [← hu, LaneSide.put_lane_self, Lane.enabledAs]
  have preference : u.preferenceEffect l (v.lane l).settings = u := if_pos (by rw [lane])
  have bypass : u.bypassEffect l (v.lane l).settings = u := if_neg fun h => by
    rw [lane] at h
    exact absurd (h.1.symm.trans h.2) (by decide)
  have counting : u.countingEffect l (v.lane l).settings = u := if_neg fun h => h.2 (by rw [lane])
  rw [preference, bypass, counting]

/-- What of the whole state work on the lanes leaves alone. -/
theorem State.onLanes_frame (s : State) (f : LaneSide → LaneSide) (k tag : Byte) (st : Status) (b : ReplyBody) :
    let t := (s.onLanes f).reply k tag st b
    t.refu = s.refu ∧ t.progs = s.progs ∧ t.dmc = s.dmc ∧ t.pfu = s.pfu ∧ t.out = s.out ∧ t.pending = s.pending :=
  ⟨rfl, rfl, rfl, rfl, rfl, rfl⟩

/-- Both alarms of a lane that has neither been lost nor rejected any more. -/
def Panel.clearLane (l : LaneId) (v : Panel) : Panel := (v.clear (.laneLost l)).clear (.laneRejected l)

theorem Panel.clearLane_isRaised (l : LaneId) (v : Panel) :
    (v.clearLane l).wch.isRaised (.laneLost l) = false ∧ (v.clearLane l).wch.isRaised (.laneRejected l) = false := by
  refine ⟨?_, Panel.clear_isRaised _ _ (by simp)⟩
  rw [Panel.clearLane, Panel.clear_isRaised_other _ _ (by simp) (by simp)]
  exact Panel.clear_isRaised _ _ (by simp)

theorem Panel.clearLane_isRaised_other {l : LaneId} {a : AlarmId} (v : Panel) (lost : a ≠ .laneLost l) (rejected : a ≠ .laneRejected l)
    (loss : a ≠ .noticeLoss) : (v.clearLane l).wch.isRaised a = v.wch.isRaised a :=
  (Panel.clear_isRaised_other _ _ rejected loss).trans (Panel.clear_isRaised_other _ _ lost loss)

theorem LaneSide.disable_eq (v : LaneSide) (l : LaneId) : v.disable l =
    ((v.put l (v.lane l).toDisabled).onPanel fun p => ((v.lane l).toDisabled.moveNotice l (v.lane l).state p).clearLane l).quit l
      (v.lane l) := by
  rw [LaneSide.disable, LaneSide.move_eq]
  rfl

theorem LaneSide.reset_eq (v : LaneSide) (l : LaneId) : v.reset l =
    (((v.put l (v.lane l).toAbsent).onPanel ((v.lane l).toAbsent.moveNotice l (v.lane l).state)).quit l (v.lane l)).onPanel
      (Panel.clearLane l) := by
  rw [LaneSide.reset, LaneSide.move_eq]
  rfl

/-- Other lanes keep their settings and their gauge while one is changed and leaves. -/
theorem LaneSide.Left.others {l : LaneId} {was x : Lane} {f : Panel → Panel} {v w : LaneSide}
    (h : LaneSide.Left l was ((v.put l x).onPanel f) w) (m : LaneId) (e : m ≠ l) :
    (w.lane m).settings = (v.lane m).settings ∧ (w.lane m).gauge = (v.lane m).gauge := by
  rw [h.rest.settings, h.rest.gauge, LaneSide.onPanel_lane, LaneSide.put_lane_other _ _ e]
  exact ⟨rfl, rfl⟩

/-- LANE_SET with the enable setting off alone, on a lane that is not DISABLED. -/
theorem LaneSide.setLane_disables {v : LaneSide} {l : LaneId} {b : LaneSetBody} (enable : b.enable = some false)
    (only : (v.lane l).settings.with b = { (v.lane l).settings with enabled := false }) (state : (v.lane l).state ≠ .disabled) :
    let y := (v.lane l).enabledAs false
    LaneSide.Left l y ((v.put l y.toDisabled).onPanel fun p => (y.toDisabled.moveNotice l (v.lane l).state p).clearLane l)
      (v.setLane l b) := by
  intro y
  have left : v.setLane l b =
      ((v.put l y.toDisabled).onPanel fun p => (y.toDisabled.moveNotice l (v.lane l).state p).clearLane l).quit l y := by
    rw [LaneSide.setLane_enable enable only, LaneSide.enableEffect]
    simp only [LaneSide.put_lane_self, Lane.enabledAs_state, state, if_false, LaneSide.disable_eq, LaneSide.put_put]
    rfl
  rw [left]
  exact LaneSide.quit_left y (by rw [LaneSide.onPanel_lane, LaneSide.put_lane_self]; simp [Lane.toDisabled])

/-- LANE_SET with the enable setting on alone, on a DISABLED lane. -/
theorem LaneSide.setLane_enables {v : LaneSide} {l : LaneId} {b : LaneSetBody} (enable : b.enable = some true)
    (only : (v.lane l).settings.with b = { (v.lane l).settings with enabled := true }) (state : (v.lane l).state = .disabled) :
    let y := (v.lane l).enabledAs true
    v.setLane l b = (v.put l y.toAbsent.timed).onPanel (y.toAbsent.timed.moveNotice l .disabled) := by
  intro y
  rw [LaneSide.setLane_enable enable only, LaneSide.enableEffect]
  simp only [LaneSide.put_lane_self, Lane.enabledAs_state, state, if_true, LaneSide.enable, LaneSide.move_eq, LaneSide.put_put]
  rfl

/-- LANE_RESET in its two steps: the lane leaves, then both its alarms are cleared. -/
theorem LaneSide.reset_leaves (v : LaneSide) (l : LaneId) : ∃ w, v.reset l = w.onPanel (Panel.clearLane l)
    ∧ LaneSide.Left l (v.lane l) ((v.put l (v.lane l).toAbsent).onPanel ((v.lane l).toAbsent.moveNotice l (v.lane l).state)) w :=
  ⟨_, v.reset_eq l, LaneSide.quit_left _ (by rw [LaneSide.onPanel_lane, LaneSide.put_lane_self]; simp [Lane.toAbsent])⟩

theorem exec_laneSet_ok {s : State} {tag : Byte} {body : List Byte} {b : LaneSetBody} {l : LaneId} (h : s.Takes 0x11 tag body)
    (hb : bodyLaneSet body = some b) (hl : b.lane = l.val) (tolerance : b.tolerance = none) :
    exec .laneSet s = .next ((s.onLanes (LaneSide.setLane l b)).reply 0x11 tag .ok .empty) := by
  rw [exec_laneSet h hb hl, tolerance]
  rfl

theorem State.onLanes_panel {s : State} {f : LaneSide → LaneSide} {v : Panel} (h : (f s.laneSide).panel = v) :
    (s.onLanes f).wch = v.wch ∧ (s.onLanes f).lnk = v.lnk := by
  rw [← h]
  exact ⟨rfl, rfl⟩

/-- LANE_RESET on a lane that is not DISABLED, answered. -/
theorem exec_laneReset {s : State} {tag : Byte} {l : LaneId} (h : s.Takes 0x12 tag [BitVec.ofNat 8 l.val])
    (state : (s.lane l).state ≠ .disabled) :
    exec .laneReset s = .next ((s.onLanes (LaneSide.reset l)).reply 0x12 tag .ok .empty) := by
  have act : onLane (BitVec.ofNat 8 l.val).toNat laneResetAnswer s = (.ok, .empty, s.onLanes (LaneSide.reset l)) := by
    rw [onLane_some (laneOf_byte l), laneResetAnswer, if_neg state]
  exact State.carry_body h rfl (bodyNumber_byte _) act ((s.laneSide.reset_kept l).restart.trans h.restart)

/-- Settles O20: a lane that leaves its state keeps its settings, and what `LaneSide.Left` says of the engine follows. -/
theorem laneSetAndLaneResetMoveTheLane : Obligations.LaneSetAndLaneResetMoveTheLane := by
  refine ⟨fun s tag body b l h hb hl preference bypass tolerance counting => ⟨fun enable state => ?_, fun enable state => ?_⟩,
    fun s tag n above h => ?_, fun s tag l h => ⟨fun state => ?_, fun state => ?_⟩⟩
  · have left := LaneSide.setLane_disables (v := s.laneSide) (l := l) enable
      (LaneSettings.with_enable enable preference bypass tolerance counting _) state
    obtain ⟨record, slips⟩ := left.record
    rw [LaneSide.onPanel_lane, LaneSide.put_lane_self] at record slips
    obtain ⟨refu, progs, dmc, pfu, out, pending⟩ := s.onLanes_frame (LaneSide.setLane l b) 0x11 tag .ok .empty
    have raised (a : AlarmId) (loss : a ≠ .noticeLoss) (slip : a ≠ .slip l) (lost : ∀ q, q ≠ l → a ≠ .laneLost q) :=
      left.raised a loss slip lost
    refine ⟨s.onLanes (LaneSide.setLane l b), exec_laneSet_ok h hb hl tolerance, ⟨fun idle => State.onLanes_panel (left.idle idle),
      fun running queue => State.onLanes_panel (left.engine running queue)⟩, congrArg Lane.state record, congrArg Lane.settled record,
      congrArg Lane.active record, congrArg Lane.grade record, congrArg Lane.settings record, fun opened => ?_, fun closed => ?_,
      (raised _ (by simp) (by simp) fun q e => by simp [Ne.symm e]).trans (Panel.clearLane_isRaised l _).1,
      (raised _ (by simp) (by simp) (by simp)).trans (Panel.clearLane_isRaised l _).2, fun running => ?_, left.queue,
      (congrArg Lane.latency record :), slips, refu, progs, dmc, pfu, out, pending, left.others⟩
    · have gauge := congrArg Lane.gauge record
      rw [Lane.toDisabled, Gauge.disabled, if_pos (by exact opened)] at gauge
      exact ⟨congrArg Gauge.mode gauge, congrArg Gauge.count gauge⟩
    · have gauge := congrArg Lane.gauge record
      rw [Lane.toDisabled, Gauge.disabled, if_neg (by exact ne_true_of_eq_false closed)] at gauge
      exact ⟨congrArg Gauge.mode gauge, (congrArg Gauge.count gauge :)⟩
    · obtain ⟨granted, effective, fifo, fade⟩ := left.cleared running
      exact ⟨granted, effective, fifo, fade, left.slip running⟩
  · have set := LaneSide.setLane_enables (v := s.laneSide) (l := l) enable
      (LaneSettings.with_enable enable preference bypass tolerance counting _) state
    refine ⟨s.onLanes (LaneSide.setLane l b), exec_laneSet_ok h hb hl tolerance, ?_⟩
    rw [State.onLanes_put set, show (s.lane l).state = .disabled from state]
    refine ⟨rfl, rfl, ?_, ?_, ?_, rfl, rfl, rfl, rfl, rfl, rfl, fun m e => s.setLane_lane_other _ e⟩
    all_goals rw [State.reply_lane]
    · exact congrArg Lane.state (s.setLane_lane_self l _)
    · exact congrArg Lane.gauge (s.setLane_lane_self l _)
    · exact congrArg Lane.settings (s.setLane_lane_self l _)
  · exact State.carry_body h rfl (bodyNumber_byte n) (onLane_none (laneOf_above above) _ s) h.restart
  · have act : onLane (BitVec.ofNat 8 l.val).toNat laneResetAnswer s = (.state, .empty, s) := by
      rw [onLane_some (laneOf_byte l), laneResetAnswer, if_pos state]
    exact State.carry_body h rfl (bodyNumber_byte _) act h.restart
  · obtain ⟨w, reset, left⟩ := s.laneSide.reset_leaves l
    obtain ⟨record, slips⟩ := left.record
    rw [LaneSide.onPanel_lane, LaneSide.put_lane_self] at record slips
    obtain ⟨refu, progs, dmc, pfu, out, pending⟩ := s.onLanes_frame (LaneSide.reset l) 0x12 tag .ok .empty
    refine ⟨s.onLanes (LaneSide.reset l), exec_laneReset h state, ?_⟩
    have lane (m : LaneId) : ((s.onLanes (LaneSide.reset l)).reply 0x12 tag .ok .empty).lane m = w.lane m :=
      (congrArg (LaneSide.lane · m) reset :)
    have wch : (s.onLanes (LaneSide.reset l)).wch = (w.panel.clearLane l).wch := (congrArg (fun v => v.panel.wch) reset :)
    have lnk : (s.onLanes (LaneSide.reset l)).lnk = (w.panel.clearLane l).lnk := (congrArg (fun v => v.panel.lnk) reset :)
    have admission : ((s.onLanes (LaneSide.reset l)).reply 0x12 tag .ok .empty).front.admission = w.front.admission :=
      (congrArg (fun v => v.front.admission) reset :)
    simp only [lane, admission, State.reply_wch, wch, lnk]
    refine ⟨⟨fun idle => ?_, fun running queue => ?_⟩, congrArg Lane.state record, congrArg Lane.settled record,
      congrArg Lane.active record, congrArg Lane.grade record, congrArg Lane.senseGates record, congrArg Lane.deadRun record,
      congrArg Lane.gauge record, (congrArg Lane.settings record :),
      (Panel.clearLane_isRaised l _).1, (Panel.clearLane_isRaised l _).2, fun running => ?_, left.queue,
      (congrArg Lane.latency record :), slips, refu, progs, dmc, pfu, out, pending, left.others⟩
    · rw [left.idle idle]; exact ⟨rfl, rfl⟩
    · rw [left.engine running queue]; exact ⟨rfl, rfl⟩
    · obtain ⟨granted, effective, fifo, fade⟩ := left.cleared running
      refine ⟨granted, effective, fifo, fade, ?_⟩
      rw [Panel.clearLane_isRaised_other _ (by simp) (by simp) (by simp)]
      exact left.slip running

end Sys2Proof.Machine

/-! Bit clock activity and frame markers (R2, R3, R4, R8, R9, R28, R30, R34). -/
namespace Sys2Proof.Machine

/-! ## The fill has moved (R30, R34) -/

/-- Whether this lane's fill calls for a slip that is not wanted yet (R30). -/
def Lane.callsSlip (x : Lane) : Bool :=
  !x.conv.slipWanted && (decide (x.conv.fifo.length < 16) || decide (240 < x.conv.fifo.length))

/-- Whether this lane's fill takes it out of bypass by choice (R34). -/
def Lane.fillLeaves (x : Lane) : Bool :=
  x.conv.granted == .bypass && !x.conv.forced && (decide (x.conv.fifo.length < 96) || decide (160 < x.conv.fifo.length))

/-- The grant of a lane whose fill has moved, with these taps free (R34, R36). -/
def Lane.fillGrant (free : Nat) (x : Lane) : ConvMode :=
  if x.fillLeaves = true then grantedMode x.settings.preference x.channels free else x.conv.granted

/-- A running lane whose fill has moved (R30, R34, R40). -/
def Lane.afterFill (free : Nat) (x : Lane) : Lane :=
  let fades : Bool := x.conv.fade == .none && (x.callsSlip || x.fillLeaves)
  { x with conv := { x.conv with
      slipWanted := x.conv.slipWanted || x.callsSlip, granted := x.fillGrant free,
      fade := if fades then .fadeOut else x.conv.fade, fadePos := if fades then 480 else x.conv.fadePos } }

/-- A lane that wants a slip (R30). -/
def Lane.slipAsked (x : Lane) : Lane := { x with conv := ({ x.conv with slipWanted := true } : Converter).askFade }

theorem Lane.slipAsked_eq (x : Lane) : x.slipAsked = { x with conv := { x.conv with
    slipWanted := true, fade := if x.conv.fade = .none then .fadeOut else x.conv.fade,
    fadePos := if x.conv.fade = .none then 480 else x.conv.fadePos } } := by
  rw [Lane.slipAsked, Converter.askFade_eq]

/-- A lane whose slip, if its fill calls for one, is asked for. -/
def Lane.slipJudged (x : Lane) : Lane := if x.callsSlip = true then x.slipAsked else x

theorem Lane.slipJudged_eq (x : Lane) : x.slipJudged = { x with conv := { x.conv with
    slipWanted := x.conv.slipWanted || x.callsSlip,
    fade := if x.conv.fade = .none ∧ x.callsSlip = true then .fadeOut else x.conv.fade,
    fadePos := if x.conv.fade = .none ∧ x.callsSlip = true then 480 else x.conv.fadePos } } := by
  unfold Lane.slipJudged
  split
  · next slips => simp only [Lane.slipAsked_eq, slips, Bool.or_true, and_true]
  · next quiet => simp [quiet]

theorem LaneSide.fillMoved_eq {v : LaneSide} {l : LaneId} (running : (v.lane l).state = .running) : v.fillMoved l =
    if (v.lane l).fillLeaves = true then (v.put l (v.lane l).slipJudged).ask l else v.put l (v.lane l).slipJudged := by
  have slip : (if (v.lane l).state = .running ∧ ((v.lane l).conv.fill < 16 ∨ 240 < (v.lane l).conv.fill)
        ∧ (v.lane l).conv.slipWanted = false then
      v.modConv l fun c => ({ c with slipWanted := true } : Converter).askFade else v) = v.put l (v.lane l).slipJudged := by
    have calls : ((v.lane l).state = .running ∧ ((v.lane l).conv.fill < 16 ∨ 240 < (v.lane l).conv.fill)
        ∧ (v.lane l).conv.slipWanted = false) ↔ (v.lane l).callsSlip = true := by
      simp [Lane.callsSlip, Converter.fill, running, and_comm]
    rw [Lane.slipJudged]
    by_cases h : (v.lane l).callsSlip = true
    · rw [if_pos (calls.2 h), if_pos h]; rfl
    · rw [if_neg fun g => h (calls.1 g), if_neg h, LaneSide.put_self]
  have leaves : ((v.lane l).judgesExit = true ∧ ((v.lane l).conv.fill < 96 ∨ 160 < (v.lane l).conv.fill))
      ↔ (v.lane l).fillLeaves = true := by
    simp [Lane.judgesExit_iff, Lane.fillLeaves, Converter.fill, running, and_assoc]
  unfold LaneSide.fillMoved
  dsimp only
  rw [slip]
  by_cases h : (v.lane l).fillLeaves = true
  · rw [if_pos (leaves.2 h), if_pos h]; rfl
  · rw [if_neg fun g => h (leaves.1 g), if_neg h]

/-- What a moved fill does to a running lane and to the others. -/
structure LaneSide.FillJudged (l : LaneId) (v w : LaneSide) : Prop where
  lane : w.lane l = (v.lane l).afterFill v.front.freeTaps
  others : ∀ m, m ≠ l → (v.lane m).Downgraded (w.lane m)
  room : (v.lane l).fillLeaves = false ∨ 32 * (v.lane l).channels ≤ v.front.freeTaps → ∀ m, m ≠ l → w.lane m = v.lane m
  admission : w.front.admission = v.front.admission
  panel : w.panel = v.panel

theorem LaneSide.fillMoved_judged {v : LaneSide} {l : LaneId} (running : (v.lane l).state = .running) :
    LaneSide.FillJudged l v (v.fillMoved l) := by
  rw [LaneSide.fillMoved_eq running]
  by_cases leaves : (v.lane l).fillLeaves = true
  · rw [if_pos leaves]
    have lane : (v.put l (v.lane l).slipJudged).lane l = (v.lane l).slipJudged := LaneSide.put_lane_self _ _ _
    have bypass : (v.lane l).conv.granted = .bypass := by
      simp only [Lane.fillLeaves, Bool.and_eq_true, beq_iff_eq] at leaves
      exact leaves.1.1
    have cost (x : Lane) (h : x.conv.granted = .bypass) : x.cost = 0 := by simp [Lane.cost, h, ConvMode.cost]
    have free : ((v.lane l).slipJudged).cost = 0 := cost _ (by rw [Lane.slipJudged_eq]; exact bypass)
    have taps : (v.put l (v.lane l).slipJudged).front.freeTaps = v.front.freeTaps :=
      LaneSide.freeTaps_put (free.trans (cost _ bypass).symm)
    obtain ⟨asked, others, room, regranted⟩ := LaneSide.ask_running (v := v.put l (v.lane l).slipJudged) (l := l)
      (by rw [lane, Lane.slipJudged_eq]; exact running) (by rw [lane]; exact free)
    have channels : (v.lane l).slipJudged.channels = (v.lane l).channels := by rw [Lane.slipJudged_eq]; rfl
    rw [lane] at asked room
    rw [taps] at asked room
    rw [channels] at asked room
    have other (m : LaneId) (e : m ≠ l) : (v.put l (v.lane l).slipJudged).lane m = v.lane m := LaneSide.put_lane_other _ _ e
    refine ⟨?_, fun m e => ?_, fun fits m e => ?_, regranted.admission, regranted.panel⟩
    · rw [asked, Lane.regranted_eq, Lane.slipJudged_eq, Lane.afterFill, Lane.fillGrant, if_pos leaves]
      by_cases quiet : (v.lane l).conv.fade = .none <;> by_cases slips : (v.lane l).callsSlip = true <;>
        simp [quiet, slips, leaves]
    · have down := others m e
      rwa [other m e] at down
    · rw [room (fits.resolve_left (by simp [leaves])) m e, other m e]
  · rw [if_neg leaves]
    refine ⟨?_, fun m e => .inl (LaneSide.put_lane_other _ _ e), fun _ m e => LaneSide.put_lane_other _ _ e, rfl, rfl⟩
    rw [LaneSide.put_lane_self, Lane.slipJudged_eq, Lane.afterFill, Lane.fillGrant, if_neg leaves]
    simp [leaves]

theorem LaneSide.fillMoved_idle {v : LaneSide} {l : LaneId} (idle : (v.lane l).state ≠ .running) : v.fillMoved l = v := by
  have exits : ¬(v.lane l).judgesExit = true := fun h => idle ((Lane.judgesExit_iff _).1 h).1
  unfold LaneSide.fillMoved
  simp [idle, exits]

/-! ## Closed frames (R2, R3, R9) -/

theorem allSlots_eq : allSlots = List.finRange 8 := by decide

theorem mem_allSlots (k : SlotId) : k ∈ allSlots := by revert k; decide

theorem frameSound_iff (f : LaneFrame) :
    frameSound f = true ↔ f.bitPeriods = 256 ∧ ∀ k : SlotId, slotParityCorrect (f.slots.getD k.val 0) = true := by
  simp only [frameSound, frameFull, Bool.and_eq_true, beq_iff_eq, List.all_eq_true, mem_allSlots, true_implies]
  rfl

theorem frameInvalid_whole {f : LaneFrame} (h : f.bitPeriods = 256) (active : BitVec 8) : frameInvalid f active =
    (List.finRange 8).countP fun k => active.getLsbD k.val && !slotValid (f.slots.getD k.val 0) := by
  rw [frameInvalid, if_pos (by simp [frameFull, h]), List.countP_eq_length_filter, allSlots_eq]
  rfl

theorem frameInvalid_short {f : LaneFrame} (h : f.bitPeriods ≠ 256) (active : BitVec 8) : frameInvalid f active = 0 :=
  if_neg (by simp [frameFull, h])

theorem frameHanded_length (f : LaneFrame) (active : BitVec 8) : (frameHanded f active).length = 8 := by
  unfold frameHanded
  split <;> rfl

/-- The sample of each slot of the frame handed to the converter (R3). -/
theorem frameHanded_slot (f : LaneFrame) (active : BitVec 8) (k : SlotId) : (frameHanded f active)[k.val]? = some
    (if f.bitPeriods = 256 ∧ active.getLsbD k.val = true ∧ slotParityCorrect (f.slots.getD k.val 0) = true
        ∧ slotValid (f.slots.getD k.val 0) = true
      then slotSample (f.slots.getD k.val 0) else 0) := by
  unfold frameHanded
  by_cases whole : f.bitPeriods = 256
  · rw [if_pos (by simp [frameFull, whole]), allSlots_eq, List.getElem?_map]
    simp [framedSample, frameWord, whole, and_assoc]
  · rw [if_neg (by simp [frameFull, whole]), if_neg fun h => whole h.1, Frame.silent, List.getElem?_replicate, if_pos k.isLt]

theorem flagBit_eq (b : Bool) (n : Nat) : flagBit b n = 2 ^ n * b.toNat := by cases b <;> simp [flagBit]

/-- The bits of a mask built flag by flag. -/
theorem getLsbD_flags (b : SlotId → Bool) (k : SlotId) :
    (BitVec.ofNat 8 ((allSlots.map fun k => flagBit (b k) k.val).sum)).getLsbD k.val = b k := by
  have bits : (allSlots.map fun k => flagBit (b k) k.val).sum = Nat.ofBits b := by
    simp only [allSlots, List.map_cons, List.map_nil, List.sum_cons, List.sum_nil, flagBit_eq, Nat.ofBits, Fin.foldr_succ, Fin.foldr_zero]
    simp
    omega
  rw [bits, BitVec.getLsbD_ofNat, Nat.testBit_ofBits_lt b k.val k.isLt]
  simp

theorem frameValid_slot (f : LaneFrame) (k : SlotId) : (frameValid f).getLsbD k.val = slotValid (f.slots.getD k.val 0) :=
  getLsbD_flags (fun k => slotValid (frameWord f k)) k

/-! ## Activity and markers (R2, R4, R8) -/

theorem Gauge.mark_eq (g : Gauge) : g.mark = { g with count := if g.mode = .closed then g.count else g.count + 1 } := by
  rcases g with ⟨mode, _, _, _⟩
  cases mode <;> rfl

/-- A lane whose bit clock has moved, and of which a marker has been counted. -/
def Lane.marked (x : Lane) : Lane := { x with activity := true, gauge := x.gauge.mark, frameOpen := true }

theorem Lane.marked_opened {x : Lane} (h : x.frameOpen = true) : x.marked = { x with activity := true, gauge := x.gauge.mark } := by
  unfold Lane.marked
  congr
  exact h.symm

theorem LaneSide.activity_present {v : LaneSide} {l : LaneId} (h : (v.lane l).state ≠ .absent) :
    v.activity l = v.put l { v.lane l with activity := true } := by
  rw [LaneSide.activity, LaneSide.modLane_lane_self, if_neg h]
  rfl

/-- A lane in ABSENT whose bit clock moves is in DETECT (R8). -/
def Lane.detected (x : Lane) : Lane := { x with activity := true, state := .detect, frameOpen := false }

theorem LaneSide.activity_absent {v : LaneSide} {l : LaneId} (h : (v.lane l).state = .absent) :
    v.activity l = (v.put l (v.lane l).detected).onPanel ((v.lane l).detected.moveNotice l .absent) := by
  rw [LaneSide.activity, LaneSide.modLane_lane_self, if_pos h, LaneSide.move_eq, LaneSide.modLane_lane_self,
    LaneSide.modLane_eq_put, LaneSide.put_put, h]
  rfl

theorem LaneSide.marker_present {v : LaneSide} {l : LaneId} {f : LaneFrame} (bits : 0 < f.bitPeriods)
    (h : (v.lane l).state ≠ .absent) : v.marker l f =
      if (v.lane l).frameOpen then (v.put l (v.lane l).marked).closeFrame l f else v.put l (v.lane l).marked := by
  rw [LaneSide.marker, if_pos bits, LaneSide.activity_present h]
  simp only [LaneSide.modLane_eq_put, LaneSide.put_lane_self, LaneSide.put_put]
  rfl

theorem LaneSide.marker_absent {v : LaneSide} {l : LaneId} {f : LaneFrame} (bits : 0 < f.bitPeriods)
    (h : (v.lane l).state = .absent) : v.marker l f =
      (v.put l (v.lane l).detected.marked).onPanel ((v.lane l).detected.moveNotice l .absent) := by
  rw [LaneSide.marker, if_pos bits, LaneSide.activity_absent h]
  simp only [LaneSide.modLane_eq_put, LaneSide.put_onPanel, LaneSide.onPanel_lane, LaneSide.put_lane_self, LaneSide.put_put]
  rfl

/-! ## A frame closed -/

theorem Lane.judgeFrame_sound {f : LaneFrame} (h : frameSound f = true) (x : Lane) :
    x.judgeFrame f = { x with validAll := x.validAll &&& frameValid f } := if_pos h

theorem Lane.judgeFrame_unsound {f : LaneFrame} (h : ¬frameSound f = true) (x : Lane) :
    x.judgeFrame f = { x with framing := min 65535 (x.framing + 1) } := if_neg h

/-- What a closed frame leaves of the per-gate counts. -/
theorem Lane.judgeFrame_counts (f : LaneFrame) (x : Lane) : ∃ (framing : Nat) (valid : BitVec 8),
    (frameSound f = true → framing = x.framing ∧ valid = x.validAll &&& frameValid f)
    ∧ (¬frameSound f = true → framing = min 65535 (x.framing + 1) ∧ valid = x.validAll)
    ∧ x.judgeFrame f = { x with framing := framing, validAll := valid } := by
  by_cases sound : frameSound f = true
  · exact ⟨_, _, fun _ => ⟨rfl, rfl⟩, fun h => absurd sound h, x.judgeFrame_sound sound⟩
  · exact ⟨_, _, fun h => absurd h sound, fun _ => ⟨rfl, rfl⟩, x.judgeFrame_unsound sound⟩

theorem Lane.judgeFrame_state (f : LaneFrame) (x : Lane) : (x.judgeFrame f).state = x.state := by
  unfold Lane.judgeFrame
  split <;> rfl

theorem LaneSide.closeFrame_eq (v : LaneSide) (l : LaneId) (f : LaneFrame) : v.closeFrame l f =
    match (v.lane l).state with
    | .detect => if frameSound f then (v.put l ((v.lane l).judgeFrame f)).enterSense l else v.put l ((v.lane l).judgeFrame f)
    | .running => (v.put l ((v.lane l).judgeFrame f)).handFrame l f
    | _ => v.put l ((v.lane l).judgeFrame f) := by
  rw [LaneSide.closeFrame, LaneSide.modLane_lane_self, Lane.judgeFrame_state]
  rfl

/-- A lane that enters SENSE (R8, R9, R11). -/
def Lane.sensing (x : Lane) : Lane := { x with state := .sense, prevSense := none, deadRun := 0, gateInSense := false }

theorem LaneSide.closeFrame_detect {v : LaneSide} {l : LaneId} {f : LaneFrame} (state : (v.lane l).state = .detect)
    (sound : frameSound f = true) : v.closeFrame l f =
      (v.put l ((v.lane l).judgeFrame f).sensing).onPanel (((v.lane l).judgeFrame f).sensing.moveNotice l .detect) := by
  rw [LaneSide.closeFrame_eq, state]
  simp only [sound, if_true]
  rw [LaneSide.enterSense, LaneSide.move_eq, LaneSide.put_lane_self, LaneSide.put_put, Lane.judgeFrame_state, state]
  rfl

theorem LaneSide.closeFrame_counts {v : LaneSide} {l : LaneId} {f : LaneFrame} (running : (v.lane l).state ≠ .running)
    (detect : (v.lane l).state = .detect → ¬frameSound f = true) : v.closeFrame l f = v.put l ((v.lane l).judgeFrame f) := by
  rw [LaneSide.closeFrame_eq]
  split
  · next state => rw [if_neg (detect state)]
  · next state => exact absurd state running
  · rfl

/-- A running lane that has been handed a frame (R3, R28). -/
def Lane.handed (f : LaneFrame) (x : Lane) : Lane :=
  { x with invalid := min 65535 (x.invalid + frameInvalid f x.active), conv := x.conv.push (frameHanded f x.active) }

theorem LaneSide.closeFrame_running {v : LaneSide} {l : LaneId} {f : LaneFrame} (state : (v.lane l).state = .running) :
    v.closeFrame l f = (v.put l (((v.lane l).judgeFrame f).handed f)).fillMoved l := by
  rw [LaneSide.closeFrame_eq, state]
  dsimp only
  rw [LaneSide.handFrame, LaneSide.modLane_eq_put, LaneSide.put_lane_self, LaneSide.put_put]
  rfl

theorem Converter.push_eq (f : Frame) (c : Converter) :
    c.push f = { c with fifo := if c.fifo.length < 256 then c.fifo ++ [f] else c.fifo } := by
  by_cases room : c.fifo.length < 256
  · rw [Converter.push, if_pos (show c.fill < Config.fifoCapacity from room), if_pos room]
  · rw [Converter.push, if_neg (show ¬c.fill < Config.fifoCapacity from room), if_neg room]

theorem exec_laneActivity {s : State} (on : s.powered = true) (l : LaneId) :
    exec (.laneActivity l) s = .next (s.onLanes (LaneSide.activity l)).transmit :=
  s.carry_on on fun s => s.onLanes (LaneSide.activity l)

theorem exec_laneFrameClosed {s : State} (on : s.powered = true) (l : LaneId) (f : LaneFrame) :
    exec (.laneFrameClosed l f) s = .next (s.onLanes (LaneSide.marker l f)).transmit :=
  s.carry_on on fun s => s.onLanes (LaneSide.marker l f)

/-- A lane's record changed and nothing else. -/
theorem State.onLanes_setLane {s : State} {f : LaneSide → LaneSide} {l : LaneId} {x : Lane} (h : f s.laneSide = s.laneSide.put l x) :
    s.onLanes f = s.setLane l x := State.onLanes_put (g := id) h

/-- Settles O21: each event in the form of the lane's record afterwards; on a running lane `LaneSide.fillMoved_judged` says the rest. -/
theorem activityAndFrameMarkers : Obligations.ActivityAndFrameMarkers := by
  refine ⟨fun s l on => ⟨fun present => ?_, fun absent => ?_⟩, fun s l f on bits => ?_⟩
  · rw [exec_laneActivity on, State.onLanes_setLane (LaneSide.activity_present present)]
    rfl
  · rw [exec_laneActivity on, State.onLanes_put (LaneSide.activity_absent absent)]
    rfl
  intro x gauge word whole sound
  have mark : x.gauge.mark = gauge := x.gauge.mark_eq
  have soundFrame : frameSound f = true ↔ sound := frameSound_iff f
  have marked : x.marked = { x with activity := true, gauge := gauge, frameOpen := true } := by rw [Lane.marked, mark]
  have kept (opened : x.frameOpen = true) : x.marked = { x with activity := true, gauge := gauge } := by
    rw [Lane.marked_opened opened, mark]
  have closes (opened : x.frameOpen = true) (present : x.state ≠ .absent) :
      s.laneSide.marker l f = (s.laneSide.put l x.marked).closeFrame l f := by
    rw [LaneSide.marker_present (v := s.laneSide) (l := l) bits present]
    exact if_pos opened
  have lane : (s.laneSide.put l x.marked).lane l = x.marked := LaneSide.put_lane_self _ _ _
  refine ⟨fun absent => ?_, fun shut present => ?_, fun opened running => ?_, fun opened detect good => ?_,
    fun opened notRunning present bad => ?_⟩
  · rw [exec_laneFrameClosed on, State.onLanes_put (LaneSide.marker_absent bits absent)]
    rw [Lane.marked, show (s.laneSide.lane l).detected.gauge.mark = gauge from mark]
    rfl
  · have marker : s.laneSide.marker l f = s.laneSide.put l x.marked := by
      rw [LaneSide.marker_present (v := s.laneSide) (l := l) bits present]
      exact if_neg (ne_true_of_eq_false shut)
    rw [exec_laneFrameClosed on, State.onLanes_setLane marker, marked]
  · obtain ⟨framing, valid, good, bad, judged⟩ := Lane.judgeFrame_counts f x.marked
    have run : (s.laneSide.put l x.marked).closeFrame l f
        = (s.laneSide.put l ((x.marked.judgeFrame f).handed f)).fillMoved l := by
      rw [LaneSide.closeFrame_running (by rw [lane]; exact running), lane, LaneSide.put_put]
    have handed : (s.laneSide.put l ((x.marked.judgeFrame f).handed f)).lane l = (x.marked.judgeFrame f).handed f :=
      LaneSide.put_lane_self _ _ _
    have fill := LaneSide.fillMoved_judged (v := s.laneSide.put l ((x.marked.judgeFrame f).handed f)) (l := l)
      (by rw [handed, judged]; exact running)
    have taps : (s.laneSide.put l ((x.marked.judgeFrame f).handed f)).front.freeTaps = s.front.freeTaps := by
      refine LaneSide.freeTaps_put ?_
      rw [judged, Lane.handed, Converter.push_eq]
      rfl
    have other (m : LaneId) (e : m ≠ l) : (s.laneSide.put l ((x.marked.judgeFrame f).handed f)).lane m = s.lane m :=
      LaneSide.put_lane_other _ _ e
    refine ⟨frameHanded f x.active, framing, min 65535 (x.invalid + frameInvalid f x.active), valid,
      ((s.laneSide.put l ((x.marked.judgeFrame f).handed f)).fillMoved l).front, frameHanded_length f _, frameHanded_slot f _,
      fun h => (good (soundFrame.2 h)).1, fun h => (bad fun g => h (soundFrame.1 g)).1, fun h => ?_, fun h => ?_, ?_, fill.admission, ?_,
      fun fits m e => ?_, fun m e => ?_⟩
    · rw [frameInvalid_short h]; rfl
    · rw [frameInvalid_whole h]
    · have panel : (s.laneSide.marker l f).panel = s.laneSide.panel := by rw [closes opened (by rw [running]; decide), run, fill.panel]; rfl
      rw [exec_laneFrameClosed on, State.onLanes_front_only panel, closes opened (by rw [running]; decide), run]
    · refine fill.lane.trans ?_
      rw [handed, taps, judged, kept opened, Lane.handed, Converter.push_eq]
      simp only [Lane.afterFill, Lane.callsSlip, Lane.fillLeaves, Lane.fillGrant, grantedMode, Lane.channels_eq]
    · refine (fill.room ?_ m e).trans (other m e)
      rw [handed, taps, judged, kept opened, Lane.handed, Converter.push_eq]
      simp only [Lane.fillLeaves, Lane.channels_eq]
      exact fits
    · have down := fill.others m e
      rw [other m e] at down
      rw [Lane.Downgraded, Lane.regranted_eq] at down
      exact down
  · have sense := LaneSide.closeFrame_detect (v := s.laneSide.put l x.marked) (l := l) (f := f)
      (by rw [lane]; exact detect) (soundFrame.2 good)
    rw [lane, LaneSide.put_put, Lane.judgeFrame_sound (soundFrame.2 good)] at sense
    have sense := (closes opened (by rw [detect]; decide)).trans sense
    rw [kept opened] at sense
    refine ⟨x.validAll &&& frameValid f, ?_⟩
    rw [exec_laneFrameClosed on, State.onLanes_put sense]
    rfl
  · obtain ⟨framing, valid, good, wrong, judged⟩ := Lane.judgeFrame_counts f x.marked
    have counts := LaneSide.closeFrame_counts (v := s.laneSide.put l x.marked) (l := l) (f := f)
      (by rw [lane]; exact notRunning) (by rw [lane]; exact fun detect h => bad detect (soundFrame.1 h))
    rw [lane, LaneSide.put_put, judged] at counts
    have counts := (closes opened present).trans counts
    rw [kept opened] at counts
    refine ⟨framing, valid, fun h => ⟨(good (soundFrame.2 h)).1, fun k => ?_⟩, fun h => wrong fun g => h (soundFrame.1 g), ?_⟩
    · rw [(good (soundFrame.2 h)).2, BitVec.getLsbD_and, frameValid_slot]
      rfl
    · rw [exec_laneFrameClosed on, State.onLanes_setLane counts]

end Sys2Proof.Machine

/-! Gate expiry of a lane that does not run, and the loss of one (R4 to R11, R13). -/
namespace Sys2Proof.Machine

/-! ## The gate's end (R5, R7, R11) -/

/-- The grade of the gate that ends now (R7). -/
def Lane.gateGrade (x : Lane) : Grade :=
  gradeOf x.framing x.gauge.count.toNat x.settings.tolerance (refNominal x.settled (classOf x.gauge.count.toNat))

theorem gradeOf_eq (framing count tolerance : Nat) (nominal : Option Nat) : gradeOf framing count tolerance nominal =
    if 0 < framing then .dead
    else match nominal with
      | none => .weak
      | some n => if (tolerance : Int) < |(count : Int) - n| then .weak else .good := by
  cases nominal with
  | none => rfl
  | some n => simp only [gradeOf, ← Int.natCast_natAbs, Int.ofNat_lt]

/-- The lane as the end of its gate and the start of the next leave it; its dead run is told apart by its state (R11). -/
theorem Lane.endGate_beginGate (x : Lane) : x.endGate.beginGate = { x with
    gauge := { x.gauge with count := 0, history := (x.gauge.count :: x.gauge.history).take 4, elapsed := 0 },
    lastFraming := x.framing, lastInvalid := x.invalid, lastActivity := x.activity, framing := 0, invalid := 0,
    activity := false, grade := x.gateGrade, deadRun := x.nextDeadRun x.gateGrade, gateInSense := x.state == .sense,
    validAll := BitVec.allOnes 8 } := rfl

theorem Lane.nextDeadRun_losable {x : Lane} (h : x.state.losable = true) (g : Grade) :
    x.nextDeadRun g = if g = .dead then min 3 (x.deadRun + 1) else 0 := by
  rw [Lane.nextDeadRun, if_pos h]
  rfl

theorem Lane.nextDeadRun_other {x : Lane} (h : ¬x.state.losable = true) (g : Grade) :
    x.nextDeadRun g = if g = .dead then x.deadRun else 0 := by
  rw [Lane.nextDeadRun, if_neg h]

/-- Whether the gate that ends now loses a lane that can be lost (R11). -/
def Lane.losesGate (x : Lane) : Prop :=
  x.gauge.count.toNat = 0 ∨ (x.gateGrade = .dead ∧ x.nextDeadRun x.gateGrade = 3)

theorem LaneState.losable_iff (st : LaneState) : st.losable = true ↔ st = .sense ∨ st = .waitingBudget ∨ st = .running := by
  cases st <;> simp [LaneState.losable]

/-! ## What becomes of the lane (R8 to R11) -/

theorem LaneSide.judgeGate_eq_self {v : LaneSide} {l : LaneId} {count : Nat}
    (kept : ¬((v.lane l).state.losable = true ∧ (count = 0 ∨ (v.lane l).grade = .dead ∧ (v.lane l).deadRun = 3)))
    (sense : ¬((v.lane l).state = .sense ∧ (v.lane l).gateInSense = true))
    (active : ¬(((v.lane l).state = .detect ∨ (v.lane l).state = .rejected) ∧ (v.lane l).lastActivity = false)) :
    v.judgeGate l count = v := by
  unfold LaneSide.judgeGate
  dsimp only
  rw [if_neg kept, if_neg sense, if_neg active]

/-- A gate that is due, the lane not running afterwards. -/
theorem LaneSide.expireGate_idle {v w : LaneSide} {l : LaneId} (timed : (v.lane l).gauge.mode = .timed)
    (elapsed : 4800 ≤ (v.lane l).gauge.elapsed)
    (judged : (v.put l (v.lane l).endGate).judgeGate l (v.lane l).gauge.count.toNat = w) (idle : (w.lane l).state ≠ .running) :
    v.expireGate l = w.put l (w.lane l).beginGate := by
  have due : (v.lane l).gateDue = true := by simp [Lane.gateDue, timed, Config.gateFrames, elapsed]
  rw [LaneSide.expireGate, if_pos due, v.modLane_eq_put l Lane.endGate]
  dsimp only
  rw [judged, if_neg idle]
  rfl

/-- A gate that is due and changes no state of a lane that does not run: its counts start again and nothing else happens. -/
theorem LaneSide.expireGate_stays {v : LaneSide} {l : LaneId} (timed : (v.lane l).gauge.mode = .timed)
    (elapsed : 4800 ≤ (v.lane l).gauge.elapsed) (running : (v.lane l).state ≠ .running)
    (kept : ¬((v.lane l).state.losable = true ∧ (v.lane l).losesGate))
    (sense : ¬((v.lane l).state = .sense ∧ (v.lane l).gateInSense = true))
    (active : ¬(((v.lane l).state = .detect ∨ (v.lane l).state = .rejected) ∧ (v.lane l).activity = false)) :
    v.expireGate l = v.put l (v.lane l).endGate.beginGate := by
  have lane : (v.put l (v.lane l).endGate).lane l = (v.lane l).endGate := LaneSide.put_lane_self _ _ _
  have judged : (v.put l (v.lane l).endGate).judgeGate l (v.lane l).gauge.count.toNat = v.put l (v.lane l).endGate :=
    LaneSide.judgeGate_eq_self (by rw [lane]; exact kept) (by rw [lane]; exact sense) (by rw [lane]; exact active)
  rw [LaneSide.expireGate_idle timed elapsed judged (by rw [lane]; exact running), lane, LaneSide.put_put]

/-! ## SENSE (R9, R10) -/

/-- The lane after a SENSE gate has been counted (R9). -/
def Lane.senseCounted (x : Lane) : Lane := { x with senseGates := min 10 (x.senseGates + 1) }

theorem SenseGate.settles_iff (a b : SenseGate) :
    a.settles b = true ↔ b.clean = true ∧ a.clean = true ∧ b.cls = a.cls ∧ b.valid &&& a.valid ≠ 0 := by
  have swap : a.valid &&& b.valid = b.valid &&& a.valid := BitVec.and_comm _ _
  simp only [SenseGate.settles, Bool.and_eq_true, beq_iff_eq, bne_iff_ne, ne_eq, swap]
  exact ⟨fun ⟨⟨⟨a, b⟩, c⟩, d⟩ => ⟨b, a, c.symm, d⟩, fun ⟨b, a, c, d⟩ => ⟨⟨⟨a, b⟩, c.symm⟩, d⟩⟩

/-- A SENSE gate that forms no settling pair: the tenth rejects the lane, an earlier one becomes the gate before. -/
theorem LaneSide.judgeSense_alone {v : LaneSide} {l : LaneId} {count : Nat}
    (alone : ∀ prev, (v.lane l).prevSense = some prev → ¬((v.lane l).senseGate count).settles prev = true) :
    v.judgeSense l count =
      if (v.lane l).senseCounted.senseGates = 10 then (v.put l (v.lane l).senseCounted).reject l
      else v.put l { (v.lane l).senseCounted with prevSense := some ((v.lane l).senseGate count) } := by
  unfold LaneSide.judgeSense
  simp only [LaneSide.modLane_eq_put, LaneSide.put_lane_self, LaneSide.put_put]
  split
  · next p prev =>
    refine (if_neg ?_).trans rfl
    exact alone p prev
  · rfl

theorem LaneSide.reject_eq (v : LaneSide) (l : LaneId) : v.reject l =
    (v.put l { v.lane l with state := .rejected }).onPanel fun p =>
      (({ v.lane l with state := .rejected } : Lane).moveNotice l (v.lane l).state p).raise (.laneRejected l) := by
  rw [LaneSide.reject, LaneSide.move_eq]
  rfl

theorem LaneSide.judgeGate_sense {v : LaneSide} {l : LaneId} {count : Nat} (state : (v.lane l).state = .sense)
    (whole : (v.lane l).gateInSense = true) (kept : ¬(count = 0 ∨ (v.lane l).grade = .dead ∧ (v.lane l).deadRun = 3)) :
    v.judgeGate l count = v.judgeSense l count := by
  unfold LaneSide.judgeGate
  dsimp only
  rw [if_neg fun h => kept h.2, if_pos ⟨state, whole⟩]

/-- A SENSE gate judged alone, the lane not lost. -/
theorem LaneSide.expireGate_sense {v : LaneSide} {l : LaneId} (timed : (v.lane l).gauge.mode = .timed)
    (elapsed : 4800 ≤ (v.lane l).gauge.elapsed) (state : (v.lane l).state = .sense) (whole : (v.lane l).gateInSense = true)
    (kept : ¬(v.lane l).losesGate)
    (alone : ∀ prev, (v.lane l).prevSense = some prev →
      ¬((v.lane l).endGate.senseGate (v.lane l).gauge.count.toNat).settles prev = true) :
    ((v.lane l).senseGates + 1 < 10 → v.expireGate l = v.put l { (v.lane l).endGate.beginGate with
        senseGates := (v.lane l).senseGates + 1
        prevSense := some ((v.lane l).endGate.senseGate (v.lane l).gauge.count.toNat) })
      ∧ (10 ≤ (v.lane l).senseGates + 1 → v.expireGate l =
        (v.put l { (v.lane l).endGate.beginGate with state := .rejected, senseGates := 10, gateInSense := false }).onPanel fun p =>
          (p.offer (.lane l .rejected .sense (v.lane l).settled (v.lane l).active p.now)).raise (.laneRejected l)) := by
  generalize hx : v.lane l = x at *
  have lane : (v.put l x.endGate).lane l = x.endGate := LaneSide.put_lane_self _ _ _
  have judged := (LaneSide.judgeGate_sense (v := v.put l x.endGate) (l := l) (count := x.gauge.count.toNat)
    (by rw [lane]; exact state) (by rw [lane]; exact whole) (by rw [lane]; exact kept)).trans
    (LaneSide.judgeSense_alone (by rw [lane]; exact alone))
  rw [lane, LaneSide.put_put, LaneSide.put_put] at judged
  refine ⟨fun early => ?_, fun tenth => ?_⟩
  · have count : x.endGate.senseCounted.senseGates = x.senseGates + 1 := min_eq_right (show x.senseGates + 1 ≤ 10 by omega)
    rw [if_neg (by rw [count]; omega), ← hx] at judged
    rw [LaneSide.expireGate_idle (by rw [hx]; exact timed) (by rw [hx]; exact elapsed) judged
      (by rw [LaneSide.put_lane_self, hx]; exact fun h => absurd (state.symm.trans h) (by decide)), LaneSide.put_lane_self, LaneSide.put_put, hx, ← count]
    rfl
  · have count : x.endGate.senseCounted.senseGates = 10 := min_eq_left (show 10 ≤ x.senseGates + 1 from tenth)
    rw [if_pos count, LaneSide.reject_eq, LaneSide.put_lane_self, LaneSide.put_put, ← hx] at judged
    rw [LaneSide.expireGate_idle (by rw [hx]; exact timed) (by rw [hx]; exact elapsed) judged
      (by rw [LaneSide.onPanel_lane, LaneSide.put_lane_self]; simp), LaneSide.onPanel_lane, LaneSide.put_lane_self,
      LaneSide.put_onPanel, LaneSide.put_put, hx, ← count, show x.endGate.senseCounted.state = .sense from state]
    rfl

/-! ## Silence and loss (R8, R10, R11) -/

theorem LaneSide.fallSilent_eq (v : LaneSide) (l : LaneId) : v.fallSilent l =
    (v.put l (v.lane l).toAbsent).onPanel fun p =>
      if (v.lane l).state = .rejected then ((v.lane l).toAbsent.moveNotice l (v.lane l).state p).clear (.laneRejected l)
      else (v.lane l).toAbsent.moveNotice l (v.lane l).state p := by
  rw [LaneSide.fallSilent, LaneSide.move_eq]
  split <;> rfl

/-- A DETECT or REJECTED lane whose gate saw no transition on the bit clock is in ABSENT. -/
theorem LaneSide.expireGate_silent {v : LaneSide} {l : LaneId} (timed : (v.lane l).gauge.mode = .timed)
    (elapsed : 4800 ≤ (v.lane l).gauge.elapsed) (state : (v.lane l).state = .detect ∨ (v.lane l).state = .rejected)
    (silent : (v.lane l).activity = false) : v.expireGate l =
      (v.put l (v.lane l).endGate.toAbsent.beginGate).onPanel fun p =>
        if (v.lane l).state = .rejected then ((v.lane l).endGate.toAbsent.moveNotice l (v.lane l).state p).clear (.laneRejected l)
        else (v.lane l).endGate.toAbsent.moveNotice l (v.lane l).state p := by
  have lane : (v.put l (v.lane l).endGate).lane l = (v.lane l).endGate := LaneSide.put_lane_self _ _ _
  have losable : ¬(v.lane l).state.losable = true := by rcases state with h | h <;> simp [h, LaneState.losable]
  have sense : (v.lane l).state ≠ .sense := by rcases state with h | h <;> simp [h]
  have judged : (v.put l (v.lane l).endGate).judgeGate l (v.lane l).gauge.count.toNat = (v.put l (v.lane l).endGate).fallSilent l := by
    unfold LaneSide.judgeGate
    dsimp only
    rw [lane, if_neg fun h => losable h.1, if_neg fun h => sense h.1, if_pos ⟨state, silent⟩]
  rw [LaneSide.fallSilent_eq, lane, LaneSide.put_put] at judged
  rw [LaneSide.expireGate_idle timed elapsed judged (by rw [LaneSide.onPanel_lane, LaneSide.put_lane_self]; simp [Lane.toAbsent]),
    LaneSide.onPanel_lane, LaneSide.put_lane_self, LaneSide.put_onPanel, LaneSide.put_put]
  rfl

/-- The panel's part in the loss of a lane that was in this state (R11). -/
def Panel.laneLost (l : LaneId) (was : LaneState) (v : Panel) : Panel :=
  if was = .waitingBudget ∨ was = .running then v.raise (.laneLost l) else v

theorem LaneSide.lose_eq (v : LaneSide) (l : LaneId) : v.lose l =
    ((v.put l (v.lane l).toAbsent).onPanel fun p =>
      ((v.lane l).toAbsent.moveNotice l (v.lane l).state p).laneLost l (v.lane l).state).quit l (v.lane l) := by
  rw [LaneSide.lose, LaneSide.move_eq]
  unfold Panel.laneLost
  split <;> rfl

/-- The loss of a lane that can be lost, at the end of its gate. -/
theorem LaneSide.expireGate_lost {v : LaneSide} {l : LaneId} (timed : (v.lane l).gauge.mode = .timed)
    (elapsed : 4800 ≤ (v.lane l).gauge.elapsed) (losable : (v.lane l).state.losable = true) (lost : (v.lane l).losesGate) :
    ∃ w, v.expireGate l = w.put l (w.lane l).beginGate
      ∧ LaneSide.Left l (v.lane l).endGate ((v.put l (v.lane l).endGate.toAbsent).onPanel fun p =>
          ((v.lane l).endGate.toAbsent.moveNotice l (v.lane l).state p).laneLost l (v.lane l).state) w := by
  have lane : (v.put l (v.lane l).endGate).lane l = (v.lane l).endGate := LaneSide.put_lane_self _ _ _
  have judged : (v.put l (v.lane l).endGate).judgeGate l (v.lane l).gauge.count.toNat = (v.put l (v.lane l).endGate).lose l := by
    unfold LaneSide.judgeGate
    dsimp only
    rw [lane, if_pos ⟨losable, lost⟩]
  rw [LaneSide.lose_eq, lane, LaneSide.put_put] at judged
  have left := LaneSide.quit_left (v := (v.put l (v.lane l).endGate.toAbsent).onPanel fun p =>
      ((v.lane l).endGate.toAbsent.moveNotice l (v.lane l).endGate.state p).laneLost l (v.lane l).endGate.state) (l := l)
    (v.lane l).endGate (by rw [LaneSide.onPanel_lane, LaneSide.put_lane_self]; simp [Lane.toAbsent])
  refine ⟨_, LaneSide.expireGate_idle timed elapsed judged ?_, left⟩
  rw [left.record.1, LaneSide.onPanel_lane, LaneSide.put_lane_self]
  simp [Lane.toAbsent]

theorem exec_gateExpiry {s : State} (on : s.powered = true) (l : LaneId) :
    exec (.gateExpiry l) s = .next (s.onLanes (LaneSide.expireGate l)).transmit :=
  s.carry_on on fun s => s.onLanes (LaneSide.expireGate l)

theorem Panel.laneLost_isRaised {l : LaneId} {was : LaneState} (h : was = .waitingBudget ∨ was = .running) (v : Panel) :
    (v.laneLost l was).wch.isRaised (.laneLost l) = true := by
  rw [Panel.laneLost, if_pos h]
  exact Panel.raise_isRaised _ _

/-- Settles O22: the outcome of the gate decides which of the lemmas on `LaneSide.expireGate` applies. -/
theorem gateExpiryGradesOrLosesTheLane : Obligations.GateExpiryGradesOrLosesTheLane := by
  intro s l on timed elapsed x c nominal grade dead lost ended clean panel
  have graded : x.gateGrade = grade := gradeOf_eq _ _ _ _
  have deadRun (h : x.state.losable = true) : x.nextDeadRun x.gateGrade = dead := by rw [Lane.nextDeadRun_losable h, graded]
  have loses (h : x.state.losable = true) : x.losesGate ↔ lost := by rw [Lane.losesGate, deadRun h, graded]
  have record (h : x.state.losable = true) : x.endGate.beginGate = { ended with gateInSense := x.state == .sense } := by
    rw [Lane.endGate_beginGate, deadRun h, graded]
  have gate : x.endGate.senseGate x.gauge.count.toNat = { cls := classOf c, clean := clean, valid := x.validAll } := rfl
  rw [exec_gateExpiry on]
  refine ⟨fun state => ?_, fun waiting kept => ?_, fun sense part kept => ?_, fun sense whole kept alone => ?_,
    fun state silent => ?_, fun state gone => ?_⟩
  · have losable : ¬x.state.losable = true := by
      rcases state with h | h | ⟨h | h, -⟩ <;> rw [h] <;> decide
    have notSense : x.state ≠ .sense := fun h => losable ((LaneState.losable_iff _).2 (.inl h))
    have stays := LaneSide.expireGate_stays (v := s.laneSide) (l := l) timed elapsed
      (fun h => losable ((LaneState.losable_iff _).2 (.inr (.inr h)))) (fun h => losable h.1) (fun h => notSense h.1)
      (by rintro ⟨quiet, silent⟩
          rcases state with h | h | ⟨-, active⟩
          · rcases quiet with g | g <;> exact absurd (h.symm.trans g) (by decide)
          · rcases quiet with g | g <;> exact absurd (h.symm.trans g) (by decide)
          · exact absurd (active.symm.trans silent) (by decide))
    rw [State.onLanes_setLane stays, show s.laneSide.lane l = x from rfl, Lane.endGate_beginGate, graded,
      Lane.nextDeadRun_other losable, beq_eq_false_iff_ne.2 notSense]
  · have losable : x.state.losable = true := (LaneState.losable_iff _).2 (.inr (.inl waiting))
    have stays := LaneSide.expireGate_stays (v := s.laneSide) (l := l) timed elapsed
      (fun h => absurd (waiting.symm.trans h) (by decide)) (fun h => kept ((loses losable).1 h.2))
      (fun h => absurd (waiting.symm.trans h.1) (by decide))
      (fun h => h.1.elim (fun g => absurd (waiting.symm.trans g) (by decide)) fun g => absurd (waiting.symm.trans g) (by decide))
    rw [State.onLanes_setLane stays, show s.laneSide.lane l = x from rfl, record losable,
      show (x.state == .sense) = false by rw [waiting]; rfl]
  · have losable : x.state.losable = true := (LaneState.losable_iff _).2 (.inl sense)
    have stays := LaneSide.expireGate_stays (v := s.laneSide) (l := l) timed elapsed
      (fun h => absurd (sense.symm.trans h) (by decide)) (fun h => kept ((loses losable).1 h.2))
      (fun h => absurd (part.symm.trans h.2) (by decide))
      (fun h => h.1.elim (fun g => absurd (sense.symm.trans g) (by decide)) fun g => absurd (sense.symm.trans g) (by decide))
    rw [State.onLanes_setLane stays, show s.laneSide.lane l = x from rfl, record losable,
      show (x.state == .sense) = true by rw [sense]; rfl]
  · have losable : x.state.losable = true := (LaneState.losable_iff _).2 (.inl sense)
    have gates := LaneSide.expireGate_sense (v := s.laneSide) (l := l) timed elapsed sense whole (fun h => kept ((loses losable).1 h))
      (fun prev h pair => alone prev h ((SenseGate.settles_iff _ _).1 pair))
    rw [show s.laneSide.lane l = x from rfl, record losable, gate] at gates
    refine ⟨fun early => ?_, fun tenth => ?_⟩
    · rw [State.onLanes_setLane (gates.1 early), show (x.state == .sense) = true by rw [sense]; rfl]
    · rw [State.onLanes_put (gates.2 tenth)]
      rfl
  · rw [State.onLanes_put (LaneSide.expireGate_silent (v := s.laneSide) (l := l) timed elapsed state silent),
      show ended.lastActivity = false from silent]
    rfl
  · have losable : x.state.losable = true := (LaneState.losable_iff _).2 state
    obtain ⟨w, expired, left⟩ := LaneSide.expireGate_lost (v := s.laneSide) (l := l) timed elapsed losable ((loses losable).2 gone)
    obtain ⟨record, -⟩ := left.record
    rw [LaneSide.onPanel_lane, LaneSide.put_lane_self] at record
    have lane : (s.onLanes (LaneSide.expireGate l)).transmit.lane l = (w.lane l).beginGate := by
      refine Eq.trans (b := (s.laneSide.expireGate l).lane l) rfl ?_
      rw [expired, LaneSide.put_lane_self]
    have admission : (s.onLanes (LaneSide.expireGate l)).transmit.front.admission = w.front.admission :=
      (congrArg (fun v => v.front.admission) expired :)
    have wch : (s.onLanes (LaneSide.expireGate l)).transmit.wch = w.panel.wch := (congrArg (fun v => v.panel.wch) expired :)
    have raised := left.raised (.laneLost l) (by simp) (by simp) fun q e => by simp [Ne.symm e]
    refine ⟨_, rfl, ?_⟩
    rw [lane, admission, wch, record]
    refine ⟨rfl, rfl, rfl, rfl, rfl, rfl, rfl, rfl, rfl, rfl, fun notSense => ?_, fun sense => ?_, rfl, rfl, rfl, rfl, rfl⟩
    · have engaged := state.resolve_left notSense
      exact ⟨raised.trans (Panel.laneLost_isRaised engaged _), left.queue engaged.symm⟩
    · have quiet (p : Panel) : p.laneLost l x.state = p :=
        if_neg fun h => h.elim (fun g => absurd (sense.symm.trans g) (by decide)) fun g => absurd (sense.symm.trans g) (by decide)
      refine raised.trans ?_
      refine (congrArg (fun p : Panel => p.wch.isRaised (.laneLost l)) (quiet _)).trans ?_
      exact Lane.moveNotice_isRaised _ _ _ _ (by simp)

end Sys2Proof.Machine

/-! The gate of a lane that runs (R5, R29, R31, R33, R34). -/
namespace Sys2Proof.Machine

/-! ## The ratio (R27, R29) -/

theorem measuredRatio_eq (count : Nat) : ((measuredRatio count : Nat) : Int) = ⌊((count : ℚ) * 2 ^ 24 / 4800) + 1 / 2⌋ := by
  have half := roundHalfUp_eq_floor ((count * 2 ^ 24 : Nat) : Int) (den := Config.gateFrames) (by decide)
  have pos : 0 ≤ roundHalfUp ((count * 2 ^ 24 : Nat) : Int) Config.gateFrames := by
    unfold roundHalfUp
    exact Int.ediv_nonneg (by positivity) (by decide)
  rw [measuredRatio, Int.toNat_of_nonneg pos, half]
  norm_num [Config.gateFrames]

/-- Where the ratio estimate moves at a gate with this count, before it is brought into its range (R29). -/
def Converter.ratioTarget (count : Nat) (c : Converter) : Int :=
  let error : ℚ := (⌊((count : ℚ) * 2 ^ 24 / 4800) + 1 / 2⌋ : Int) - c.ratio
  match c.tracking with
  | .acquire => c.ratio + ⌊error / 2 + 1 / 2⌋
  | .track => c.ratio + ⌊error / 16 + 1 / 2⌋ + ((c.fifo.length : Int) - 128) * 64

theorem Converter.updateRatio_eq (count : Nat) (c : Converter) : c.updateRatio count =
    { c with
      ratio := (max 1 (min (c.ratioTarget count) (2 ^ 26 - 1))).toNat
      acquisition := if c.tracking = .acquire then c.acquisition + 1 else c.acquisition
      tracking := if c.tracking = .acquire ∧ (if c.tracking = .acquire then c.acquisition + 1 else c.acquisition) < 8 then .acquire
        else .track } := by
  have clamp (v : Int) : clampInt v 1 (2 ^ 26 - 1) = max 1 (min v (2 ^ 26 - 1)) := clampInt_eq _ _ _ (by decide)
  have rounds (den : Nat) (h : 0 < den) : roundHalfUp ((measuredRatio count : Nat) - (c.ratio : Int)) den
      = ⌊((⌊((count : ℚ) * 2 ^ 24 / 4800) + 1 / 2⌋ : Int) - (c.ratio : ℚ)) / den + 1 / 2⌋ := by
    rw [roundHalfUp_eq_floor _ h, measuredRatio_eq, Int.cast_sub, Int.cast_natCast]
  unfold Converter.updateRatio Converter.ratioTarget
  dsimp only
  rw [rounds 2 (by decide), rounds 16 (by decide)]
  cases h : c.tracking with
  | acquire =>
    simp only [clamp]
    by_cases tracks : 8 ≤ c.acquisition + 1
    · simp [tracks, show ¬c.acquisition + 1 < 8 by omega]
    · simp [tracks, show c.acquisition + 1 < 8 by omega]
  | track =>
    simp only [clamp]
    simp [Converter.fill, Config.fifoCentre]

/-! ## Bypass (R33, R34) -/

/-- The lane whose gate's count has reached its ratio estimate. -/
def Lane.ratioMoved (count : Nat) (x : Lane) : Lane := { x with conv := x.conv.updateRatio count }

/-- A running lane after its bypass has been judged at a gate with this count, with these taps free. -/
def Lane.bypassJudged (count free : Nat) (x : Lane) : Lane :=
  if x.conv.granted = .bypass ∧ x.conv.forced = false ∧ (count < 4799 ∨ 4801 < count) then
    x.regranted (grantedMode x.settings.preference x.channels free)
  else if x.eligible = true then
    match x.conv.granted with
    | .full => x.regranted .bypass
    | .short => x.regranted .bypass
    | .bypass => { x with conv := { x.conv with forced := false } }
    | .none => x
  else x

/-- What the judgement of bypass does to a running lane and to the others, with nothing waiting. -/
structure LaneSide.BypassJudged (l : LaneId) (count : Nat) (v w : LaneSide) : Prop where
  lane : w.lane l = (v.lane l).bypassJudged count v.front.freeTaps
  others : ∀ m, m ≠ l → (v.lane m).Regranted (w.lane m)
  quiet : (w.lane l).conv.granted = (v.lane l).conv.granted → ∀ m, m ≠ l → w.lane m = v.lane m
  admission : w.front.admission = []
  panel : w.panel = v.panel

theorem Lane.eligible_regranted (m : ConvMode) (x : Lane) : (x.regranted m).eligible = x.eligible := by
  rw [Lane.regranted_eq]
  rfl

/-- A lane that takes the budget of no lane enters bypass, and what it gives back upgrades others (R33, R37). -/
theorem LaneSide.regrant_bypass {v : LaneSide} {l : LaneId} (admission : v.front.admission = []) :
    ((v.regrant l .bypass).release).lane l = (v.lane l).regranted .bypass ∧ v.Regranted (v.regrant l .bypass).release := by
  have release : (v.regrant l .bypass).release = (v.regrant l .bypass).upgradePass := LaneSide.release_eq admission
  rw [release]
  refine ⟨?_, (LaneSide.Regranted.regrant v l _).trans (.upgradePass _)⟩
  have lane : (v.regrant l .bypass).lane l = (v.lane l).regranted .bypass := LaneSide.put_lane_self _ _ _
  rw [LaneSide.upgradePass_noUpgrade, lane]
  rw [lane]
  rintro ⟨-, short, -⟩
  rw [Lane.regranted_granted] at short
  cases short

theorem LaneSide.BypassJudged.refl {v : LaneSide} {l : LaneId} {count : Nat}
    (lane : (v.lane l).bypassJudged count v.front.freeTaps = v.lane l) (admission : v.front.admission = []) :
    LaneSide.BypassJudged l count v v := ⟨lane.symm, fun _ _ => .refl _, fun _ _ _ => rfl, admission, rfl⟩

/-- A changed grant of the lane itself, the other lanes changed in their grants alone. -/
theorem LaneSide.BypassJudged.of_regranted {v w : LaneSide} {l : LaneId} {count : Nat} {m : ConvMode}
    (lane : w.lane l = (v.lane l).regranted m) (regranted : v.Regranted w) (admission : v.front.admission = [])
    (judged : (v.lane l).bypassJudged count v.front.freeTaps = (v.lane l).regranted m) (changed : m ≠ (v.lane l).conv.granted) :
    LaneSide.BypassJudged l count v w := by
  refine ⟨lane.trans judged.symm, fun k _ => regranted.lane k, fun same => ?_, regranted.admission.trans admission, regranted.panel⟩
  rw [lane, Lane.regranted_granted] at same
  exact absurd same changed

theorem LaneSide.judgeBypass_judged {v : LaneSide} {l : LaneId} {count : Nat} (running : (v.lane l).state = .running)
    (admission : v.front.admission = []) (steady : (v.lane l).eligible = true → count = 4800) :
    LaneSide.BypassJudged l count v (v.judgeBypass l count) := by
  have exitIff : ((v.lane l).judgesExit = true ∧ (count < 4799 ∨ 4801 < count)) ↔
      ((v.lane l).conv.granted = .bypass ∧ (v.lane l).conv.forced = false ∧ (count < 4799 ∨ 4801 < count)) := by
    simp [Lane.judgesExit_iff, running, and_assoc]
  unfold LaneSide.judgeBypass
  dsimp only
  by_cases exits : (v.lane l).conv.granted = .bypass ∧ (v.lane l).conv.forced = false ∧ (count < 4799 ∨ 4801 < count)
  · have notEligible : ¬(v.lane l).eligible = true := fun h => by have := steady h; omega
    obtain ⟨lane, -, -, regranted⟩ := LaneSide.ask_running (v := v) (l := l) running (by simp [Lane.cost, exits.1, ConvMode.cost])
    rw [if_pos (exitIff.2 exits), LaneSide.leaveBypass, lane, Lane.eligible_regranted, if_neg notEligible]
    refine .of_regranted lane regranted admission (if_pos exits) ?_
    rw [exits.1]
    unfold grantedMode
    split <;> decide
  · rw [if_neg fun h => exits (exitIff.1 h)]
    by_cases eligible : (v.lane l).eligible = true
    · rw [if_pos eligible]
      have judged : (v.lane l).bypassJudged count v.front.freeTaps = match (v.lane l).conv.granted with
          | .full => (v.lane l).regranted .bypass
          | .short => (v.lane l).regranted .bypass
          | .bypass => { v.lane l with conv := { (v.lane l).conv with forced := false } }
          | .none => v.lane l := (if_neg exits).trans (if_pos eligible)
      unfold LaneSide.enterBypass
      dsimp only
      obtain ⟨entered, regranted⟩ := LaneSide.regrant_bypass (l := l) admission
      cases hg : (v.lane l).conv.granted with
      | none => rw [hg] at judged; exact .refl judged admission
      | full => rw [hg] at judged; exact .of_regranted entered regranted admission judged (by rw [hg]; decide)
      | short => rw [hg] at judged; exact .of_regranted entered regranted admission judged (by rw [hg]; decide)
      | bypass =>
        rw [hg] at judged
        cases forced : (v.lane l).conv.forced with
        | false =>
          refine .refl (judged.trans ?_) admission
          rw [← forced]
        | true =>
          refine ⟨?_, fun m e => ?_, fun _ m e => ?_, ?_, rfl⟩
          · rw [judged]; exact LaneSide.put_lane_self _ _ _
          · rw [if_pos rfl, LaneSide.leaveQueue_lane, LaneSide.modConv_lane_other _ _ e]; exact .refl _
          · rw [if_pos rfl, LaneSide.leaveQueue_lane, LaneSide.modConv_lane_other _ _ e]
          · simp [LaneSide.leaveQueue, admission]
    · rw [if_neg eligible]
      exact .refl ((if_neg exits).trans (if_neg eligible)) admission

/-! ## A running lane's gate (R5, R29, R31) -/

/-- The gates since a slip, this gate counted (R31). -/
def Converter.gatesSince (c : Converter) : Nat := if c.slipsInGate = 0 then min 50 (c.gatesSinceSlip + 1) else 0

/-- The lane whose slips have been settled at its gate (R31). -/
def Lane.slipsSettled (x : Lane) : Lane := { x with conv := { x.conv with gatesSinceSlip := x.conv.gatesSince, slipsInGate := 0 } }

/-- The panel's part in a running lane's gate: the watches judge, and SLIP is cleared at 50 gates without one (R31, R151). -/
def Panel.gateSeen (l : LaneId) (x : Lane) (count : Nat) (v : Panel) : Panel :=
  let seen := v.observe (.lane l) (x.observed count)
  if x.conv.gatesSince = 50 then seen.clear (.slip l) else seen

theorem LaneSide.settleSlips_eq (v : LaneSide) (l : LaneId) : v.settleSlips l =
    (v.put l (v.lane l).slipsSettled).onPanel fun p => if (v.lane l).conv.gatesSince = 50 then p.clear (.slip l) else p := by
  have since : (if (v.lane l).conv.slipsInGate = 0 then satSucc 50 (v.lane l).conv.gatesSinceSlip else 0)
      = (v.lane l).conv.gatesSince := rfl
  unfold LaneSide.settleSlips
  dsimp only
  rw [since]
  split <;> rfl

/-- The figures, with the bypass judged first. -/
theorem LaneSide.gateFigures_eq {v w : LaneSide} {l : LaneId} {count : Nat}
    (judged : (v.put l ((v.lane l).ratioMoved count)).judgeBypass l count = w) : v.gateFigures l count =
      (w.put l (w.lane l).slipsSettled).onPanel (Panel.gateSeen l (w.lane l) count) := by
  unfold LaneSide.gateFigures
  dsimp only
  rw [show (v.modConv l (Converter.updateRatio count)) = v.put l ((v.lane l).ratioMoved count) from rfl, judged, LaneSide.settleSlips_eq,
    LaneSide.onPanel_lane, LaneSide.put_onPanel, LaneSide.onPanel_onPanel]
  unfold Panel.gateSeen
  rfl

/-- A gate that is due, of a lane that runs once it has been judged. -/
theorem LaneSide.expireGate_running {v u w : LaneSide} {l : LaneId} (timed : (v.lane l).gauge.mode = .timed)
    (elapsed : 4800 ≤ (v.lane l).gauge.elapsed)
    (judged : (v.put l (v.lane l).endGate).judgeGate l (v.lane l).gauge.count.toNat = u) (running : (u.lane l).state = .running)
    (bypass : (u.put l ((u.lane l).ratioMoved (v.lane l).gauge.count.toNat)).judgeBypass l (v.lane l).gauge.count.toNat = w) :
    v.expireGate l =
      (w.put l (w.lane l).slipsSettled.beginGate).onPanel (Panel.gateSeen l (w.lane l) (v.lane l).gauge.count.toNat) := by
  have due : (v.lane l).gateDue = true := by simp [Lane.gateDue, timed, Config.gateFrames, elapsed]
  rw [LaneSide.expireGate, if_pos due, v.modLane_eq_put l Lane.endGate]
  dsimp only
  rw [judged, if_pos running, LaneSide.gateFigures_eq bypass, LaneSide.modLane_eq_put, LaneSide.onPanel_lane, LaneSide.put_lane_self,
    LaneSide.put_onPanel, LaneSide.put_put]

/-- A running lane's grant, its forced flag and its fade are all that the judgement of bypass changes of it. -/
theorem Lane.bypassJudged_rest (count free : Nat) (x : Lane) : x.bypassJudged count free = { x with conv := { x.conv with
    granted := (x.bypassJudged count free).conv.granted, forced := (x.bypassJudged count free).conv.forced,
    fade := (x.bypassJudged count free).conv.fade, fadePos := (x.bypassJudged count free).conv.fadePos } } := by
  have regrant (m : ConvMode) : x.regranted m = { x with conv := { x.conv with
      granted := (x.regranted m).conv.granted, forced := (x.regranted m).conv.forced,
      fade := (x.regranted m).conv.fade, fadePos := (x.regranted m).conv.fadePos } } := by
    rw [Lane.regranted_eq]
  unfold Lane.bypassJudged
  split
  · exact regrant _
  · split
    · split
      · exact regrant _
      · exact regrant _
      · rfl
      · rfl
    · rfl

theorem Lane.eligible_iff (x : Lane) : x.eligible = true ↔ x.settled = .k48 ∧ x.settings.bypassAllowed = true ∧ x.conv.tracking = .track
    ∧ x.gauge.history = [4800, 4800, 4800, 4800] ∧ 120 ≤ x.conv.fifo.length ∧ x.conv.fifo.length ≤ 136 := by
  have history : x.gauge.history = [4800, 4800, 4800, 4800] ↔ x.gauge.history.length = 4 ∧ ∀ c ∈ x.gauge.history, c = 4800#16 := by
    rw [show ([4800, 4800, 4800, 4800] : List (BitVec 16)) = List.replicate 4 4800#16 from rfl, List.eq_replicate_iff]
  rw [history, show x.conv.fifo.length = x.conv.fill from rfl]
  simp [Lane.eligible, and_assoc]

/-- What the judgement of bypass at a gate with this count leaves of a running lane's grant, forced flag and fade (R33, R34, R40). -/
structure Lane.BypassOutcome (count free : Nat) (x y : Lane) : Prop where
  exit : x.conv.granted = .bypass ∧ x.conv.forced = false ∧ (count < 4799 ∨ 4801 < count) →
    y.conv.granted = grantedMode x.settings.preference x.channels free
  entry : x.eligible = true → x.conv.granted = .full ∨ x.conv.granted = .short → y.conv.granted = .bypass
  stay : ¬(x.conv.granted = .bypass ∧ x.conv.forced = false ∧ (count < 4799 ∨ 4801 < count)) →
    ¬(x.eligible = true ∧ (x.conv.granted = .full ∨ x.conv.granted = .short)) → y.conv.granted = x.conv.granted
  unforced : x.eligible = true → x.conv.granted = .bypass → y.conv.forced = false
  forced : ¬(x.eligible = true ∧ x.conv.granted = .bypass) → y.conv.forced = x.conv.forced
  fades : y.conv.granted ≠ x.conv.granted → x.conv.fade = .none → y.conv.fade = .fadeOut ∧ y.conv.fadePos = 480
  kept : y.conv.granted = x.conv.granted ∨ x.conv.fade ≠ .none → y.conv.fade = x.conv.fade ∧ y.conv.fadePos = x.conv.fadePos

/-- A changed grant asks for a lane fade, which begins at once unless one is in flight. -/
theorem Lane.regranted_fade {m : ConvMode} {x : Lane} (changed : m ≠ x.conv.granted) :
    (x.conv.fade = .none → (x.regranted m).conv.fade = .fadeOut ∧ (x.regranted m).conv.fadePos = 480)
      ∧ ((x.regranted m).conv.granted = x.conv.granted ∨ x.conv.fade ≠ .none →
        (x.regranted m).conv.fade = x.conv.fade ∧ (x.regranted m).conv.fadePos = x.conv.fadePos) := by
  rw [Lane.regranted_eq]
  exact ⟨fun none => ⟨if_pos none, if_pos none⟩, fun busy =>
    ⟨if_neg (busy.resolve_left changed), if_neg (busy.resolve_left changed)⟩⟩

theorem Lane.regranted_forced (m : ConvMode) (x : Lane) : (x.regranted m).conv.forced = x.conv.forced := by rw [Lane.regranted_eq]

theorem Lane.bypassJudged_outcome {count free : Nat} {x : Lane} (steady : x.eligible = true → count = 4800) :
    Lane.BypassOutcome count free x (x.bypassJudged count free) := by
  unfold Lane.bypassJudged
  split
  · next exits =>
    have notEligible : ¬x.eligible = true := fun h => by have := steady h; omega
    have changed : grantedMode x.settings.preference x.channels free ≠ x.conv.granted := by
      rw [exits.1]
      unfold grantedMode
      split <;> decide
    obtain ⟨fades, kept⟩ := Lane.regranted_fade changed
    exact ⟨fun _ => Lane.regranted_granted _ _, fun h => absurd h notEligible, fun h => absurd exits h, fun h => absurd h notEligible,
      fun _ => Lane.regranted_forced _ _, fun _ => fades, kept⟩
  · next stays =>
    split
    · next eligible =>
      have entry (was : x.conv.granted = .full ∨ x.conv.granted = .short) : Lane.BypassOutcome count free x (x.regranted .bypass) := by
        have notBypass : x.conv.granted ≠ .bypass := by rcases was with h | h <;> simp [h]
        obtain ⟨fades, kept⟩ := Lane.regranted_fade notBypass.symm
        exact ⟨fun h => absurd h stays, fun _ _ => Lane.regranted_granted _ _, fun _ h => absurd ⟨eligible, was⟩ h,
          fun _ h => absurd h notBypass, fun _ => Lane.regranted_forced _ _, fun _ => fades, kept⟩
      split
      · next full => exact entry (.inl full)
      · next short => exact entry (.inr short)
      · next bypass =>
        exact ⟨fun h => absurd h stays, fun _ h => by simp [bypass] at h, fun _ _ => rfl, fun _ _ => rfl,
          fun h => absurd ⟨eligible, bypass⟩ h, fun h => absurd rfl h, fun _ => ⟨rfl, rfl⟩⟩
      · next none =>
        exact ⟨fun h => absurd h stays, fun _ h => by simp [none] at h, fun _ _ => rfl, fun _ h => by simp [none] at h,
          fun _ => rfl, fun h => absurd rfl h, fun _ => ⟨rfl, rfl⟩⟩
    · next notEligible =>
      exact ⟨fun h => absurd h stays, fun h => absurd h notEligible, fun _ _ => rfl, fun h => absurd h notEligible, fun _ => rfl,
        fun h => absurd rfl h, fun _ => ⟨rfl, rfl⟩⟩

theorem Grade.code_eq (g : Grade) : (g.code : Int) = match g with | .dead => 2 | .weak => 1 | _ => 0 := by cases g <;> rfl

/-- A gate that is due, of a running lane that is not lost, with nothing waiting: in two steps, the ratio and then the bypass. -/
theorem LaneSide.expireGate_steers {v : LaneSide} {l : LaneId} (timed : (v.lane l).gauge.mode = .timed)
    (elapsed : 4800 ≤ (v.lane l).gauge.elapsed) (running : (v.lane l).state = .running) (admission : v.front.admission = [])
    (kept : ¬(v.lane l).losesGate) :
    ∃ w, LaneSide.BypassJudged l (v.lane l).gauge.count.toNat (v.put l ((v.lane l).endGate.ratioMoved (v.lane l).gauge.count.toNat)) w
      ∧ (((v.lane l).endGate.ratioMoved (v.lane l).gauge.count.toNat).eligible = true → (v.lane l).gauge.count.toNat = 4800)
      ∧ v.expireGate l =
        (w.put l (w.lane l).slipsSettled.beginGate).onPanel (Panel.gateSeen l (w.lane l) (v.lane l).gauge.count.toNat) := by
  have lane : (v.put l (v.lane l).endGate).lane l = (v.lane l).endGate := LaneSide.put_lane_self _ _ _
  have notSense : (v.lane l).state ≠ .sense := by rw [running]; decide
  have judged : (v.put l (v.lane l).endGate).judgeGate l (v.lane l).gauge.count.toNat = v.put l (v.lane l).endGate :=
    LaneSide.judgeGate_eq_self (by rw [lane]; exact fun h => kept h.2) (by rw [lane]; exact fun h => notSense h.1)
      (by rw [lane]; rintro ⟨quiet, -⟩; exact quiet.elim (fun g => absurd (running.symm.trans g) (by decide))
            fun g => absurd (running.symm.trans g) (by decide))
  have moved : ((v.put l ((v.lane l).endGate.ratioMoved (v.lane l).gauge.count.toNat)).lane l)
      = (v.lane l).endGate.ratioMoved (v.lane l).gauge.count.toNat := LaneSide.put_lane_self _ _ _
  have steady (h : ((v.lane l).endGate.ratioMoved (v.lane l).gauge.count.toNat).eligible = true) :
      (v.lane l).gauge.count.toNat = 4800 := by
    obtain ⟨-, -, -, history, -⟩ := (Lane.eligible_iff _).1 h
    have head : (v.lane l).gauge.count = 4800 := (List.cons.inj history).1
    rw [head]
    rfl
  have bypass := LaneSide.judgeBypass_judged (v := v.put l ((v.lane l).endGate.ratioMoved (v.lane l).gauge.count.toNat)) (l := l)
    (count := (v.lane l).gauge.count.toNat) (by rw [moved]; exact running) admission (by rw [moved]; exact steady)
  refine ⟨_, bypass, steady, LaneSide.expireGate_running timed elapsed judged (by rw [lane]; exact running) ?_⟩
  rw [lane, LaneSide.put_put]

/-- A running lane whose gate has ended, with what the judgement of bypass changes read off the lane itself. -/
theorem Lane.slipsSettled_beginGate {x y : Lane} {c : Converter} (shape : y = { x.endGate with conv := { c with
      granted := y.conv.granted, forced := y.conv.forced, fade := y.conv.fade, fadePos := y.conv.fadePos } }) :
    y.slipsSettled.beginGate = { x with
      gauge := { x.gauge with count := 0, history := (x.gauge.count :: x.gauge.history).take 4, elapsed := 0 },
      lastFraming := x.framing, lastInvalid := x.invalid, lastActivity := x.activity, framing := 0, invalid := 0,
      activity := false, grade := x.gateGrade, deadRun := x.nextDeadRun x.gateGrade, gateInSense := x.state == .sense,
      validAll := BitVec.allOnes 8,
      conv := { c with
        granted := y.conv.granted, forced := y.conv.forced, fade := y.conv.fade, fadePos := y.conv.fadePos,
        gatesSinceSlip := c.gatesSince, slipsInGate := 0 } } :=
  congrArg (fun y : Lane => y.slipsSettled.beginGate) shape

/-- Work on the lanes that ends in this view. -/
theorem State.onLanes_eq {s : State} {f : LaneSide → LaneSide} {v : LaneSide} (h : f s.laneSide = v) :
    s.onLanes f = { s with front := v.front, wch := v.panel.wch, lnk := v.panel.lnk } := by
  rw [← h]
  rfl

/-- Settles O23: the lane's record follows `Lane.bypassJudged` with its ratio moved before and its slips settled after. -/
theorem gateOfARunningLaneSteersItsConverter : Obligations.GateOfARunningLaneSteersItsConverter := by
  intro s l on timed elapsed running admission x k c nominal grade dead pos alive history channels measured error moved acquisition
    tracking exits eligible since values seen v
  have graded : x.gateGrade = grade := gradeOf_eq _ _ _ _
  have losable : x.state.losable = true := (LaneState.losable_iff _).2 (.inr (.inr running))
  have deadRun : x.nextDeadRun x.gateGrade = dead := by rw [Lane.nextDeadRun_losable losable, graded]
  have kept : ¬x.losesGate := by
    rw [Lane.losesGate, deadRun, graded]
    exact fun h => h.elim (fun zero => absurd zero pos.ne') alive
  obtain ⟨w, bypass, steady, expired⟩ := LaneSide.expireGate_steers (v := s.laneSide) (l := l) timed elapsed running admission kept
  have target : k.ratioTarget c = moved := rfl
  have moves : x.endGate.ratioMoved c = { x.endGate with conv := { k with
      ratio := (max 1 (min moved (2 ^ 26 - 1))).toNat, acquisition := acquisition, tracking := tracking } } := by
    rw [Lane.ratioMoved, show x.endGate.conv.updateRatio c = _ from Converter.updateRatio_eq c k, target]
  generalize hr : (s.laneSide.lane l).endGate.ratioMoved (s.laneSide.lane l).gauge.count.toNat = r at bypass steady
  have record := hr.symm.trans moves
  have self : (s.laneSide.put l r).lane l = r := LaneSide.put_lane_self _ _ _
  have other (m : LaneId) (e : m ≠ l) : (s.laneSide.put l r).lane m = s.lane m := LaneSide.put_lane_other _ _ e
  have cost : r.cost = (s.lane l).cost := by rw [record]; rfl
  have taps : (s.laneSide.put l r).front.freeTaps = s.front.freeTaps := LaneSide.freeTaps_put cost
  have lane := bypass.lane
  rw [self, taps] at lane
  have grants := bypass.quiet
  rw [self] at grants
  have outcome := Lane.bypassJudged_outcome (free := s.front.freeTaps) steady
  rw [← lane] at outcome
  have rest := Lane.bypassJudged_rest (s.laneSide.lane l).gauge.count.toNat s.front.freeTaps r
  rw [← lane] at rest
  have eligibleIff : r.eligible = true ↔ eligible := by rw [Lane.eligible_iff, record]; rfl
  generalize hy : w.lane l = y at *
  have sees : (Panel.gateSeen l y c s.panel) = v := by
    have observed : y.observed c = values := by
      rw [rest, record]
      funext measure
      cases measure with
      | grade => exact congrArg some ((congrArg (fun g : Grade => (g.code : Int)) graded).trans grade.code_eq)
      | _ => rfl
    rw [Panel.gateSeen, observed, rest, record]
    rfl
  have final : (w.put l y.slipsSettled.beginGate).lane l = y.slipsSettled.beginGate := LaneSide.put_lane_self _ _ _
  have finalOther (m : LaneId) (e : m ≠ l) : (w.put l y.slipsSettled.beginGate).lane m = w.lane m := LaneSide.put_lane_other _ _ e
  refine ⟨(w.put l y.slipsSettled.beginGate).front, ?_, bypass.admission, ?_, fun m e => ?_⟩
  · rw [exec_gateExpiry on, State.onLanes_eq expired, LaneSide.onPanel_panel, LaneSide.put_panel, bypass.panel, LaneSide.put_panel,
      show Panel.gateSeen l y (s.laneSide.lane l).gauge.count.toNat s.laneSide.panel = v from sees]
    rfl
  · intro z
    have hz : z = y.slipsSettled.beginGate := final
    have conv : z.conv = { y.conv with gatesSinceSlip := y.conv.gatesSince, slipsInGate := 0 } := by rw [hz]; rfl
    have same : r.conv.granted = k.granted ∧ r.conv.forced = k.forced ∧ r.conv.fade = k.fade ∧ r.conv.fadePos = k.fadePos := by
      rw [record]; exact ⟨rfl, rfl, rfl, rfl⟩
    have grant : grantedMode r.settings.preference r.channels s.front.freeTaps =
        if x.settings.preference = .full ∧ 64 * channels ≤ s.front.freeTaps then .full else .short := by
      rw [grantedMode, Lane.channels_eq, record]
      rfl
    obtain ⟨granted, forced, fade, fadePos⟩ := same
    obtain ⟨exit, entry, stay, unforced, keepsForced, fades, keepsFade⟩ := outcome
    simp only [granted, forced, fade, fadePos, eligibleIff] at exit entry stay unforced keepsForced fades keepsFade
    rw [conv]
    refine ⟨?_, fun h => (exit h).trans grant, entry, stay, unforced, keepsForced, fades, keepsFade,
      fun h m e => ?_⟩
    · have shape := rest
      rw [record] at shape
      have notSense : (x.state == .sense) = false := by rw [show x.state = .running from running]; rfl
      refine hz.trans ((Lane.slipsSettled_beginGate (x := x) (c := { k with
        ratio := (max 1 (min moved (2 ^ 26 - 1))).toNat, acquisition := acquisition, tracking := tracking }) shape).trans ?_)
      rw [deadRun, graded, notSense]
      rfl
    · rw [show (w.put l y.slipsSettled.beginGate).front.lanes[m] = w.lane m from finalOther m e, grants (h.trans granted.symm) m e, other m e]
  · have kept := bypass.others m e
    rw [other m e] at kept
    rw [show (w.put l y.slipsSettled.beginGate).front.lanes[m] = w.lane m from finalOther m e]
    exact ⟨kept.state, kept.settings, kept.gauge, kept.fifo⟩

end Sys2Proof.Machine

/-! A settling pair admits a lane (R9, R12, R27, R36). -/
namespace Sys2Proof.Machine

/-! ## Observations raise and clear watches' alarms alone -/

theorem Panel.raiseEntry_isRaised_other (e : AlarmEntry) (v : Panel) {o : AlarmId} (h : o ≠ e.id) (loss : o ≠ .noticeLoss) :
    (v.raiseEntry e).wch.isRaised o = v.wch.isRaised o := by
  unfold Panel.raiseEntry
  split
  · rfl
  · rw [Panel.offer_isRaised _ _ loss, Panel.setTable_isRaised]
    simp [Wch.isRaised, h.symm]

theorem Panel.watchObserve_isRaised (o : WatchObject) (vs : Measure → Option Int) (v : Panel) (w : WatchId) {a : AlarmId}
    (h : ∀ id, a ≠ .watch id) (loss : a ≠ .noticeLoss) : (v.watchObserve o vs w).wch.isRaised a = v.wch.isRaised a := by
  unfold Panel.watchObserve
  dsimp only
  split
  · split
    · rfl
    · split
      · rfl
      · exact Panel.raiseEntry_isRaised_other _ _ (h w) loss
      · exact Panel.clear_isRaised_other _ _ (h w) loss
  · rfl

theorem Panel.observe_isRaised (o : WatchObject) (vs : Measure → Option Int) (v : Panel) {a : AlarmId} (h : ∀ id, a ≠ .watch id)
    (loss : a ≠ .noticeLoss) : (v.observe o vs).wch.isRaised a = v.wch.isRaised a := by
  unfold Panel.observe
  generalize allWatches = ws
  induction ws generalizing v with
  | nil => rfl
  | cons w ws ih => rw [List.foldl_cons, ih, Panel.watchObserve_isRaised o vs v w h loss]

theorem Panel.gateSeen_laneLost (l : LaneId) (x : Lane) (count : Nat) (v : Panel) :
    (v.gateSeen l x count).wch.isRaised (.laneLost l) = v.wch.isRaised (.laneLost l) := by
  have seen := Panel.observe_isRaised (.lane l) (x.observed count) v (a := .laneLost l) (by simp) (by simp)
  unfold Panel.gateSeen
  dsimp only
  split
  · rw [Panel.clear_isRaised_other _ _ (by simp) (by simp), seen]
  · exact seen

/-! ## Admission (R9, R12, R27) -/

/-- The lane a settling pair leaves to the arbiter (R9). -/
def Lane.admitted (gate prev : SenseGate) (count : Nat) (x : Lane) : Lane :=
  { x with
    state := .waitingBudget, settled := gate.cls, active := gate.valid &&& prev.valid,
    conv := { x.conv with settling := some (measuredRatio count) } }

/-- The lane that has been granted a mode and runs (R27). -/
def Lane.running (m : ConvMode) (x : Lane) : Lane := { x with state := .running, conv := x.conv.setUp m }

theorem LaneSide.enterRunning_self (v : LaneSide) (l : LaneId) (m : ConvMode) :
    (v.enterRunning l m).lane l = (v.lane l).running m ∧ (v.enterRunning l m).panel.wch.isRaised (.laneLost l) = false := by
  refine ⟨?_, Panel.clear_isRaised _ _ (by simp)⟩
  rw [LaneSide.enterRunning, LaneSide.onPanel_lane, LaneSide.noticeLane, LaneSide.onPanel_lane, LaneSide.modLane_lane_self]
  rfl

/-- A settling pair's ask is granted at once (R36). -/
theorem LaneSide.admitLane_running (v : LaneSide) (l : LaneId) (gate prev : SenseGate) (count : Nat)
    (cost : (v.lane l).cost = 0) :
    let y := (v.lane l).admitted gate prev count
    (v.admitLane l gate prev count).lane l = y.running (grantedMode y.settings.preference y.channels v.front.freeTaps)
      ∧ (v.admitLane l gate prev count).panel.wch.isRaised (.laneLost l) = false := by
  intro y
  have moved : v.move l (Lane.admitted gate prev count) = (v.put l y).onPanel (y.moveNotice l (v.lane l).state) := v.move_eq l _
  have lane : (v.move l (Lane.admitted gate prev count)).lane l = y := by
    rw [moved, LaneSide.onPanel_lane, LaneSide.put_lane_self]
  have none : y.cost = 0 := if_neg (by simp [y, Lane.admitted])
  have taps : (v.move l (Lane.admitted gate prev count)).front.freeTaps = v.front.freeTaps := by
    rw [moved]
    exact LaneSide.freeTaps_put (none.trans cost.symm)
  obtain ⟨u, ask, -, kept, -⟩ := LaneSide.ask_eq (v := v.move l (Lane.admitted gate prev count)) (l := l) (by rw [lane]; exact none)
  have granted : v.admitLane l gate prev count = u.enterRunning l (grantedMode y.settings.preference y.channels v.front.freeTaps) := by
    rw [lane] at kept
    refine ask.trans ?_
    rw [lane, taps, LaneSide.grant, kept, if_pos (show y.state = .waitingBudget from rfl)]
  obtain ⟨self, lost⟩ := u.enterRunning_self l (grantedMode y.settings.preference y.channels v.front.freeTaps)
  rw [granted, self, kept, lane]
  exact ⟨rfl, lost⟩

/-- A SENSE gate that forms a settling pair with the one before. -/
theorem LaneSide.judgeSense_settles {v : LaneSide} {l : LaneId} {count : Nat} {prev : SenseGate}
    (before : (v.lane l).prevSense = some prev) (pair : ((v.lane l).senseGate count).settles prev = true) :
    v.judgeSense l count = (v.put l (v.lane l).senseCounted).admitLane l ((v.lane l).senseGate count) prev count := by
  unfold LaneSide.judgeSense
  simp only [LaneSide.modLane_eq_put, LaneSide.put_lane_self]
  split
  · next p hp =>
    obtain rfl : p = prev := Option.some.inj (hp.symm.trans before)
    exact (if_pos pair).trans rfl
  · next hn => exact absurd (hn.symm.trans before) (by simp)

/-! ## The ratio of an admitting gate (R27, R29) -/

/-- A settled class bounds the count (R6). -/
theorem classOf_bounds {count : Nat} (h : classOf count ≠ .unknown) : 3168 ≤ count ∧ count ≤ 9696 := by
  unfold classOf at h
  split_ifs at h <;> simp_all <;> omega

theorem measuredRatio_bounds {count : Nat} (low : 3168 ≤ count) (high : count ≤ 9696) :
    1 ≤ measuredRatio count ∧ measuredRatio count ≤ 2 ^ 26 - 1 := by
  unfold measuredRatio roundHalfUp Config.gateFrames
  omega

/-- The estimate that stands at the measured ratio stays there. -/
theorem Converter.ratioTarget_settled {count : Nat} {c : Converter} (acquire : c.tracking = .acquire)
    (settled : c.ratio = measuredRatio count) : c.ratioTarget count = measuredRatio count := by
  unfold Converter.ratioTarget
  have none : ((⌊((count : ℚ) * 2 ^ 24 / 4800) + 1 / 2⌋ : Int) : ℚ) - (measuredRatio count : Nat) = 0 := by
    rw [← measuredRatio_eq, Int.cast_natCast, sub_self]
  simp only [acquire, settled, none]
  norm_num

/-- A lane that has just been granted a mode is neither in bypass nor eligible for it. -/
theorem LaneSide.judgeBypass_fresh {v : LaneSide} {l : LaneId} {count : Nat} (grant : (v.lane l).conv.granted ≠ .bypass)
    (acquire : (v.lane l).conv.tracking = .acquire) : v.judgeBypass l count = v := by
  have notEligible : ¬(v.lane l).eligible = true := fun h => by
    obtain ⟨-, -, track, -⟩ := (Lane.eligible_iff _).1 h
    exact absurd (acquire.symm.trans track) (by decide)
  have notExits : ¬((v.lane l).judgesExit = true ∧ (count < 4799 ∨ 4801 < count)) := fun h =>
    grant ((Lane.judgesExit_iff _).1 h.1).2.1
  unfold LaneSide.judgeBypass
  dsimp only
  rw [if_neg notExits, if_neg notEligible]

theorem Converter.setUp_ratio (m : ConvMode) {c : Converter} {n : Nat} (h : c.settling = some n) : (c.setUp m).ratio = n := by
  rw [Converter.setUp, h]
  rfl

theorem Lane.admitted_ratio (gate prev : SenseGate) (count : Nat) (m : ConvMode) (x : Lane) :
    ((x.admitted gate prev count).conv.setUp m).ratio = measuredRatio count := Converter.setUp_ratio m rfl

theorem clampRatio_of_mem {r : Nat} (low : 1 ≤ r) (high : r ≤ 2 ^ 26 - 1) : (max (1 : Int) (min (r : Int) (2 ^ 26 - 1))).toNat = r := by
  norm_num at high ⊢
  omega

/-- The gate that admits a lane is its converter's first: the ratio stays the measured one (log 16). -/
theorem Lane.ratioMoved_running {count : Nat} (low : 3168 ≤ count) (high : count ≤ 9696) (m : ConvMode) {y : Lane}
    (settling : y.conv.settling = some (measuredRatio count)) :
    (y.running m).ratioMoved count = { y.running m with conv := { y.conv.setUp m with acquisition := 1 } } := by
  obtain ⟨pos, top⟩ := measuredRatio_bounds low high
  have ratio : (y.conv.setUp m).ratio = measuredRatio count := Converter.setUp_ratio m settling
  have target := Converter.ratioTarget_settled (c := y.conv.setUp m) rfl ratio
  rw [Lane.ratioMoved, show (y.running m).conv = y.conv.setUp m from rfl, Converter.updateRatio_eq, target, clampRatio_of_mem pos top, ← ratio]
  rfl

/-- The second gate of a settling pair admits the lane, sets its converter up and gives it its first figures. -/
theorem LaneSide.expireGate_admits {v : LaneSide} {l : LaneId} {prev : SenseGate} (timed : (v.lane l).gauge.mode = .timed)
    (elapsed : 4800 ≤ (v.lane l).gauge.elapsed) (sense : (v.lane l).state = .sense) (whole : (v.lane l).gateInSense = true)
    (framing : (v.lane l).framing = 0) (before : (v.lane l).prevSense = some prev) (clean : prev.clean = true)
    (cls : prev.cls = classOf (v.lane l).gauge.count.toNat) (known : classOf (v.lane l).gauge.count.toNat ≠ .unknown)
    (common : prev.valid &&& (v.lane l).validAll ≠ 0) :
    let count := (v.lane l).gauge.count.toNat
    let y := (v.lane l).endGate.senseCounted.admitted ((v.lane l).endGate.senseGate count) prev count
    let m := grantedMode y.settings.preference y.channels v.front.freeTaps
    (v.expireGate l).lane l
        = ({ y.running m with conv := { y.conv.setUp m with acquisition := 1 } } : Lane).slipsSettled.beginGate
      ∧ (v.expireGate l).panel.wch.isRaised (.laneLost l) = false := by
  intro count y m
  obtain ⟨low, high⟩ := classOf_bounds known
  have lane : (v.put l (v.lane l).endGate).lane l = (v.lane l).endGate := LaneSide.put_lane_self _ _ _
  have notDead : (v.lane l).gateGrade ≠ .dead := by
    rw [Lane.gateGrade, gradeOf_eq, framing, if_neg (by decide)]
    split
    · decide
    · split <;> decide
  have pair : ((v.lane l).endGate.senseGate count).settles prev = true := by
    refine (SenseGate.settles_iff _ _).2 ⟨clean, ?_, cls, common⟩
    simp [Lane.senseGate, Lane.endGate, framing, count, known]
  have judged : (v.put l (v.lane l).endGate).judgeGate l count
      = (v.put l (v.lane l).endGate.senseCounted).admitLane l ((v.lane l).endGate.senseGate count) prev count := by
    rw [LaneSide.judgeGate_sense (by rw [lane]; exact sense) (by rw [lane]; exact whole)
        (by rw [lane]; exact fun h => h.elim (fun zero => by omega) fun dead => notDead dead.1),
      LaneSide.judgeSense_settles (prev := prev) (by rw [lane]; exact before) (by rw [lane]; exact pair), lane, LaneSide.put_put]
  have counted : (v.put l (v.lane l).endGate.senseCounted).lane l = (v.lane l).endGate.senseCounted := LaneSide.put_lane_self _ _ _
  have idle (x : Lane) (h : x.state = .sense) : x.cost = 0 := if_neg (by rw [h]; decide)
  have taps : (v.put l (v.lane l).endGate.senseCounted).front.freeTaps = v.front.freeTaps :=
    LaneSide.freeTaps_put ((idle _ sense).trans (idle _ sense).symm)
  obtain ⟨admitted, lost⟩ := LaneSide.admitLane_running (v.put l (v.lane l).endGate.senseCounted) l
    ((v.lane l).endGate.senseGate count) prev count (by rw [counted]; exact idle _ sense)
  rw [counted, taps] at admitted
  generalize (v.put l (v.lane l).endGate.senseCounted).admitLane l ((v.lane l).endGate.senseGate count) prev count = u
    at judged admitted lost
  have figures : (u.lane l).ratioMoved count = { y.running m with conv := { y.conv.setUp m with acquisition := 1 } } := by
    rw [admitted]
    exact Lane.ratioMoved_running low high m rfl
  have moved : (u.put l ((u.lane l).ratioMoved count)).lane l = { y.running m with conv := { y.conv.setUp m with acquisition := 1 } } := by
    rw [LaneSide.put_lane_self, figures]
  have fresh : (u.put l ((u.lane l).ratioMoved count)).judgeBypass l count = u.put l ((u.lane l).ratioMoved count) := by
    refine LaneSide.judgeBypass_fresh ?_ ?_
    · rw [moved]
      show grantedMode _ _ _ ≠ _
      unfold grantedMode
      split <;> decide
    · rw [moved]
      rfl
  rw [LaneSide.expireGate_running timed elapsed judged (by rw [admitted]; rfl) fresh, LaneSide.onPanel_lane, LaneSide.put_lane_self,
    moved, LaneSide.onPanel_panel, Panel.gateSeen_laneLost]
  exact ⟨rfl, lost⟩

/-- Settles O24: the admitted lane's record is that of `LaneSide.expireGate_admits`. -/
theorem settlingPairAdmitsTheLane : Obligations.SettlingPairAdmitsTheLane := by
  intro s l prev on timed elapsed sense whole framing before clean cls known common c channels
  obtain ⟨lane, lost⟩ := LaneSide.expireGate_admits (v := s.laneSide) (l := l) timed elapsed sense whole framing before clean cls known common
  have valid : (s.lane l).validAll &&& prev.valid = prev.valid &&& (s.lane l).validAll := BitVec.and_comm _ _
  refine ⟨_, exec_gateExpiry on l, ?_⟩
  rw [State.transmit_lane, State.onLanes_lane, lane]
  have width : ((s.laneSide.lane l).endGate.senseCounted.admitted ((s.laneSide.lane l).endGate.senseGate
      (s.laneSide.lane l).gauge.count.toNat) prev (s.laneSide.lane l).gauge.count.toNat).channels = channels := by
    rw [Lane.channels_eq]
    exact congrArg (fun a : BitVec 8 => (List.finRange 8).countP fun k => a.getLsbD k.val) valid
  rw [width]
  refine ⟨rfl, rfl, valid, fun full room => if_pos ⟨full, room⟩, fun short => if_neg fun h => ?_, rfl, rfl, rfl, ?_, rfl, rfl, rfl, rfl,
    lost, rfl, rfl, rfl, rfl, rfl⟩
  · rcases short with short | short
    · exact absurd (short.symm.trans h.1) (by decide)
    · exact absurd h.2 (Nat.not_le.2 short)
  · exact (congrArg Nat.cast (Lane.admitted_ratio ((s.laneSide.lane l).endGate.senseGate c) prev c .short
      (s.laneSide.lane l).endGate.senseCounted)).trans (measuredRatio_eq c)

end Sys2Proof.Machine

/-! The output frame boundary: the clock, the gates, the output lanes and the monitor pair (R4, R15, R16, R21, R22, R168, R197). -/
namespace Sys2Proof.Machine

/-! ## Nothing outstanding (log 3) -/

theorem State.onLanes_self {s : State} {f : LaneSide → LaneSide} (h : f s.laneSide = s.laneSide) : s.onLanes f = s := State.onLanes_eq h

theorem State.onProgs_self {s : State} {f : ProgSide → ProgSide} (h : f s.progSide = s.progSide) : s.onProgs f = s := by
  have onProgs (v : ProgSide) (e : f s.progSide = v) :
      s.onProgs f = { s with progs := v.progs, dmc := v.dmc, wch := v.panel.wch, lnk := v.panel.lnk } := by
    rw [← e]
    rfl
  exact onProgs s.progSide h

theorem ProgSide.modProg_self {v : ProgSide} {p : ProgId} {f : Prog → Prog} (h : f (v.prog p) = v.prog p) : v.modProg p f = v := by
  have kept : f v.progs[p] = v.progs[p] := h
  have same : v.progs.set p (f v.progs[p]) = v.progs := by
    rw [kept]
    exact Vector.set_getElem_self p.isLt
  rw [ProgSide.modProg, same]

/-- A programme without an outstanding completion is left as it is. -/
theorem ProgSide.settleProg_self {v : ProgSide} {p : ProgId} (glide : (v.prog p).glideDue = false) (jump : (v.prog p).jumpDue = false)
    (fill : (v.prog p).fillDue = false) (fadeIn : (v.prog p).fadeInDue = false) (release : (v.prog p).releaseDue = false)
    (ramp : (v.prog p).gain.rampDue = false) (subBlock : (v.prog p).subBlockDue = false) : v.settleProg p = v := by
  have kept : v.modProg p (fun x => { x with gain := x.gain.endRamp }) = v :=
    ProgSide.modProg_self (by rw [GainRec.endRamp, if_neg (ne_true_of_eq_false ramp)])
  unfold ProgSide.settleProg
  dsimp only
  rw [ProgSide.jumpFaded, if_neg (ne_true_of_eq_false jump), ProgSide.fillEnd, if_neg (ne_true_of_eq_false fill), ProgSide.fadeInEnd,
    if_neg (ne_true_of_eq_false fadeIn), ProgSide.glideEnd, if_neg (ne_true_of_eq_false glide), kept, ProgSide.releaseEnd,
    if_neg (ne_true_of_eq_false release), ProgSide.completeSubBlock, if_neg (ne_true_of_eq_false subBlock)]

theorem State.settle_self {s : State} (h : s.NothingOutstanding) : s.settle = s := by
  obtain ⟨presence, silence, lanes, progs⟩ := h
  have gate (l : LaneId) : s.settleGate l = s :=
    State.onLanes_self (if_neg (ne_true_of_eq_false (lanes l).1))
  have fade (l : LaneId) : s.settleFade l = s := by
    rw [State.settleFade, State.laneFadedPoint, if_neg (ne_true_of_eq_false (lanes l).2.1), State.laneFadeEnd,
      if_neg (ne_true_of_eq_false (lanes l).2.2)]
  have prog (p : ProgId) : s.progSide.settleProg p = s.progSide := by
    obtain ⟨glide, jump, fill, fadeIn, release, ramp, subBlock⟩ := progs p
    exact ProgSide.settleProg_self glide jump fill fadeIn release ramp subBlock
  unfold State.settle
  dsimp only
  rw [State.presenceReached, if_neg (ne_true_of_eq_false presence), State.silenceReached, if_neg (ne_true_of_eq_false silence),
    List.foldl_fixed' gate, List.foldl_fixed' fade]
  exact State.onProgs_self (List.foldl_fixed' prog allProgs)

/-! ## The lanes at a boundary (R4, R28, R30, R34) -/

/-- Every lane differs only in its converter, and the panel does not differ. -/
structure LaneSide.Converted (v w : LaneSide) : Prop where
  lane : ∀ m, w.lane m = { v.lane m with conv := (w.lane m).conv }
  panel : w.panel = v.panel

theorem LaneSide.Converted.refl (v : LaneSide) : v.Converted v := ⟨fun _ => rfl, rfl⟩

theorem LaneSide.Converted.trans {u v w : LaneSide} (a : u.Converted v) (b : v.Converted w) : u.Converted w :=
  ⟨fun m => by rw [b.lane m, a.lane m], b.panel.trans a.panel⟩

theorem Lane.Regranted.converted {x y : Lane} (h : x.Regranted y) : y = { x with conv := y.conv } := by rw [h]

theorem LaneSide.Converted.fillMoved (v : LaneSide) (l : LaneId) : v.Converted (v.fillMoved l) := by
  by_cases running : (v.lane l).state = .running
  · have judged := LaneSide.fillMoved_judged running
    refine ⟨fun m => ?_, judged.panel⟩
    by_cases e : m = l
    · subst e; rw [judged.lane]; rfl
    · exact (judged.others m e).regranted.converted
  · rw [LaneSide.fillMoved_idle running]; exact refl v

theorem LaneSide.boundary_lane (v : LaneSide) (l : LaneId) :
    v.boundary.lane l = { v.lane l with gauge := (v.lane l).gauge.tick, conv := (v.boundary.lane l).conv } := by
  have fills (ls : List LaneId) (u : LaneSide) : u.Converted (ls.foldl LaneSide.fillMoved u) := by
    induction ls generalizing u with
    | nil => exact .refl u
    | cons k ls ih => exact (LaneSide.Converted.fillMoved u k).trans (ih _)
  have moved := (fills allLanes { v with front := { v.front with lanes := v.front.lanes.map Lane.boundary } }).lane l
  have ticked : (LaneSide.lane { v with front := { v.front with lanes := v.front.lanes.map Lane.boundary } } l)
      = (v.lane l).boundary := by simp [LaneSide.lane]
  rw [ticked] at moved
  exact moved

theorem LaneSide.boundary_panel (v : LaneSide) : v.boundary.panel = v.panel := by
  have fills (ls : List LaneId) (u : LaneSide) : (ls.foldl LaneSide.fillMoved u).panel = u.panel := by
    induction ls generalizing u with
    | nil => rfl
    | cons k ls ih => exact (ih _).trans (LaneSide.Converted.fillMoved u k).panel
  exact fills allLanes _

/-! ## The programmes at a boundary -/

/-- Every programme's state stands, and the panel. -/
structure ProgSide.StatesKept (v w : ProgSide) : Prop where
  state : ∀ p, (w.prog p).state = (v.prog p).state
  panel : w.panel = v.panel

theorem ProgSide.StatesKept.boundaryProg (f : Front) (v : ProgSide) (p : ProgId) : v.StatesKept (v.boundaryProg f p) := by
  unfold ProgSide.boundaryProg
  dsimp only
  split
  · refine ⟨fun q => ?_, rfl⟩
    by_cases e : q = p
    · subst e
      simp [ProgSide.prog]
    · have e' : p.val ≠ q.val := fun e' => e (Fin.ext e'.symm)
      simp [ProgSide.prog, e']
  · exact ⟨fun _ => rfl, rfl⟩

theorem ProgSide.boundary_statesKept (f : Front) (v : ProgSide) : v.StatesKept (v.boundary f) := by
  have all (ps : List ProgId) (u : ProgSide) : u.StatesKept (ps.foldl (ProgSide.boundaryProg f) u) := by
    induction ps generalizing u with
    | nil => exact ⟨fun _ => rfl, rfl⟩
    | cons p ps ih =>
      have first := ProgSide.StatesKept.boundaryProg f u p
      have rest := ih (u.boundaryProg f p)
      exact ⟨fun q => (rest.state q).trans (first.state q), rest.panel.trans first.panel⟩
  exact all allProgs v

/-! ## What the pages given up leave alone (R91, log 19) -/

/-- What of a programme's members the output lanes show: which member is placed where, and what each has put out. -/
def Prog.outs (x : Prog) : List (MemberDef × Int) := x.members.map fun m => (m.spec, m.out)

/-- No member's placement and no output sample changes. -/
def ProgSide.OutsKept (v w : ProgSide) : Prop := ∀ p, (w.prog p).outs = (v.prog p).outs

namespace ProgSide.OutsKept

theorem refl (v : ProgSide) : v.OutsKept v := fun _ => rfl

theorem trans {u v w : ProgSide} (a : u.OutsKept v) (b : v.OutsKept w) : u.OutsKept w := fun p => (b p).trans (a p)

theorem foldl {α : Type} (f : ProgSide → α → ProgSide) (h : ∀ (v : ProgSide) (a : α), v.OutsKept (f v a)) (xs : List α)
    (v : ProgSide) : v.OutsKept (xs.foldl f v) := by
  induction xs generalizing v with
  | nil => exact refl v
  | cons x xs ih => exact (h v x).trans (ih _)

/-- One programme's record replaced by one with the same members' placements and outputs. -/
theorem set (v : ProgSide) (d : Dmc) {p : ProgId} {x : Prog} (h : x.outs = (v.prog p).outs) :
    v.OutsKept { v with dmc := d, progs := v.progs.set p x } := by
  intro q
  by_cases e : q = p
  · subst e
    have self : ProgSide.prog { v with dmc := d, progs := v.progs.set q x } q = x := by simp [ProgSide.prog]
    rw [self, h]
  · have e' : p.val ≠ q.val := fun e' => e (Fin.ext e'.symm)
    have other : ProgSide.prog { v with dmc := d, progs := v.progs.set p x } q = v.prog q := by simp [ProgSide.prog, e']
    rw [other]

theorem modDelay (v : ProgSide) (p : ProgId) (f : DelayRec → DelayRec) : v.OutsKept (v.modDelay p f) := set v v.dmc rfl

theorem moveDelay (v : ProgSide) (p : ProgId) (d : Nat) : v.OutsKept (v.modProg p (Prog.moveDelay d)) :=
  set v v.dmc (by simp [Prog.outs, Prog.moveDelay, ProgSide.prog])

theorem resize (v : ProgSide) (p : ProgId) (k : Nat) : v.OutsKept (v.resize p k) := by
  refine set v _ ?_
  have members := congrArg (List.map fun m : Member => (m.spec, m.out))
    (Dmc.resizeMembers_members v.dmc k (v.prog p).newest (v.prog p).members)
  rw [List.map_map, List.map_map] at members
  exact members

theorem leaveWait (v : ProgSide) (p : ProgId) : v.OutsKept (v.leaveWait p) := by
  unfold ProgSide.leaveWait
  split <;> exact refl _

theorem leaveIfFull (v : ProgSide) (p : ProgId) : v.OutsKept (v.leaveIfFull p) := by
  unfold ProgSide.leaveIfFull
  split
  · exact leaveWait v p
  · exact refl v

theorem onPanel (v : ProgSide) (f : Panel → Panel) : v.OutsKept (v.onPanel f) := fun _ => rfl

theorem event {f : ProgSide → ProgSide} (v : ProgSide) (h : v.OutsKept (f v)) : v.OutsKept (ProgSide.event f v) := by
  unfold ProgSide.event
  dsimp only
  split
  · exact h
  · exact h.trans (onPanel _ _)

theorem completeGlide (v : ProgSide) (p : ProgId) : v.OutsKept (v.completeGlide p) :=
  (modDelay v p _).trans (onPanel _ _)

theorem judgeGlide (v : ProgSide) (p : ProgId) : v.OutsKept (v.judgeGlide p) := by
  unfold ProgSide.judgeGlide
  dsimp only
  split
  · split
    · exact completeGlide v p
    · exact refl v
  · refine (moveDelay v p (64 * (v.prog p).delay.whole)).trans ?_
    split
    · exact completeGlide _ p
    · exact modDelay _ p _

theorem takeRaise (v : ProgSide) (p : ProgId) : v.OutsKept (v.takeRaise p) := by
  unfold ProgSide.takeRaise
  dsimp only
  split
  · split
    · exact refl v
    · exact modDelay v p _
  · exact judgeGlide v p
  · exact refl v
  · exact (moveDelay v p _).trans (modDelay _ p _)
  · exact modDelay v p _

theorem createRings (k : Nat) (d : Dmc) (ms : List Member) :
    (Dmc.createRings k d ms).2.map (fun m => (m.spec, m.out)) = ms.map fun m => (m.spec, m.out) := by
  induction ms generalizing d with
  | nil => rfl
  | cons m ms ih => simp only [Dmc.createRings, List.map_cons, ih]

theorem startProg (v : ProgSide) (p : ProgId) (delay : Nat) : v.OutsKept (v.startProg p delay) := by
  refine set v _ ?_
  simp only [Prog.outs, Prog.setTaps, Prog.startMeter, List.map_map]
  exact createRings _ _ _

theorem serveWaiter (v : ProgSide) (p : ProgId) : v.OutsKept (v.serveWaiter p) := by
  unfold ProgSide.serveWaiter
  dsimp only
  split
  · split
    · exact (((modDelay v p _).trans (resize _ p _)).trans (takeRaise _ p)).trans (leaveIfFull _ p)
    · exact refl v
  · split
    · exact (startProg v p _).trans (leaveIfFull _ p)
    · exact refl v
  · exact refl v

theorem holdingFell (v : ProgSide) (p : ProgId) : v.OutsKept (v.holdingFell p) := by
  unfold ProgSide.holdingFell
  dsimp only
  split
  · exact event v ((resize v p _).trans (foldl _ serveWaiter _ _))
  · exact refl v

theorem givePages (v : ProgSide) : v.OutsKept v.givePages := by
  refine foldl _ (fun u p => ?_) _ v
  unfold ProgSide.glidePages
  split
  · exact holdingFell u p
  · exact refl u

end ProgSide.OutsKept

/-! ## Slot words (R15, R197) -/

theorem onesBelow_countP (w n : Nat) : onesBelow w n = (List.range n).countP fun k => w.testBit k := by
  induction n with
  | zero => rfl
  | succ n ih => rw [onesBelow, ih, List.range_succ, List.countP_append, List.countP_singleton]

theorem countP_range_sub (f : Nat → Bool) (n : Nat) : (List.range (n + 1)).countP (fun k => f (n - k)) = (List.range (n + 1)).countP f := by
  have mirror : (List.range (n + 1)).reverse = (List.range (n + 1)).map fun k => n - k := by
    simp [List.range_eq_range' (n := n + 1), List.reverse_range']
  rw [← List.countP_reverse (l := List.range (n + 1)) (p := f), mirror, List.countP_map]
  rfl

/-- The sample and the valid flag of a slot word (R197). -/
def slotBody (sample : Int) : BitVec 25 := BitVec.ofInt 24 sample ++ BitVec.ofBool true

/-- A slot word's pad, parity bit and body (R197). -/
theorem getLsbD_slotWord (sample : Int) (i : Nat) : (slotWord sample true).getLsbD i =
    if i < 6 then false else if i = 6 then onesBelow (slotBody sample).toNat 25 % 2 == 1 else (slotBody sample).getLsbD (i - 7) := by
  unfold slotWord
  dsimp only
  rw [BitVec.getLsbD_append, BitVec.getLsbD_append, BitVec.getLsbD_ofBool]
  split
  · simp
  · by_cases parity : i = 6
    · subst parity; simp [slotBody]
    · rw [if_neg (by omega), if_neg parity, show i - 6 - 1 = i - 7 by omega]
      rfl

theorem getLsbD_slotBody (sample : Int) (i : Nat) : (slotBody sample).getLsbD i =
    if i < 1 then true else (BitVec.ofInt 24 sample).getLsbD (i - 1) := by
  unfold slotBody
  rw [BitVec.getLsbD_append, BitVec.getLsbD_ofBool]
  split
  · next h => simp [show i = 0 by omega]
  · rfl

/-- The bit periods of parity and body hold an even count of ones. -/
theorem slotWord_parity (sample : Int) : ((List.range 26).countP fun k => (slotWord sample true).getLsbD (31 - k)) % 2 = 0 := by
  have periods : ∀ k ∈ List.range 25, (slotWord sample true).getLsbD (31 - k) = true
      ↔ (slotBody sample).getLsbD (24 - k) = true := by
    intro k hk
    have below := List.mem_range.1 hk
    rw [getLsbD_slotWord, if_neg (by omega), if_neg (by omega), show 31 - k - 7 = 24 - k by omega]
  have body : ((List.range 25).countP fun k => (slotWord sample true).getLsbD (31 - k)) = onesBelow (slotBody sample).toNat 25 := by
    rw [List.countP_congr periods, countP_range_sub (slotBody sample).getLsbD 24, onesBelow_countP]
    rfl
  have parity : (slotWord sample true).getLsbD 6 = (onesBelow (slotBody sample).toNat 25 % 2 == 1) := by
    rw [getLsbD_slotWord, if_neg (by decide), if_pos rfl]
  rw [List.range_succ, List.countP_append, List.countP_singleton, body, show 31 - 25 = 6 by rfl, parity]
  by_cases odd : onesBelow (slotBody sample).toNat 25 % 2 = 1
  · simp [odd]; omega
  · simp [odd]; omega

theorem slotWord_carries (sample : Int) : SlotWord.Carries (slotWord sample true) sample := by
  refine ⟨BitVec.eq_of_getLsbD_eq fun i hi => ?_, ?_, slotWord_parity sample, BitVec.eq_of_getLsbD_eq fun i hi => ?_⟩
  · rw [BitVec.getLsbD_extractLsb', getLsbD_slotWord, if_neg (by omega), if_neg (by omega), getLsbD_slotBody, if_neg (by omega),
      show 8 + i - 7 - 1 = i by omega]
    simp [hi]
  · rw [getLsbD_slotWord, if_neg (by decide), if_neg (by decide), getLsbD_slotBody]
    rfl
  · rw [BitVec.getLsbD_extractLsb', getLsbD_slotWord, if_pos (by omega)]
    simp

/-! ## The output lanes and the monitor pair (R15, R16) -/

theorem getElem?_flatMap_const {α β : Type} {f : α → List β} {n k : Nat} (hf : ∀ x, (f x).length = n) (hk : k < n) (xs : List α)
    (i : Nat) : (xs.flatMap f)[n * i + k]? = (xs[i]?).bind fun x => (f x)[k]? := by
  induction xs generalizing i with
  | nil => simp
  | cons x xs ih =>
    rw [List.flatMap_cons]
    cases i with
    | zero => rw [List.getElem?_append_left (by rw [hf]; omega)]; simp
    | succ i =>
      rw [List.getElem?_append_right (by rw [hf, Nat.mul_succ]; omega), hf, show n * (i + 1) + k - n = n * i + k by
        rw [Nat.mul_succ]; omega, ih]
      rfl

theorem outputWords_length (progs : Vector Prog 16) : (outputWords progs).length = 64 := by
  simp [outputWords, allLanes, allSlots]

theorem outputWords_slot (progs : Vector Prog 16) (l : LaneId) (k : SlotId) :
    (outputWords progs)[8 * l.val + k.val]? = some (outputWord progs l k) := by
  have lane : allLanes[l.val]? = some l := by revert l; decide
  have slot : allSlots[k.val]? = some k := by revert k; decide
  rw [outputWords, getElem?_flatMap_const (by simp [allSlots]) k.isLt, lane]
  simp [slot]

theorem monitorWords_length (progs : Vector Prog 16) (p : Option ProgId) : (monitorWords progs p).length = 2 := by
  cases p <;> rfl

theorem Prog.memberWord_idle {x : Prog} (h : x.state.live = false) (i : Nat) : x.memberWord i = 0 := by
  rw [Prog.memberWord, h]
  rfl

theorem Prog.memberWord_live {x : Prog} {i : Nat} {m : Member} (h : x.state.live = true) (hm : x.members[i]? = some m) :
    x.memberWord i = slotWord m.out true := by
  rw [Prog.memberWord, h, hm]

theorem mem_allProgs (p : ProgId) : p ∈ allProgs := by revert p; decide

/-- The word of an output slot that no member is placed on, and of one that a member is. -/
theorem outputWord_cases (progs : Vector Prog 16) (l : LaneId) (k : SlotId) :
    (outputWord progs l k = 0 ∧ ∀ p : ProgId, ∀ m ∈ (progs[p]).members, m.spec.placement ≠ some (l, k))
      ∨ ∃ (p : ProgId) (i : Nat) (m : Member), (progs[p]).members[i]? = some m ∧ m.spec.placement = some (l, k)
        ∧ outputWord progs l k = (progs[p]).memberWord i := by
  cases holder : outputHolder progs l k with
  | none =>
    left
    refine ⟨by rw [outputWord, holder]; rfl, fun p m hm placed => ?_⟩
    have free := List.find?_eq_none.1 holder p (mem_allProgs p)
    exact free (List.any_eq_true.2 ⟨m, hm, by simp [placed]⟩)
  | some p =>
    right
    have held := List.find?_some holder
    have found : ((progs[p]).members).findIdx (fun m => m.spec.placement == some (l, k)) < (progs[p]).members.length :=
      List.findIdx_lt_length.2 (by simpa using held)
    exact ⟨p, _, _, List.getElem?_eq_getElem found, by simpa using List.findIdx_getElem (w := found),
      by rw [outputWord, holder]⟩

/-- A member of one record has its like, at the same place, in another with the same placements and outputs. -/
theorem Prog.outs_member {x y : Prog} (h : x.outs = y.outs) {i : Nat} {n : Member} (hn : y.members[i]? = some n) :
    ∃ m, x.members[i]? = some m ∧ m.spec = n.spec ∧ m.out = n.out := by
  have same : (x.members[i]?).map (fun m => (m.spec, m.out)) = some (n.spec, n.out) := by
    rw [← List.getElem?_map, show x.members.map (fun m => (m.spec, m.out)) = y.members.map fun m => (m.spec, m.out) from h,
      List.getElem?_map, hn]
    rfl
  obtain ⟨m, hm, e⟩ := Option.map_eq_some_iff.1 same
  exact ⟨m, hm, congrArg Prod.fst e, congrArg Prod.snd e⟩

theorem ProgState.live_iff (st : ProgState) : st.live = true ↔ st = .running ∨ st = .releasing := by cases st <;> simp [ProgState.live]

/-! ## The boundary -/

theorem State.lanesBoundary_wch (s : State) : (s.onLanes LaneSide.boundary).wch = s.wch := by
  rw [State.onLanes_wch, LaneSide.boundary_panel]
  rfl

theorem State.progsBoundary_wch (s : State) (f : Front) : (s.onProgs (ProgSide.boundary f)).wch = s.wch := by
  rw [State.onProgs_wch, (ProgSide.boundary_statesKept _ _).panel]
  rfl

theorem State.progsBoundary_state (s : State) (f : Front) (p : ProgId) :
    ((s.onProgs (ProgSide.boundary f)).prog p).state = (s.prog p).state := by
  rw [State.onProgs_prog, (ProgSide.boundary_statesKept _ _).state]
  rfl

theorem State.givePages_outs (s : State) (p : ProgId) : ((s.drive.onProgs ProgSide.givePages).prog p).outs = (s.prog p).outs := by
  rw [State.onProgs_prog, ProgSide.OutsKept.givePages]
  rfl

@[simp] theorem State.drive_refu (s : State) : s.drive.refu = s.refu := rfl
@[simp] theorem State.drive_pfu (s : State) : s.drive.pfu = s.pfu := rfl
@[simp] theorem State.drive_pending (s : State) : s.drive.pending = s.pending := rfl
@[simp] theorem State.drive_powered (s : State) : s.drive.powered = s.powered := rfl
@[simp] theorem State.drive_lane (s : State) (l : LaneId) : s.drive.lane l = s.lane l := rfl

/-- The clock and the lanes have advanced (R4, R21, R22). -/
@[irreducible] def State.lanesAdvanced (s : State) : State := ({ s with refu := s.refu.boundary } : State).onLanes LaneSide.boundary

/-- The state in which a boundary's outputs go out: with nothing outstanding, the clock, the lanes and the programmes have advanced. -/
@[irreducible] def State.advanced (s : State) : State := s.lanesAdvanced.onProgs (ProgSide.boundary s.lanesAdvanced.front)

theorem State.frameBoundary_eq {s : State} (h : s.NothingOutstanding) :
    s.frameBoundary = s.advanced.drive.onProgs ProgSide.givePages := by
  rw [State.frameBoundary, State.settle_self h, State.advanced, State.lanesAdvanced]

/-- What the boundary has made of the clock, the lanes and what it does not touch. -/
theorem State.advanced_frame (s : State) : s.advanced.refu = s.refu.boundary ∧ s.advanced.wch = s.wch
    ∧ s.advanced.pfu = s.pfu ∧ s.advanced.pending = s.pending ∧ s.advanced.powered = s.powered := by
  rw [State.advanced, State.progsBoundary_wch, State.onProgs_refu, State.onProgs_pfu, State.onProgs_pending, State.onProgs_powered,
    State.lanesAdvanced, State.lanesBoundary_wch]
  exact ⟨rfl, rfl, rfl, rfl, rfl⟩

theorem State.lanesBoundary_lane (s : State) (l : LaneId) : (s.onLanes LaneSide.boundary).lane l = { s.lane l with
    gauge := (s.lane l).gauge.tick, conv := ((s.onLanes LaneSide.boundary).lane l).conv } := by
  rw [State.onLanes_lane]
  exact s.laneSide.boundary_lane l

theorem State.onProgs_lane (s : State) (f : ProgSide → ProgSide) (l : LaneId) : (s.onProgs f).lane l = s.lane l := rfl

theorem State.advanced_lane (s : State) (l : LaneId) : s.advanced.lane l = { s.lane l with
    gauge := (s.lane l).gauge.tick, conv := (s.advanced.lane l).conv } := by
  rw [State.advanced, State.onProgs_lane, State.lanesAdvanced]
  exact State.lanesBoundary_lane { s with refu := s.refu.boundary } l

theorem State.advanced_prog_state (s : State) (p : ProgId) : (s.advanced.prog p).state = (s.prog p).state := by
  rw [State.advanced, State.progsBoundary_state, State.lanesAdvanced, State.prog, State.onLanes_progs]
  rfl

/-- Settles O28: the outputs go out of the advanced state, and what the glides give up afterwards changes neither a placement nor an
output sample. -/
theorem frameBoundaryAdvancesTheClockAndDrivesTheOutputs : Obligations.FrameBoundaryAdvancesTheClockAndDrivesTheOutputs := by
  intro s on quiet
  have outs := State.givePages_outs s.advanced
  have live (p : ProgId) : (s.advanced.prog p).state.live = (s.prog p).state.live := by rw [s.advanced_prog_state p]
  have sounding (p : ProgId) (h : (s.prog p).state = .running ∨ (s.prog p).state = .releasing) : (s.advanced.prog p).state.live = true :=
    (live p).trans ((ProgState.live_iff _).2 h)
  have silent (p : ProgId) (running : (s.prog p).state ≠ .running) (releasing : (s.prog p).state ≠ .releasing) :
      (s.advanced.prog p).state.live = false :=
    (live p).trans (Bool.eq_false_iff.2 fun h => ((ProgState.live_iff _).1 h).elim running releasing)
  obtain ⟨refu, wch, pfu, pending, powered⟩ := s.advanced_frame
  have driven : (s.advanced.drive.onProgs ProgSide.givePages).out = if s.pfu.outcome = .loading then Outputs.idle
      else { slots := outputWords s.advanced.progs, monitor := monitorWords s.advanced.progs s.wch.monitored } := by
    rw [State.onProgs_out, State.drive, pfu, wch]
  refine ⟨(s.advanced.drive.onProgs ProgSide.givePages).transmit, ?_, ?_⟩
  · rw [exec, execOutputFrameBoundary, State.carry_on on, State.frameBoundary_eq quiet]
  simp only [State.transmit_out, State.transmit_prog, State.transmit_refu, State.transmit_lane, State.transmit_pfu,
    State.transmit_pending, State.transmit_powered, State.onProgs_refu, State.onProgs_lane, State.onProgs_pfu, State.onProgs_pending,
    State.onProgs_powered, State.drive_refu, State.drive_lane, State.drive_pfu, State.drive_pending, State.drive_powered]
  refine ⟨refu, fun l => s.advanced_lane l, pfu, pending, powered.trans on, ?_, ?_, fun loading w hw => ?_,
    fun loaded => ⟨fun l k w hw => ?_, fun none => ?_, fun p hp => ?_⟩⟩
  · rw [driven]
    split
    · rfl
    · exact outputWords_length _
  · rw [driven]
    split
    · rfl
    · exact monitorWords_length _ _
  · rw [driven, if_pos loading] at hw
    rcases List.mem_append.1 hw with h | h <;> exact List.eq_of_mem_replicate h
  · rw [driven, if_neg loaded] at hw
    obtain rfl : outputWord s.advanced.progs l k = w := Option.some.inj ((outputWords_slot _ l k).symm.trans hw)
    rcases outputWord_cases s.advanced.progs l k with ⟨idle, free⟩ | ⟨q, i, n, hn, placed, word⟩
    · refine ⟨fun _ => idle, fun p m hm placed => ?_⟩
      obtain ⟨i, hi⟩ := List.mem_iff_getElem?.1 hm
      obtain ⟨n, hn, spec, -⟩ := Prog.outs_member (outs p).symm hi
      exact absurd ((congrArg MemberDef.placement spec).trans placed) (free p n (List.mem_of_getElem? hn))
    · obtain ⟨m, hm, spec, out⟩ := Prog.outs_member (outs q) hn
      have mine := (congrArg MemberDef.placement spec).trans placed
      refine ⟨fun free => absurd mine (free q m (List.mem_of_getElem? hm)), fun p m' hm' placed' only => ?_⟩
      obtain ⟨rfl, rfl⟩ := only q m (List.mem_of_getElem? hm) mine
      refine ⟨fun sounds => ?_, fun running releasing => ?_⟩
      · have heard := word.trans (Prog.memberWord_live (sounding q sounds) hn)
        rw [heard, out]
        exact slotWord_carries _
      · rw [word]
        exact Prog.memberWord_idle (silent q running releasing) i
  · rw [driven, if_neg loaded, none]
    rfl
  · rw [driven, if_neg loaded, hp]
    refine ⟨fun running releasing => ?_, fun first rest sounds members => ?_⟩
    · have idle := Prog.memberWord_idle (silent p running releasing)
      exact congrArg₂ (fun a b => [a, b]) (idle _) (idle _)
    · have lengths := congrArg List.length (outs p)
      rw [Prog.outs, Prog.outs, List.length_map, List.length_map, members, List.length_cons] at lengths
      obtain ⟨a, ha, -, outA⟩ := Prog.outs_member (outs p).symm (i := 0) (n := first) (by rw [members]; rfl)
      have shown {i : Nat} {m n : Member} (hm : (s.advanced.prog p).members[i]? = some m) (out : m.out = n.out) :
          SlotWord.Carries ((s.advanced.prog p).memberWord i) n.out := by
        rw [Prog.memberWord_live (sounding p sounds) hm, out]
        exact slotWord_carries _
      refine ⟨_, _, rfl, shown ha outA, ?_⟩
      cases rest with
      | nil =>
        rw [show s.advanced.progs[p].members.length = 1 from lengths.symm, if_pos rfl]
        exact shown ha outA
      | cons second rest =>
        obtain ⟨b, hb, -, outB⟩ := Prog.outs_member (outs p).symm (i := 1) (n := second) (by rw [members]; rfl)
        rw [if_neg (show ¬s.advanced.progs[p].members.length = 1 by
          rw [show s.advanced.progs[p].members.length = _ from lengths.symm]; simp)]
        exact shown hb outB

end Sys2Proof.Machine

/-! O51: the end of the profile load. The image's records as read, the lanes, the stored programmes and the watches one after the
other, and the counts. -/
namespace Sys2Proof.Machine

/-! ## The header of the image (10.1) -/

theorem Memory.readBytes_drop (m : Memory) (a n k : Nat) : (m.readBytes a n).drop k = m.readBytes (a + k) (n - k) := by
  induction k generalizing a n with
  | zero => simp
  | succ k ih =>
    cases n with
    | zero => simp [Memory.readBytes]
    | succ n => rw [Memory.readBytes, List.drop_succ_cons, ih, Nat.add_right_comm a 1 k, Nat.add_assoc a k 1, Nat.succ_sub_succ]

theorem Memory.readBytes_take (m : Memory) (a n k : Nat) (h : k ≤ n) : (m.readBytes a n).take k = m.readBytes a k := by
  induction k generalizing a n with
  | zero => simp [Memory.readBytes]
  | succ k ih =>
    obtain ⟨n, rfl⟩ : ∃ j, n = j + 1 := ⟨n - 1, by omega⟩
    rw [Memory.readBytes, List.take_succ_cons, ih _ _ (by omega), Memory.readBytes]

theorem Memory.fieldAt_readBytes (m : Memory) (a n offset width : Nat) (h : offset + width ≤ n) :
    fieldAt (m.readBytes a n) offset width = (m.readBytes (a + offset) width).foldl (fun v b => v * 256 + b.toNat) 0 := by
  rw [fieldAt, Memory.readBytes_drop, Memory.readBytes_take m _ _ _ (by omega)]

theorem readHeader_bodyLength (m : Memory) : (readHeader m).bodyLength = fieldAt (m.readBytes 0 16) 6 2 :=
  (m.fieldAt_readBytes 0 16 6 2 (by decide)).symm

theorem readHeader_storeCount (m : Memory) : (readHeader m).storeCount = fieldAt (m.readBytes 0 16) 8 4 :=
  (m.fieldAt_readBytes 0 16 8 4 (by decide)).symm

theorem readHeader_marked (m : Memory) :
    (readHeader m).marked = true ↔ (m.readBytes 0 16).take 5 = [0x4B, 0x5A, 0x36, 0x34, 1] := by
  rw [Memory.readBytes_take m 0 16 5 (by decide)]
  simp [readHeader, Memory.readBytes, imageMarker, and_assoc]

/-- What the load takes from the header, in the bytes of the header. -/
theorem Pfu.readStart_eq (u : Pfu) :
    u.readStart = { u with
      bodyLength := if (u.answered || u.headerRead) = true then fieldAt (u.mem.readBytes 0 16) 6 2 else 0
      storeCount := if (u.answered || u.headerRead) = true ∧ (u.mem.readBytes 0 16).take 5 = [0x4B, 0x5A, 0x36, 0x34, 1]
        then fieldAt (u.mem.readBytes 0 16) 8 4 else 0 } := by
  unfold Pfu.readStart Pfu.headerKnown
  simp only [readHeader_bodyLength, readHeader_storeCount, readHeader_marked]

/-! ## Records in which every field is present (11.6) -/

theorem Reader.opt_true {α : Type} {r : Reader α} {bs : List Byte} {a : Option α} {rest : List Byte}
    (h : Reader.opt true r bs = some (a, rest)) : a.isSome = true := by
  obtain ⟨x, -, rfl⟩ := Reader.map_eq_some.1 (show r.map some bs = some (a, rest) from h)
  rfl

/-- Every setting of a LOUD_SET is present. -/
structure LoudBody.Full (b : LoudBody) : Prop where
  window : b.window.isSome = true
  relGate : b.relGate.isSome = true
  minCount : b.minCount.isSome = true
  target : b.target.isSome = true
  gmax : b.gmax.isSome = true
  gmin : b.gmin.isSome = true
  upSlew : b.upSlew.isSome = true
  downSlew : b.downSlew.isSome = true
  band : b.band.isSome = true
  g0 : b.g0.isSome = true

theorem readLoud_full {bs rest : List Byte} {b : LoudBody} (h : readLoud 0x3FF bs = some (b, rest)) : b.Full := by
  obtain ⟨window, bs1, f1, h⟩ := Reader.andThen_eq_some.1 h
  obtain ⟨relGate, bs2, f2, h⟩ := Reader.andThen_eq_some.1 h
  obtain ⟨minCount, bs3, f3, h⟩ := Reader.andThen_eq_some.1 h
  obtain ⟨target, bs4, f4, h⟩ := Reader.andThen_eq_some.1 h
  obtain ⟨gmax, bs5, f5, h⟩ := Reader.andThen_eq_some.1 h
  obtain ⟨gmin, bs6, f6, h⟩ := Reader.andThen_eq_some.1 h
  obtain ⟨upSlew, bs7, f7, h⟩ := Reader.andThen_eq_some.1 h
  obtain ⟨downSlew, bs8, f8, h⟩ := Reader.andThen_eq_some.1 h
  obtain ⟨band, bs9, f9, h⟩ := Reader.andThen_eq_some.1 h
  obtain ⟨g0, f10, rfl⟩ := Reader.map_eq_some.1 h
  exact ⟨Reader.opt_true f1, Reader.opt_true f2, Reader.opt_true f3, Reader.opt_true f4, Reader.opt_true f5, Reader.opt_true f6,
    Reader.opt_true f7, Reader.opt_true f8, Reader.opt_true f9, Reader.opt_true f10⟩

theorem readProgRecord_loud {bs rest : List Byte} {r : ProgRecord} (h : readProgRecord bs = some (r, rest)) : r.loud.Full := by
  obtain ⟨prog, bs1, -, h⟩ := Reader.andThen_eq_some.1 h
  obtain ⟨members, bs2, -, h⟩ := Reader.andThen_eq_some.1 h
  obtain ⟨video, bs3, -, h⟩ := Reader.andThen_eq_some.1 h
  obtain ⟨trim, bs4, -, h⟩ := Reader.andThen_eq_some.1 h
  obtain ⟨method, bs5, -, h⟩ := Reader.andThen_eq_some.1 h
  obtain ⟨glide, bs6, -, h⟩ := Reader.andThen_eq_some.1 h
  obtain ⟨loud, bs7, read, h⟩ := Reader.andThen_eq_some.1 h
  obtain ⟨paused, bs8, -, h⟩ := Reader.andThen_eq_some.1 h
  obtain ⟨period, bs9, -, h⟩ := Reader.andThen_eq_some.1 h
  obtain ⟨selection, -, rfl⟩ := Reader.map_eq_some.1 h
  exact readLoud_full read

/-- Every field of a watch part is present, and the measure belongs to the object's kind (11.6, R188). -/
structure WatchBody.Full (b : WatchBody) : Prop where
  enable : b.enable.isSome = true
  threshold : b.threshold.isSome = true
  sense : b.sense.isSome = true
  mode : b.mode.isSome = true
  raiseCount : b.raiseCount.isSome = true
  clearCount : b.clearCount.isSome = true
  severity : b.severity.isSome = true
  freezeEnable : b.freezeEnable.isSome = true
  source : ∃ kind number code measure, b.object = some (kind, number) ∧ b.measure = some code ∧ kind.measures[code]? = some measure

theorem readWatchRecord_full {bs rest : List Byte} {b : WatchBody} (h : readWatchRecord bs = some (b, rest)) : b.Full := by
  obtain ⟨h, listed⟩ := Reader.check_eq_some.1 h
  obtain ⟨enable, bs1, f1, h⟩ := Reader.andThen_eq_some.1 h
  obtain ⟨object, bs2, f2, h⟩ := Reader.andThen_eq_some.1 h
  obtain ⟨code, bs3, f3, h⟩ := Reader.andThen_eq_some.1 h
  obtain ⟨threshold, bs4, f4, h⟩ := Reader.andThen_eq_some.1 h
  obtain ⟨sense, bs5, f5, h⟩ := Reader.andThen_eq_some.1 h
  obtain ⟨mode, bs6, f6, h⟩ := Reader.andThen_eq_some.1 h
  obtain ⟨raiseCount, bs7, f7, h⟩ := Reader.andThen_eq_some.1 h
  obtain ⟨clearCount, bs8, f8, h⟩ := Reader.andThen_eq_some.1 h
  obtain ⟨severity, bs9, f9, h⟩ := Reader.andThen_eq_some.1 h
  obtain ⟨freezeEnable, f10, rfl⟩ := Reader.map_eq_some.1 h
  obtain ⟨⟨kind, number⟩, rfl⟩ := Option.isSome_iff_exists.1 (Reader.opt_true f2)
  obtain ⟨code, rfl⟩ := Option.isSome_iff_exists.1 (Reader.opt_true f3)
  obtain ⟨measure, listed⟩ := Option.isSome_iff_exists.1 (show (kind.measure code).isSome = true from listed)
  exact ⟨Reader.opt_true f1, Reader.opt_true f4, Reader.opt_true f5, Reader.opt_true f6, Reader.opt_true f7, Reader.opt_true f8,
    Reader.opt_true f9, Reader.opt_true f10, kind, number, code, measure, rfl, rfl, listed⟩

/-! ## The watch records applied (R150, R170, R189) -/

/-- At most these watches, with their alarms, and with watch 31 the major level, have changed. -/
structure State.WatchesOnly (ws : List WatchId) (s t : State) : Prop where
  rest : ∃ v : Panel, t = s.onPanel fun _ => v
  others : ∀ i : WatchId, i ∉ ws → t.wch.watches[i] = s.wch.watches[i]
  raised : ∀ a : AlarmId, (∀ w ∈ ws, a ≠ .watch w) → a ≠ .noticeLoss → t.wch.isRaised a = s.wch.isRaised a
  major : (31 : WatchId) ∉ ws → t.wch.majorLevel = s.wch.majorLevel

namespace State.WatchesOnly

theorem refl (ws : List WatchId) (s : State) : s.WatchesOnly ws s := ⟨⟨s.panel, rfl⟩, fun _ _ => rfl, fun _ _ _ => rfl, fun _ => rfl⟩

theorem cons {w : WatchId} {ws : List WatchId} {s t u : State} (first : s.WatchesOnly [w] t) (then_ : t.WatchesOnly ws u) :
    s.WatchesOnly (w :: ws) u := by
  obtain ⟨⟨v, rfl⟩, others, raised, major⟩ := first
  obtain ⟨⟨v', rfl⟩, others', raised', major'⟩ := then_
  refine ⟨⟨v', rfl⟩, fun i out => ?_, fun a other loss => ?_, fun out => ?_⟩
  · exact (others' i fun m => out (.tail w m)).trans (others i fun m => out (by simp_all))
  · exact (raised' a (fun x m => other x (.tail w m)) loss).trans (raised a (fun x m => other x (by simp_all)) loss)
  · exact (major' fun m => out (.tail w m)).trans (major fun m => out (by simp_all))

end State.WatchesOnly

/-- What becomes of a watch when its record is applied: refused, the watch is left as it was, and with watch 31 the major level; taken,
the watch starts with the record, its alarm clear. -/
structure WatchBody.Applied (b : WatchBody) (major : Nat) (w : WatchId) (u v : Wch) : Prop where
  refused : ∀ status, b.judge (u.watches[w]).record = .error status →
    v.watches[w] = u.watches[w] ∧ (w = 31 → v.majorLevel = u.majorLevel)
  taken : ∀ r, b.judge (u.watches[w]).record = .ok r →
    v.watches[w] = r.start ∧ v.isRaised (.watch w) = false ∧ (w = 31 → v.majorLevel = clampNat major 1 7)

theorem Panel.setMajorLevel_watches (level : Option Nat) (v : Panel) : (v.setMajorLevel level).wch.watches = v.wch.watches := by
  cases level <;> rfl

theorem Panel.setMajorLevel_isRaised (level : Option Nat) (v : Panel) (a : AlarmId) :
    (v.setMajorLevel level).wch.isRaised a = v.wch.isRaised a := by
  cases level <;> rfl

theorem Panel.restartWatch_self (w : WatchId) (r : WatchRecord) (v : Panel) :
    (v.restartWatch w r).wch.watches[w] = r.start ∧ (v.restartWatch w r).wch.isRaised (.watch w) = false :=
  ⟨Panel.setWatch_watches_self w r.start _, Panel.clear_isRaised (.watch w) v (by simp)⟩

theorem Panel.restartWatch_majorLevel (w : WatchId) (r : WatchRecord) (v : Panel) :
    (v.restartWatch w r).wch.majorLevel = v.wch.majorLevel := (v.clear_kept (.watch w)).majorLevel

theorem Panel.restartWatch_watches_other {w i : WatchId} (h : i ≠ w) (r : WatchRecord) (v : Panel) :
    (v.restartWatch w r).wch.watches[i] = v.wch.watches[i] := by
  rw [Panel.restartWatch, Panel.setWatch_watches_other _ _ h, (v.clear_kept (.watch w)).watches]

theorem Panel.restartWatch_isRaised_other {w : WatchId} {a : AlarmId} (h : a ≠ .watch w) (loss : a ≠ .noticeLoss) (r : WatchRecord)
    (v : Panel) : (v.restartWatch w r).wch.isRaised a = v.wch.isRaised a := Panel.clear_isRaised_other (.watch w) v h loss

theorem applyWatch_eq (major : Nat) (s : State) (w : WatchId) (b : WatchBody) :
    applyWatch major s (w, b) =
      match b.judge (s.wch.watches[w]).record with
      | .error _ => s
      | .ok r => s.onPanel (Panel.setWatchParts (some (w, r)) (if w = 31 then some major else none)) := by
  have number : watchOf w.val = some w := by simp [watchOf]
  unfold applyWatch watchSetAnswer WatchSetBody.judge
  simp only [number]
  cases b.judge (s.wch.watches[w]).record <;> rfl

/-- A record applied changes its own watch only. -/
theorem applyWatch_only (major : Nat) (s : State) (w : WatchId) (b : WatchBody) : s.WatchesOnly [w] (applyWatch major s (w, b)) := by
  rw [applyWatch_eq]
  cases b.judge (s.wch.watches[w]).record with
  | error status => exact .refl [w] s
  | ok r =>
    refine ⟨⟨_, rfl⟩, fun i out => ?_, fun a other loss => ?_, fun out => ?_⟩
    · show ((s.panel.restartWatch w r).setMajorLevel _).wch.watches[i] = _
      rw [Panel.setMajorLevel_watches]
      exact Panel.restartWatch_watches_other (by simpa using out) r s.panel
    · show ((s.panel.restartWatch w r).setMajorLevel _).wch.isRaised a = _
      rw [Panel.setMajorLevel_isRaised]
      exact Panel.restartWatch_isRaised_other (other w (by simp)) loss r s.panel
    · have not31 : w ≠ 31 := fun e => out (by simp [e])
      show ((s.panel.restartWatch w r).setMajorLevel _).wch.majorLevel = _
      rw [if_neg not31]
      exact Panel.restartWatch_majorLevel w r s.panel

theorem applyWatch_applied (major : Nat) (s : State) (w : WatchId) (b : WatchBody) :
    b.Applied major w s.wch (applyWatch major s (w, b)).wch := by
  rw [applyWatch_eq]
  constructor
  · intro status refused
    rw [refused]
    exact ⟨rfl, fun _ => rfl⟩
  · intro r taken
    rw [taken]
    obtain ⟨start, clear⟩ := Panel.restartWatch_self w r s.panel
    refine ⟨?_, ?_, fun last => ?_⟩
    · show ((s.panel.restartWatch w r).setMajorLevel _).wch.watches[w] = _
      rw [Panel.setMajorLevel_watches, start]
    · show ((s.panel.restartWatch w r).setMajorLevel _).wch.isRaised _ = _
      rw [Panel.setMajorLevel_isRaised, clear]
    · show ((s.panel.restartWatch w r).setMajorLevel _).wch.majorLevel = _
      rw [if_pos last]
      rfl

/-- Records of different watches applied one after the other: each has its own effect, and no other watch changes. -/
theorem applyWatches_applied (major : Nat) (ws : List (WatchId × WatchBody)) (s : State) (distinct : (ws.map (·.1)).Nodup) :
    s.WatchesOnly (ws.map (·.1)) (ws.foldl (applyWatch major) s)
      ∧ ∀ x ∈ ws, x.2.Applied major x.1 s.wch (ws.foldl (applyWatch major) s).wch := by
  induction ws generalizing s with
  | nil => exact ⟨.refl [] s, by simp⟩
  | cons x ws ih =>
    obtain ⟨w, b⟩ := x
    obtain ⟨apart, distinct⟩ := List.nodup_cons.1 distinct
    obtain ⟨only, each⟩ := ih (applyWatch major s (w, b)) distinct
    have first := applyWatch_only major s w b
    refine ⟨first.cons only, fun x hx => ?_⟩
    rcases List.mem_cons.1 hx with rfl | hx
    · have applied := applyWatch_applied major s w b
      have same := only.others w apart
      have level (last : w = 31) := only.major (last ▸ apart)
      have raised := only.raised (.watch w) (fun i m e => apart (by cases e; exact m)) (by simp)
      constructor
      · intro status refused
        obtain ⟨watch, major⟩ := applied.refused status refused
        exact ⟨same.trans watch, fun last => (level last).trans (major last)⟩
      · intro r taken
        obtain ⟨watch, clear, major⟩ := applied.taken r taken
        exact ⟨same.trans watch, raised.trans clear, fun last => (level last).trans (major last)⟩
    · have later := each x hx
      have other : x.1 ≠ w := fun e => apart (List.mem_map.2 ⟨x, hx, e⟩)
      have same := first.others x.1 (by simpa using other)
      have level (last : x.1 = 31) := first.major (by simpa [← last] using other)
      refine ⟨fun status refused => ?_, fun r taken => later.taken r (same ▸ taken)⟩
      obtain ⟨watch, major⟩ := later.refused status (same ▸ refused)
      exact ⟨watch.trans same, fun last => (major last).trans (level last)⟩

/-- The object that a kind and a number name does not exist just for a programme above 15 or a lane above 7 (R170). -/
theorem ObjectKind.object_eq_none (k : ObjectKind) (n : Nat) : k.object n = none ↔ k = .programme ∧ 15 < n ∨ k = .lane ∧ 7 < n := by
  cases k <;> simp [ObjectKind.object, progOf, laneOf, Nat.succ_le_iff]

theorem ObjectKind.object_eq_some {k : ObjectKind} {n : Nat} {o : WatchObject} (kind : o.kind = k)
    (number : k = .programme ∨ k = .lane → o.number = n) : k.object n = some o := by
  subst kind
  cases o with
  | programme p => obtain rfl := number (.inl rfl); exact congrArg (Option.map _) (show progOf p.val = some p by simp [progOf])
  | lane l => obtain rfl := number (.inr rfl); exact congrArg (Option.map _) (show laneOf l.val = some l by simp [laneOf])
  | reference => rfl
  | pool => rfl

/-- A full watch part does not depend on the stored record: it fails where its object does not exist (R170). -/
theorem WatchBody.judge_of_object {b : WatchBody} {kind : ObjectKind} {number code : Nat} {measure : Measure}
    (source : b.object = some (kind, number)) (coded : b.measure = some code) (listed : kind.measures[code]? = some measure)
    (old : WatchRecord) :
    b.judge old = (kind.object number).elim (.error .noObject) fun object => .ok (old.with b object measure) := by
  have found : b.measureIn old = some measure := by
    simp only [WatchBody.measureIn, WatchBody.kindIn, source, coded, Option.map_some, Option.getD_some]
    exact listed
  unfold WatchBody.judge
  simp only [found, WatchBody.kindIn, WatchBody.numberIn, source, Option.map_some, Option.getD_some]
  cases kind.object number <;> rfl

/-- What the load makes of a watch and its record (R170, R189). -/
structure WatchBody.Loaded (b : WatchBody) (major : Nat) (w : WatchId) (u v : Wch) (kind : ObjectKind) (number : Nat)
    (measure : Measure) : Prop where
  source : b.object = some (kind, number)
  listed : kind.measures[b.measure.getD 8]? = some measure
  refused : kind = .programme ∧ 15 < number ∨ kind = .lane ∧ 7 < number →
    v.watches[w].record = u.watches[w].record ∧ (w = 31 → v.majorLevel = u.majorLevel)
  taken : ∀ object : WatchObject, object.kind = kind → (kind = .programme ∨ kind = .lane → object.number = number) →
    v.watches[w] = ((u.watches[w]).record.with b object measure).start ∧ v.isRaised (.watch w) = false
      ∧ (w = 31 → v.majorLevel = clampNat major 1 7)

theorem WatchBody.Applied.loaded {b : WatchBody} {major : Nat} {w : WatchId} {u v : Wch} (full : b.Full) (h : b.Applied major w u v) :
    ∃ kind number measure, b.Loaded major w u v kind number measure := by
  obtain ⟨kind, number, code, measure, source, coded, listed⟩ := full.source
  have judged := WatchBody.judge_of_object source coded listed (u.watches[w]).record
  refine ⟨kind, number, measure, source, by rwa [coded], fun missing => ?_, fun object sort numbered => ?_⟩
  · rw [(kind.object_eq_none number).2 missing] at judged
    obtain ⟨watch, major⟩ := h.refused _ judged
    exact ⟨congrArg Watch.record watch, major⟩
  · rw [ObjectKind.object_eq_some sort numbered] at judged
    exact h.taken _ judged

/-- A full watch part, written with its fields, and the watch that starts with it. -/
theorem WatchBody.Full.start_with {b : WatchBody} (full : b.Full) {kind : ObjectKind} {number : Nat}
    (source : b.object = some (kind, number)) (old : WatchRecord) (object : WatchObject) (measure : Measure) :
    ∃ enable threshold sense mode raiseCount clearCount severity freezeEnable,
      b = { enable := some enable, object := some (kind, number), measure := b.measure, threshold := some threshold,
            sense := some sense, mode := some mode, raiseCount := some raiseCount, clearCount := some clearCount,
            severity := some severity, freezeEnable := some freezeEnable }
      ∧ (old.with b object measure).start =
        { record := { enable := enable, object := object, measure := measure, threshold := threshold, sense := sense, mode := mode,
                      raiseCount := max 1 (min raiseCount 600), clearCount := max 1 (min clearCount 600),
                      severity := max 1 (min severity 7), freezeEnable := freezeEnable }
          state := if enable then .quiet else .off, run := 0, entries := 0, quiet := 0, lastQualified := false,
          lastValue := none, lastStamp := none } := by
  obtain ⟨enable, he⟩ := Option.isSome_iff_exists.1 full.enable
  obtain ⟨threshold, ht⟩ := Option.isSome_iff_exists.1 full.threshold
  obtain ⟨sense, hs⟩ := Option.isSome_iff_exists.1 full.sense
  obtain ⟨mode, hm⟩ := Option.isSome_iff_exists.1 full.mode
  obtain ⟨raiseCount, hr⟩ := Option.isSome_iff_exists.1 full.raiseCount
  obtain ⟨clearCount, hc⟩ := Option.isSome_iff_exists.1 full.clearCount
  obtain ⟨severity, hv⟩ := Option.isSome_iff_exists.1 full.severity
  obtain ⟨freezeEnable, hf⟩ := Option.isSome_iff_exists.1 full.freezeEnable
  obtain ⟨_, _, _, _, _, _, _, _, _, _⟩ := b
  cases he; cases ht; cases hs; cases hm; cases hr; cases hc; cases hv; cases hf; cases source
  refine ⟨enable, threshold, sense, mode, raiseCount, clearCount, severity, freezeEnable, rfl, ?_⟩
  simp [WatchRecord.with, WatchRecord.start, clampNat_eq]

/-- The watch records of a profile applied (R189). -/
theorem applyWatches_all {q : Profile} (count : q.watches.length = 32) (s : State) :
    let t := (allWatches.zip q.watches).foldl (applyWatch q.majorLevel) s
    s.WatchesOnly allWatches t ∧ ∀ w : WatchId, ∃ b, q.watches[w.val]? = some b ∧ b.Applied q.majorLevel w s.wch t.wch := by
  have firsts : (allWatches.zip q.watches).map (·.1) = allWatches := List.map_fst_zip (by simp [allWatches, count])
  have distinct : allWatches.Nodup := List.nodup_finRange 32
  obtain ⟨only, each⟩ := applyWatches_applied q.majorLevel (allWatches.zip q.watches) s (by rwa [firsts])
  rw [firsts] at only
  refine ⟨only, fun w => ?_⟩
  have inside : w.val < q.watches.length := by rw [count]; exact w.isLt
  have pair : (w, q.watches[w.val]) ∈ allWatches.zip q.watches := by
    refine List.mem_iff_getElem.2 ⟨w.val, by simp [allWatches, count], ?_⟩
    simp [allWatches]
  exact ⟨_, List.getElem?_eq_getElem inside, each _ pair⟩

/-! ## The lane records applied (R20, R189) -/

/-- The engine's work disables no lane and enables none, and leaves PROFILE_FAULT alone. -/
structure LaneSide.DisabledKept (v w : LaneSide) : Prop where
  lane : ∀ m, (w.lane m).state = .disabled ↔ (v.lane m).state = .disabled
  fault : w.panel.wch.isRaised .profileFault = v.panel.wch.isRaised .profileFault

namespace LaneSide.DisabledKept

theorem refl (v : LaneSide) : v.DisabledKept v := ⟨fun _ => .rfl, rfl⟩

theorem trans {u v w : LaneSide} (a : u.DisabledKept v) (b : v.DisabledKept w) : u.DisabledKept w :=
  ⟨fun m => (b.lane m).trans (a.lane m), b.fault.trans a.fault⟩

theorem foldl {α : Type} (f : LaneSide → α → LaneSide) (h : ∀ (v : LaneSide) (a : α), v.DisabledKept (f v a)) (xs : List α) (v : LaneSide) :
    v.DisabledKept (xs.foldl f v) := by
  induction xs generalizing v with
  | nil => exact refl v
  | cons x xs ih => exact (h v x).trans (ih _)

theorem modLane (v : LaneSide) (l : LaneId) {f : Lane → Lane} (h : (f (v.lane l)).state = .disabled ↔ (v.lane l).state = .disabled) :
    v.DisabledKept (v.modLane l f) := by
  refine ⟨fun m => ?_, rfl⟩
  by_cases e : m = l
  · subst e; rwa [LaneSide.modLane_lane_self]
  · rw [LaneSide.modLane_lane_other _ _ e]

theorem modConv (v : LaneSide) (l : LaneId) (f : Converter → Converter) : v.DisabledKept (v.modConv l f) := modLane v l .rfl

theorem clear (v : LaneSide) {a : AlarmId} (h : .profileFault ≠ a) : v.DisabledKept (v.onPanel (Panel.clear a)) :=
  ⟨fun _ => .rfl, Panel.clear_isRaised_other a v.panel h (by simp)⟩

theorem noticeLane (v : LaneSide) (l : LaneId) (left : LaneState) : v.DisabledKept (v.noticeLane l left) :=
  ⟨fun _ => .rfl, Panel.offer_isRaised _ v.panel (by simp)⟩

theorem queue (v : LaneSide) (q : List LaneId) : v.DisabledKept { v with front := { v.front with admission := q } } :=
  ⟨fun _ => .rfl, rfl⟩

theorem leaveQueue (v : LaneSide) (l : LaneId) : v.DisabledKept (v.leaveQueue l) := queue v _

theorem regrant (v : LaneSide) (l : LaneId) (m : ConvMode) : v.DisabledKept (v.regrant l m) := modConv v l _

theorem enterRunning (v : LaneSide) (l : LaneId) (m : ConvMode) (h : (v.lane l).state = .waitingBudget) :
    v.DisabledKept (v.enterRunning l m) :=
  ((modLane v l (by simp [h])).trans (noticeLane _ l _)).trans (clear _ (by simp))

theorem grant (v : LaneSide) (l : LaneId) (m : ConvMode) : v.DisabledKept (v.grant l m) := by
  unfold LaneSide.grant
  split
  · exact enterRunning v l m ‹_›
  · exact regrant v l m

theorem downgrade (need : Nat) (ds : List LaneId) (v : LaneSide) : v.DisabledKept (v.downgrade need ds) := by
  induction ds generalizing v with
  | nil => exact refl v
  | cons d ds ih =>
    unfold LaneSide.downgrade
    split
    · exact refl v
    · split
      · exact (regrant v d _).trans (ih _)
      · exact ih v

theorem waitForBudget (v : LaneSide) (l : LaneId) : v.DisabledKept (v.waitForBudget l) := by
  unfold LaneSide.waitForBudget
  split
  · exact (modConv v l _).trans (queue _ _)
  · exact queue v _

theorem ask (v : LaneSide) (l : LaneId) : v.DisabledKept (v.ask l) := by
  unfold LaneSide.ask
  dsimp only
  split
  · exact grant v l _
  · split
    · exact (downgrade _ _ v).trans (grant _ l _)
    · exact (downgrade _ _ v).trans (waitForBudget _ l)

theorem serve (v : LaneSide) (l : LaneId) : v.DisabledKept (v.serve l) := by
  unfold LaneSide.serve
  dsimp only
  split
  · exact refl v
  · split
    · exact (leaveQueue v l).trans (enterRunning _ l _ ‹_›)
    · exact ((leaveQueue v l).trans (modConv _ l _)).trans (regrant _ l _)

theorem upgradePass (v : LaneSide) : v.DisabledKept v.upgradePass := by
  refine foldl _ (fun u l => ?_) _ v
  unfold LaneSide.upgrade
  dsimp only
  split
  · exact regrant u l _
  · exact refl u

theorem release (v : LaneSide) : v.DisabledKept v.release := (foldl _ serve _ v).trans (upgradePass _)

theorem quit (v : LaneSide) (l : LaneId) (was : Lane) : v.DisabledKept (v.quit l was) := by
  unfold LaneSide.quit LaneSide.leaveEngine
  split
  · have left := ((modConv v l Converter.cleared).trans (clear _ (a := .slip l) (by simp))).trans (leaveQueue _ l)
    dsimp only
    split
    · exact left.trans (release _)
    · exact left
  · exact leaveQueue v l
  · exact refl v

theorem preferenceEffect (v : LaneSide) (l : LaneId) (old : LaneSettings) : v.DisabledKept (v.preferenceEffect l old) := by
  unfold LaneSide.preferenceEffect LaneSide.preferenceChanged
  dsimp only
  split
  · exact refl v
  · split
    · exact (regrant v l _).trans (release _)
    · exact upgradePass v
    · exact refl v

theorem bypassEffect (v : LaneSide) (l : LaneId) (old : LaneSettings) : v.DisabledKept (v.bypassEffect l old) := by
  unfold LaneSide.bypassEffect LaneSide.bypassForbidden
  split
  · split
    · exact ask v l
    · exact refl v
  · exact refl v

theorem countingEffect (v : LaneSide) (l : LaneId) (old : LaneSettings) : v.DisabledKept (v.countingEffect l old) := by
  unfold LaneSide.countingEffect
  split
  · exact modLane v l .rfl
  · exact refl v

theorem store (v : LaneSide) (l : LaneId) (b : LaneSetBody) : v.DisabledKept (v.store l b) := modLane v l .rfl

end LaneSide.DisabledKept

/-- Of the lanes, at most these have been set; the panel has only reported, and not on PROFILE_FAULT. -/
structure LaneSide.LanesOnly (ls : List LaneId) (v w : LaneSide) : Prop where
  settings : ∀ m, m ∉ ls → (w.lane m).settings = (v.lane m).settings
  disabled : ∀ m, m ∉ ls → ((w.lane m).state = .disabled ↔ (v.lane m).state = .disabled)
  fault : w.panel.wch.isRaised .profileFault = v.panel.wch.isRaised .profileFault
  panel : v.panel.Kept w.panel

theorem LaneSide.store_lane_other (v : LaneSide) {l m : LaneId} (b : LaneSetBody) (h : m ≠ l) : (v.store l b).lane m = v.lane m :=
  v.modLane_lane_other _ h

theorem LaneSide.store_settings (v : LaneSide) (l : LaneId) (b : LaneSetBody) :
    ((v.store l b).lane l).settings = (v.lane l).settings.with b := by
  rw [LaneSide.store, LaneSide.modLane_lane_self]

/-- A change of one lane's state with its notice disables or enables no other. -/
theorem LaneSide.move_lane_other (v : LaneSide) {l m : LaneId} (f : Lane → Lane) (h : m ≠ l) : (v.move l f).lane m = v.lane m :=
  v.modLane_lane_other _ h

theorem LaneSide.move_lane_self (v : LaneSide) (l : LaneId) (f : Lane → Lane) : (v.move l f).lane l = f (v.lane l) :=
  v.modLane_lane_self l f

theorem LaneSide.disable_disabled (v : LaneSide) (l : LaneId) : ((v.disable l).lane l).state = .disabled := by
  unfold LaneSide.disable
  exact ((LaneSide.DisabledKept.quit _ l _).lane l).2 (congrArg Lane.state (v.move_lane_self l Lane.toDisabled))

theorem LaneSide.disable_others (v : LaneSide) {l m : LaneId} (h : m ≠ l) :
    ((v.disable l).lane m).state = .disabled ↔ (v.lane m).state = .disabled := by
  unfold LaneSide.disable
  refine ((LaneSide.DisabledKept.quit _ l _).lane m).trans ?_
  rw [LaneSide.onPanel_lane, LaneSide.move_lane_other v Lane.toDisabled h]

theorem LaneSide.disable_fault (v : LaneSide) (l : LaneId) :
    (v.disable l).panel.wch.isRaised .profileFault = v.panel.wch.isRaised .profileFault := by
  unfold LaneSide.disable
  refine (LaneSide.DisabledKept.quit _ l _).fault.trans ?_
  exact (Panel.clearLane_isRaised_other (l := l) _ (by simp) (by simp) (by simp)).trans (Panel.offer_isRaised _ _ (by simp))

/-- The enable setting's effect: the lane is DISABLED just when it says so (R14). -/
theorem LaneSide.enableEffect_disabled (v : LaneSide) (l : LaneId) (e : Bool) :
    ((v.enableEffect l (some e)).lane l).state = .disabled ↔ e = false := by
  cases e with
  | false =>
    refine iff_of_true ?_ rfl
    by_cases already : (v.lane l).state = .disabled
    · rw [LaneSide.enableEffect, if_pos already, already]
    · rw [LaneSide.enableEffect, if_neg already, LaneSide.disable_disabled]
  | true =>
    refine iff_of_false ?_ (by decide)
    by_cases disabled : (v.lane l).state = .disabled
    · rw [LaneSide.enableEffect, if_pos disabled, LaneSide.enable, LaneSide.move_lane_self]
      exact fun h => by cases h
    · rwa [LaneSide.enableEffect, if_neg disabled]

theorem LaneSide.enableEffect_others (v : LaneSide) {l m : LaneId} (e : Bool) (h : m ≠ l) :
    ((v.enableEffect l (some e)).lane m).state = .disabled ↔ (v.lane m).state = .disabled := by
  cases e with
  | false =>
    unfold LaneSide.enableEffect
    dsimp only
    split
    · exact .rfl
    · exact v.disable_others h
  | true =>
    unfold LaneSide.enableEffect
    dsimp only
    split
    · rw [LaneSide.enable, v.move_lane_other _ h]
    · exact .rfl

theorem LaneSide.enableEffect_fault (v : LaneSide) (l : LaneId) (e : Bool) :
    (v.enableEffect l (some e)).panel.wch.isRaised .profileFault = v.panel.wch.isRaised .profileFault := by
  cases e with
  | false =>
    unfold LaneSide.enableEffect
    dsimp only
    split
    · rfl
    · exact v.disable_fault l
  | true =>
    unfold LaneSide.enableEffect
    dsimp only
    split
    · exact Panel.offer_isRaised _ _ (by simp)
    · rfl

/-- A lane is set: its settings and whether it is DISABLED follow the record, and no other lane's do (R14, R17). -/
theorem LaneSide.setLane_taken (v : LaneSide) (l : LaneId) (b : LaneSetBody) {e : Bool} (enable : b.enable = some e) :
    LaneSide.LanesOnly [l] v (v.setLane l b) ∧ ((v.setLane l b).lane l).settings = (v.lane l).settings.with b
      ∧ (((v.setLane l b).lane l).state = .disabled ↔ e = false) := by
  have settings := (v.setLane_settingsKept l b).lane
  have panel := v.setLane_kept l b
  rw [LaneSide.setLane_eq, enable] at settings panel ⊢
  have before := (((LaneSide.DisabledKept.store v l b).trans (.preferenceEffect _ l (v.lane l).settings)).trans
    (.bypassEffect _ l (v.lane l).settings)).trans (.countingEffect _ l (v.lane l).settings)
  refine ⟨⟨fun m other => ?_, fun m other => ?_, (LaneSide.enableEffect_fault _ l e).trans before.fault, panel⟩, ?_,
    LaneSide.enableEffect_disabled _ l e⟩
  · rw [settings m, v.store_lane_other b (by simpa using other)]
  · exact (LaneSide.enableEffect_others _ e (by simpa using other)).trans (before.lane m)
  · rw [settings l, LaneSide.store_settings]

/-- At most these lanes have been set; of the state nothing but the lanes and the panel has changed, and the panel has only reported. -/
structure State.LanesOnly (ls : List LaneId) (s t : State) : Prop where
  rest : ∃ v : LaneSide, t = s.onLanes fun _ => v
  settings : ∀ m, m ∉ ls → (t.lane m).settings = (s.lane m).settings
  disabled : ∀ m, m ∉ ls → ((t.lane m).state = .disabled ↔ (s.lane m).state = .disabled)
  fault : t.wch.isRaised .profileFault = s.wch.isRaised .profileFault
  watches : t.wch.watches = s.wch.watches
  majorLevel : t.wch.majorLevel = s.wch.majorLevel

theorem State.LanesOnly.refl (ls : List LaneId) (s : State) : s.LanesOnly ls s :=
  ⟨⟨s.laneSide, rfl⟩, fun _ _ => rfl, fun _ _ => .rfl, rfl, rfl, rfl⟩

theorem State.LanesOnly.cons {l : LaneId} {ls : List LaneId} {s t u : State} (first : s.LanesOnly [l] t) (then_ : t.LanesOnly ls u) :
    s.LanesOnly (l :: ls) u := by
  obtain ⟨v, hv⟩ := first.rest
  obtain ⟨w, hw⟩ := then_.rest
  exact ⟨⟨w, hw.trans (by rw [hv]; rfl)⟩,
    fun m out => (then_.settings m fun h => out (.tail l h)).trans (first.settings m fun h => out (by simp_all)),
    fun m out => (then_.disabled m fun h => out (.tail l h)).trans (first.disabled m fun h => out (by simp_all)),
    then_.fault.trans first.fault, then_.watches.trans first.watches, then_.majorLevel.trans first.majorLevel⟩

/-- The settings a lane record brings, in range (R17, R188). -/
def LaneRecord.settings (r : LaneRecord) : LaneSettings :=
  { enabled := r.enabled, preference := r.preference, bypassAllowed := r.bypassAllowed, tolerance := min r.tolerance 200,
    openCounting := r.openCounting }

theorem LaneSettings.with_record (old : LaneSettings) (l : LaneId) (r : LaneRecord) : old.with (r.body l) = r.settings := by
  simp [LaneSettings.with, LaneRecord.body, LaneRecord.settings, Nat.min_comm]

/-- A lane after its record has been applied. -/
def LaneRecord.Applied (r : LaneRecord) (x : Lane) : Prop := x.settings = r.settings ∧ (x.state = .disabled ↔ r.enabled = false)

theorem State.onLanes_setLane_taken (s : State) (l : LaneId) (r : LaneRecord) :
    s.LanesOnly [l] (s.onLanes (LaneSide.setLane l (r.body l))) ∧ r.Applied ((s.onLanes (LaneSide.setLane l (r.body l))).lane l) := by
  obtain ⟨only, settings, disabled⟩ := s.laneSide.setLane_taken l (r.body l) rfl
  exact ⟨⟨⟨s.laneSide.setLane l (r.body l), rfl⟩, only.settings, only.disabled, only.fault, only.panel.watches, only.panel.majorLevel⟩,
    settings.trans (LaneSettings.with_record _ l r), disabled⟩

/-- Records of different lanes applied one after the other: each has its own effect. -/
theorem setLanes_applied (ls : List (LaneId × LaneRecord)) (s : State) (distinct : (ls.map (·.1)).Nodup) :
    let t := ls.foldl (fun s r => s.onLanes (LaneSide.setLane r.1 (r.2.body r.1))) s
    s.LanesOnly (ls.map (·.1)) t ∧ ∀ x ∈ ls, x.2.Applied (t.lane x.1) := by
  induction ls generalizing s with
  | nil => exact ⟨.refl [] s, by simp⟩
  | cons x ls ih =>
    obtain ⟨l, r⟩ := x
    obtain ⟨apart, distinct⟩ := List.nodup_cons.1 distinct
    obtain ⟨first, applied⟩ := s.onLanes_setLane_taken l r
    obtain ⟨later, each⟩ := ih (s.onLanes (LaneSide.setLane l (r.body l))) distinct
    refine ⟨first.cons later, fun x hx => ?_⟩
    rcases List.mem_cons.1 hx with rfl | hx
    · exact ⟨(later.settings l apart).trans applied.1, (later.disabled l apart).trans applied.2⟩
    · exact each x hx

/-- The lane records of a profile applied (R189). -/
theorem State.applyLanes_all {rs : List LaneRecord} (count : rs.length = 8) (s : State) :
    s.LanesOnly allLanes (s.applyLanes rs) ∧ ∀ l : LaneId, ∃ r, rs[l.val]? = some r ∧ r.Applied ((s.applyLanes rs).lane l) := by
  have firsts : (allLanes.zip rs).map (·.1) = allLanes := List.map_fst_zip (by simp [allLanes, count])
  have distinct : allLanes.Nodup := by decide
  obtain ⟨only, each⟩ := setLanes_applied (allLanes.zip rs) s (by rwa [firsts])
  rw [firsts] at only
  refine ⟨only, fun l => ?_⟩
  have inside : l.val < rs.length := by rw [count]; exact l.isLt
  have numbered : ∀ i : LaneId, allLanes[i.val]? = some i := by decide
  have pair : (l, rs[l.val]) ∈ allLanes.zip rs := by
    refine List.mem_iff_getElem?.2 ⟨l.val, ?_⟩
    rw [List.getElem?_zip_eq_some]
    exact ⟨numbered l, List.getElem?_eq_getElem inside⟩
  exact ⟨_, List.getElem?_eq_getElem inside, each _ pair⟩

/-! ## A stored programme defined (R48, R74, R189) -/

/-- The second record is the first one funded: it waits or runs, and carries the same members and settings. -/
structure Prog.FundedAs (x y : Prog) : Prop where
  state : y.state = .waiting ∨ y.state = .running
  specs : y.members.map (·.spec) = x.members.map (·.spec)
  settings : x.SameSettings y
  method : y.delay.method = x.delay.method
  requested : y.delay.requested = x.delay.requested
  paused : y.gain.paused = x.gain.paused
  report : y.report = { x.report with counter := 0 }

theorem Prog.specs_of_outs {x y : Prog} (h : y.outs = x.outs) : y.members.map (·.spec) = x.members.map (·.spec) := by
  have specs (z : Prog) : z.members.map (·.spec) = z.outs.map (·.1) := by simp [Prog.outs]
  rw [specs, specs, h]

theorem ProgSide.startProg_funded (v : ProgSide) (p : ProgId) (delay : Nat) : (v.prog p).FundedAs ((v.startProg p delay).prog p) := by
  have specs := Prog.specs_of_outs (ProgSide.OutsKept.startProg v p delay p)
  have settings := v.startProg_sameSettings p delay
  refine ⟨.inr ?_, specs, settings, ?_, ?_, ?_, ?_⟩ <;>
    simp only [ProgSide.startProg, ProgSide.prog, Fin.getElem_fin, Vector.getElem_set_self] <;> rfl

/-- Funding a new programme starts it, or lets it wait (R74). -/
theorem ProgSide.fundNew_funded (v : ProgSide) (p : ProgId) (counter : (v.prog p).report.counter = 0) :
    (v.prog p).FundedAs ((v.fundNew p).prog p) := by
  unfold ProgSide.fundNew
  dsimp only
  split
  · exact v.startProg_funded p _
  · split
    · rw [ProgSide.joinWait_prog]
      exact v.startProg_funded p _
    · rw [ProgSide.joinWait_prog, ProgSide.modProg_prog_self]
      refine ⟨.inl rfl, rfl, ⟨rfl, rfl, rfl, rfl, rfl, rfl, rfl, rfl, rfl⟩, rfl, rfl, rfl, ?_⟩
      show (v.prog p).report = _
      rw [← counter]

theorem ProgSide.define_funded (v : ProgSide) (p : ProgId) {x : Prog} (counter : x.report.counter = 0) :
    x.FundedAs ((v.define p x).prog p) := by
  have self : ProgSide.prog { v with progs := v.progs.set p x } p = x := by simp [ProgSide.prog]
  have funded := ProgSide.fundNew_funded { v with progs := v.progs.set p x } p (by rwa [self])
  rw [self] at funded
  rwa [ProgSide.define, ProgSide.event_prog]

theorem ProgSide.fundNew_fault (v : ProgSide) (p : ProgId) :
    (v.fundNew p).panel.wch.isRaised .profileFault = v.panel.wch.isRaised .profileFault := by
  have joined (u : ProgSide) : (u.joinWait p).panel.wch.isRaised .profileFault = u.panel.wch.isRaised .profileFault := by
    unfold ProgSide.joinWait
    split
    · rfl
    · exact Panel.raise_isRaised_other _ _ (by simp) (by simp)
  unfold ProgSide.fundNew
  dsimp only
  split
  · rfl
  · split
    · exact joined (v.startProg p _)
    · exact joined (v.modProg p _)

/-- A definition can raise DELAY_DEFICIT, and the pool's watches judge; PROFILE_FAULT is not concerned. -/
theorem ProgSide.define_fault (v : ProgSide) (p : ProgId) (x : Prog) :
    (v.define p x).panel.wch.isRaised .profileFault = v.panel.wch.isRaised .profileFault := by
  have funded := ProgSide.fundNew_fault { v with progs := v.progs.set p x } p
  unfold ProgSide.define ProgSide.event
  dsimp only
  split
  · exact funded
  · rw [ProgSide.onPanel_panel, Panel.observe_isRaised _ _ _ (by simp) (by simp)]
    exact funded

/-! ## The members a record claims (R47, R59) -/

theorem MemberDef.of_iff (d : MemberDef) (m : MemberBody) : MemberDef.Of d m ↔ d.body = m := by
  cases m
  simp [MemberDef.Of, MemberDef.body]

/-- What the programmes of a table claim is exactly this. -/
def Claimed (progs : Vector Prog 16) (claims : List MemberBody) : Prop :=
  ∀ e, e ∈ claims ↔ ∃ p : ProgId, ∃ m ∈ (progs[p]).members, m.spec.body = e

theorem inputHolder_isSome (progs : Vector Prog 16) (lane : LaneId) (slot : SlotId) :
    (inputHolder progs lane slot).isSome = true ↔ ∃ p : ProgId, ∃ m ∈ (progs[p]).members, m.spec.lane = lane ∧ m.spec.slot = slot := by
  simp [inputHolder, List.find?_isSome, mem_allProgs]

theorem outputHolder_isSome (progs : Vector Prog 16) (lane : LaneId) (slot : SlotId) :
    (outputHolder progs lane slot).isSome = true ↔ ∃ p : ProgId, ∃ m ∈ (progs[p]).members, m.spec.placement = some (lane, slot) := by
  simp [outputHolder, List.find?_isSome, mem_allProgs]

theorem MemberDef.body_channel (d : MemberDef) (lane : LaneId) (slot : SlotId) :
    (d.body.lane = lane.val ∧ d.body.slot = slot.val) ↔ (d.lane = lane ∧ d.slot = slot) := by
  simp [MemberDef.body, Fin.ext_iff]

theorem MemberDef.body_placement (d : MemberDef) (lane : LaneId) (slot : SlotId) :
    d.body.placement = some (lane.val, slot.val) ↔ d.placement = some (lane, slot) := by
  obtain ⟨_, _, _, _, placement⟩ := d
  cases placement <;> simp [MemberDef.body, Fin.ext_iff, Prod.ext_iff]

/-- An input channel is held just when it is claimed. -/
theorem Claimed.input {progs : Vector Prog 16} {claims : List MemberBody} (h : Claimed progs claims) (lane : LaneId) (slot : SlotId) :
    (inputHolder progs lane slot).isSome = true ↔ ∃ e ∈ claims, e.lane = lane.val ∧ e.slot = slot.val := by
  rw [inputHolder_isSome]
  constructor
  · rintro ⟨p, m, hm, channel⟩
    exact ⟨m.spec.body, (h _).2 ⟨p, m, hm, rfl⟩, (m.spec.body_channel lane slot).2 channel⟩
  · rintro ⟨e, he, channel⟩
    obtain ⟨p, m, hm, rfl⟩ := (h e).1 he
    exact ⟨p, m, hm, (m.spec.body_channel lane slot).1 channel⟩

/-- An output slot is held just when it is claimed. -/
theorem Claimed.output {progs : Vector Prog 16} {claims : List MemberBody} (h : Claimed progs claims) (lane : LaneId) (slot : SlotId) :
    (outputHolder progs lane slot).isSome = true ↔ ∃ e ∈ claims, e.placement = some (lane.val, slot.val) := by
  rw [outputHolder_isSome]
  constructor
  · rintro ⟨p, m, hm, placed⟩
    exact ⟨m.spec.body, (h _).2 ⟨p, m, hm, rfl⟩, (m.spec.body_placement lane slot).2 placed⟩
  · rintro ⟨e, he, placed⟩
    obtain ⟨p, m, hm, rfl⟩ := (h e).1 he
    exact ⟨p, m, hm, (m.spec.body_placement lane slot).1 placed⟩

/-- A request's member whose numbers are in range is the body of a member. -/
theorem MemberBody.range_iff (m : MemberBody) :
    (decide (m.lane < 8) && decide (m.slot < 8) && m.placement.all fun o => decide (o.1 < 8) && decide (o.2 < 8)) = true
      ↔ ∃ d : MemberDef, d.body = m := by
  constructor
  · intro range
    obtain ⟨lane, slot, role, weight, placement⟩ := m
    cases placement with
    | none =>
      simp only [Option.all_none, Bool.and_true, Bool.and_eq_true, decide_eq_true_eq] at range
      exact ⟨{ lane := ⟨lane, range.1⟩, slot := ⟨slot, range.2⟩, role := role, weight := weight, placement := none }, rfl⟩
    | some o =>
      simp only [Option.all_some, Bool.and_eq_true, decide_eq_true_eq] at range
      obtain ⟨⟨inLane, inSlot⟩, outLane, outSlot⟩ := range
      exact ⟨{ lane := ⟨lane, inLane⟩, slot := ⟨slot, inSlot⟩, role := role, weight := weight,
               placement := some (⟨o.1, outLane⟩, ⟨o.2, outSlot⟩) }, rfl⟩
  · rintro ⟨d, rfl⟩
    obtain ⟨lane, slot, role, weight, placement⟩ := d
    cases placement <;> simp [MemberDef.body, lane.isLt, slot.isLt]

/-- Two members claim the same input channel or the same output slot. -/
def MemberDef.Clashes (d : MemberDef) (e : MemberBody) : Prop :=
  (e.lane = d.lane.val ∧ e.slot = d.slot.val) ∨ (d.placement.isSome = true ∧ e.placement = d.body.placement)

theorem MemberDef.clearOf_iff (d : MemberDef) (claims : List MemberBody) :
    d.body.clearOf claims = true ↔ ∀ e ∈ claims, ¬d.Clashes e := by
  have range := (MemberBody.range_iff d.body).2 ⟨d, rfl⟩
  rw [MemberBody.clearOf, range, Bool.true_and, List.all_eq_true]
  refine forall₂_congr fun e _ => ?_
  obtain ⟨lane, slot, role, weight, placement⟩ := d
  cases placement <;> simp [MemberDef.Clashes, MemberDef.body, imp_iff_not_or]

theorem judgeMember_body (progs : Vector Prog 16) (earlier : List MemberDef) (d : MemberDef) :
    judgeMember progs earlier d.body =
      if (inputHolder progs d.lane d.slot).isSome then .error (.inputTaken, inputHolder progs d.lane d.slot)
      else if earlier.any (fun e => e.lane == d.lane && e.slot == d.slot) then .error (.inputRepeated, none)
      else if (d.placement.bind fun o => outputHolder progs o.1 o.2).isSome then
        .error (.outputTaken, d.placement.bind fun o => outputHolder progs o.1 o.2)
      else if d.placement.isSome && earlier.any (fun e => e.placement == d.placement) then .error (.outputRepeated, none)
      else .ok d := by
  obtain ⟨lane, slot, role, weight, placement⟩ := d
  cases placement with
  | none => simp only [judgeMember, MemberDef.body, laneOf_val, Option.map_none, Option.bind_none]
  | some o => simp only [judgeMember, MemberDef.body, laneOf_val, placementOf, Option.map_some, Option.bind_some, id]

/-- A member is taken just when it is clear of what the programmes and the members before it claim (R47). -/
theorem judgeMember_clear {progs : Vector Prog 16} {claims : List MemberBody} (h : Claimed progs claims) (earlier : List MemberDef)
    (d : MemberDef) (clear : d.body.clearOf (claims ++ earlier.map MemberDef.body) = true) :
    judgeMember progs earlier d.body = .ok d := by
  rw [MemberDef.clearOf_iff] at clear
  have free (e : MemberBody) (he : e ∈ claims) : ¬d.Clashes e := clear e (List.mem_append_left _ he)
  have apart (e : MemberDef) (he : e ∈ earlier) : ¬d.Clashes e.body := clear _ (List.mem_append_right _ (List.mem_map_of_mem he))
  rw [judgeMember_body, if_neg, if_neg, if_neg, if_neg]
  · simp only [Bool.and_eq_true, List.any_eq_true, beq_iff_eq, not_and, not_exists]
    intro placed e he same
    exact apart e he (.inr ⟨placed, by simp [MemberDef.body, same]⟩)
  · cases placed : d.placement with
    | none => simp
    | some o =>
      rw [Option.bind_some, h.output]
      rintro ⟨e, he, same⟩
      exact free e he (.inr ⟨by simp [placed], by simp [MemberDef.body, placed, same]⟩)
  · simp only [List.any_eq_true, Bool.and_eq_true, beq_iff_eq, not_exists, not_and]
    intro e he lane slot
    exact apart e he (.inl ((e.body_channel d.lane d.slot).2 ⟨lane, slot⟩))
  · rw [h.input]
    rintro ⟨e, he, same⟩
    exact free e he (.inl same)

theorem laneOf_number {n : Nat} {l : LaneId} (h : laneOf n = some l) : l.val = n := by
  unfold laneOf at h
  split at h
  · cases h; rfl
  · cases h

theorem placementOf_val {n : Nat × Nat} {o : LaneId × SlotId} (h : placementOf n = some o) : (o.1.val, o.2.val) = n := by
  unfold placementOf at h
  split at h
  · next l k lane slot =>
    cases h
    rw [laneOf_number lane, laneOf_number slot]
  · cases h

theorem judgeMember_ok {progs : Vector Prog 16} {earlier : List MemberDef} {m : MemberBody} {d : MemberDef}
    (judged : judgeMember progs earlier m = .ok d) : d.body = m := by
  obtain ⟨lane, slot, role, weight, placement⟩ := m
  unfold judgeMember at judged
  dsimp only at judged
  split at judged
  · next l k hLane hSlot =>
    cases placement with
    | none =>
      dsimp only [Option.map_none] at judged
      split_ifs at judged
      cases judged
      rw [← laneOf_number hLane, ← laneOf_number hSlot]
      rfl
    | some o =>
      rw [Option.map_some] at judged
      cases placed : placementOf o with
      | none => rw [placed] at judged; cases judged
      | some q =>
        rw [placed] at judged
        dsimp only at judged
        split_ifs at judged
        cases judged
        rw [← laneOf_number hLane, ← laneOf_number hSlot, ← placementOf_val placed]
        rfl
  · cases judged

/-- A member that clashes with a claim, or names what does not exist, is not taken. -/
theorem judgeMember_error {progs : Vector Prog 16} {claims : List MemberBody} (h : Claimed progs claims) (earlier : List MemberDef)
    (m : MemberBody) (clear : m.clearOf (claims ++ earlier.map MemberDef.body) = false) :
    ∃ c, judgeMember progs earlier m = .error c := by
  rcases judged : judgeMember progs earlier m with c | d
  · exact ⟨c, rfl⟩
  · exfalso
    obtain rfl := judgeMember_ok judged
    refine absurd ?_ (ne_true_of_eq_false clear)
    rw [MemberDef.clearOf_iff]
    rw [judgeMember_body] at judged
    split_ifs at judged with input repeated output placed
    rw [h.input] at input
    intro e he clash
    rcases List.mem_append.1 he with claimed | before
    · rcases clash with channel | ⟨isPlaced, same⟩
      · exact input ⟨e, claimed, channel⟩
      · obtain ⟨o, ho⟩ := Option.isSome_iff_exists.1 isPlaced
        rw [ho, Option.bind_some, h.output] at output
        exact output ⟨e, claimed, by simpa [MemberDef.body, ho] using same⟩
    · obtain ⟨e, among, rfl⟩ := List.mem_map.1 before
      rcases clash with channel | ⟨isPlaced, same⟩
      · obtain ⟨lane, slot⟩ := (e.body_channel d.lane d.slot).1 channel
        exact repeated (List.any_eq_true.2 ⟨e, among, by simp [lane, slot]⟩)
      · obtain ⟨o, ho⟩ := Option.isSome_iff_exists.1 isPlaced
        refine placed ?_
        have there : e.placement = d.placement := by
          rw [ho]
          exact (e.body_placement o.1 o.2).1 (by simpa [MemberDef.body, ho] using same)
        simp only [isPlaced, Bool.true_and, List.any_eq_true]
        exact ⟨e, among, by simp [there]⟩

theorem judgeMembers_clear {progs : Vector Prog 16} {claims : List MemberBody} (h : Claimed progs claims) (ms : List MemberBody)
    (earlier : List MemberDef) (clear : allClear (claims ++ earlier.map MemberDef.body) ms = true) :
    ∃ defs, judgeMembers progs earlier ms = .ok defs ∧ defs.map MemberDef.body = earlier.map MemberDef.body ++ ms := by
  induction ms generalizing earlier with
  | nil => exact ⟨earlier, rfl, by simp⟩
  | cons m ms ih =>
    rw [allClear, Bool.and_eq_true] at clear
    obtain ⟨first, others⟩ := clear
    have range : ∃ d : MemberDef, d.body = m := by
      rw [MemberBody.clearOf, Bool.and_eq_true] at first
      exact (MemberBody.range_iff m).1 first.1
    obtain ⟨d, rfl⟩ := range
    obtain ⟨defs, judged, bodies⟩ := ih (earlier ++ [d]) (by simpa using others)
    refine ⟨defs, ?_, by simpa using bodies⟩
    rw [judgeMembers, judgeMember_clear h earlier d first]
    exact judged

theorem judgeMembers_error {progs : Vector Prog 16} {claims : List MemberBody} (h : Claimed progs claims) (ms : List MemberBody)
    (earlier : List MemberDef) (clear : allClear (claims ++ earlier.map MemberDef.body) ms = false) :
    ∃ c, judgeMembers progs earlier ms = .error c := by
  induction ms generalizing earlier with
  | nil => cases clear
  | cons m ms ih =>
    rw [judgeMembers]
    cases judged : judgeMember progs earlier m with
    | error c => exact ⟨_, rfl⟩
    | ok d =>
      obtain rfl := judgeMember_ok judged
      refine ih (earlier ++ [d]) ?_
      rw [allClear, Bool.and_eq_false_iff] at clear
      rcases clear with first | others
      · obtain ⟨c, failed⟩ := judgeMember_error h earlier d.body first
        cases judged.symm.trans failed
      · simpa using others

/-- A definition in a place that held no member adds its members to the claims. -/
theorem Claimed.define {progs progs' : Vector Prog 16} {claims : List MemberBody} (h : Claimed progs claims) {p : ProgId}
    {defs : List MemberDef} (empty : (progs[p]).members = []) (specs : (progs'[p]).members.map (·.spec) = defs)
    (others : ∀ q : ProgId, q ≠ p → progs'[q] = progs[q]) : Claimed progs' (claims ++ defs.map MemberDef.body) := by
  intro e
  rw [List.mem_append, h e]
  constructor
  · rintro (⟨q, m, hm, same⟩ | new)
    · have other : q ≠ p := by rintro rfl; rw [empty] at hm; cases hm
      exact ⟨q, m, by rwa [others q other], same⟩
    · obtain ⟨d, hd, same⟩ := List.mem_map.1 new
      rw [← specs] at hd
      obtain ⟨m, hm, rfl⟩ := List.mem_map.1 hd
      exact ⟨p, m, hm, same⟩
  · rintro ⟨q, m, hm, same⟩
    by_cases e : q = p
    · subst e
      exact .inr (List.mem_map.2 ⟨m.spec, specs ▸ List.mem_map_of_mem hm, same⟩)
    · exact .inl ⟨q, m, by rwa [← others q e], same⟩

/-! ## The stored programmes one after the other (R59, R189) -/

theorem takenRecords_sublist (claims : List MemberBody) (rs : List ProgRecord) : (takenRecords claims rs).Sublist rs := by
  induction rs generalizing claims with
  | nil => exact .slnil
  | cons r rs ih =>
    unfold takenRecords
    split
    · exact (ih _).cons_cons r
    · exact (ih _).cons r

/-- A programme as a stored record leaves it (R48, R188). -/
def ProgRecord.DefinedAs (r : ProgRecord) (x : Prog) : Prop :=
  ∃ defs : List MemberDef, defs.map MemberDef.body = r.members ∧ (r.stored defs).FundedAs x

/-- What the stored programmes make of a state: these are defined, that many are skipped, and the rest stays. -/
structure State.ProgsLoaded (taken : List ProgRecord) (skips : Nat) (s t : State) : Prop where
  rest : ∃ (u : Pfu) (v : ProgSide), t = ({ s with pfu := u } : State).onProgs fun _ => v
  counts : t.pfu = { s.pfu with defined := s.pfu.defined + taken.length, skipped := s.pfu.skipped + skips }
  fault : t.wch.isRaised .profileFault = s.wch.isRaised .profileFault
  records : ∀ w : WatchId, (t.wch.watches[w]).record = (s.wch.watches[w]).record
  majorLevel : t.wch.majorLevel = s.wch.majorLevel
  defined : ∀ r ∈ taken, ∃ p : ProgId, p.val = r.prog ∧ r.DefinedAs (t.prog p)
  others : ∀ p : ProgId, (∀ r ∈ taken, r.prog ≠ p.val) → t.prog p = s.prog p

theorem State.ProgsLoaded.refl (s : State) : s.ProgsLoaded [] 0 s :=
  ⟨⟨s.pfu, s.progSide, rfl⟩, rfl, rfl, fun _ => rfl, rfl, by simp, fun _ _ => rfl⟩

/-- One more stored programme before these, its number none of theirs. -/
theorem State.ProgsLoaded.cons {first taken : List ProgRecord} {skip skips : Nat} {s t u : State} (head : s.ProgsLoaded first skip t)
    (tail : t.ProgsLoaded taken skips u) (apart : ∀ r ∈ first, ∀ r' ∈ taken, r'.prog ≠ r.prog) :
    s.ProgsLoaded (first ++ taken) (skip + skips) u := by
  obtain ⟨pfu, v, hv⟩ := head.rest
  obtain ⟨pfu', v', hv'⟩ := tail.rest
  refine ⟨⟨pfu', v', hv'.trans (by rw [hv]; rfl)⟩, ?_, tail.fault.trans head.fault,
    fun w => (tail.records w).trans (head.records w), tail.majorLevel.trans head.majorLevel, fun r hr => ?_, fun p none => ?_⟩
  · rw [tail.counts, head.counts]
    simp [Nat.add_assoc]
  · rcases List.mem_append.1 hr with early | late
    · obtain ⟨p, number, defined⟩ := head.defined r early
      refine ⟨p, number, ?_⟩
      rwa [tail.others p fun r' hr' => number ▸ apart r early r' hr']
    · exact tail.defined r late
  · exact (tail.others p fun r hr => none r (List.mem_append_right _ hr)).trans
      (head.others p fun r hr => none r (List.mem_append_left _ hr))

theorem progOf_number {n : Nat} (h : n < 16) : ∃ p : ProgId, p.val = n ∧ progOf n = some p := ⟨⟨n, h⟩, rfl, dif_pos h⟩

/-- A record whose members clash with a claim is skipped. -/
theorem State.applyProg_skipped {s : State} {claims : List MemberBody} (h : Claimed s.progs claims) (r : ProgRecord)
    (clash : allClear claims r.members = false) :
    s.applyProg r = { s with pfu := { s.pfu with skipped := s.pfu.skipped + 1 } } := by
  obtain ⟨c, judged⟩ := judgeMembers_error h r.members [] (by simpa using clash)
  unfold State.applyProg
  rw [judged]
  cases progOf r.prog <;> rfl

/-- A record whose members are clear of the claims is defined. -/
theorem State.applyProg_taken {s : State} {claims : List MemberBody} (h : Claimed s.progs claims) {r : ProgRecord}
    (clear : allClear claims r.members = true) {p : ProgId} (number : p.val = r.prog) (empty : (s.prog p).members = []) :
    s.ProgsLoaded [r] 0 (s.applyProg r) ∧ Claimed (s.applyProg r).progs (claims ++ r.members)
      ∧ ∀ q : ProgId, q ≠ p → (s.applyProg r).prog q = s.prog q := by
  obtain ⟨defs, judged, bodies⟩ := judgeMembers_clear h r.members [] (by simpa using clear)
  have bodies : defs.map MemberDef.body = r.members := by simpa using bodies
  have applied : s.applyProg r =
      ({ s with pfu := { s.pfu with defined := s.pfu.defined + 1 } } : State).onProgs (ProgSide.define p (r.stored defs)) := by
    unfold State.applyProg
    rw [judged, ← number, progOf_val]
  have funded : (r.stored defs).FundedAs ((s.progSide.define p (r.stored defs)).prog p) := s.progSide.define_funded p rfl
  have others (q : ProgId) (other : q ≠ p) : (s.applyProg r).prog q = s.prog q := by
    rw [applied]
    exact s.progSide.define_prog_other (r.stored defs) other
  have records := s.progSide.define_records p (r.stored defs)
  refine ⟨⟨⟨_, _, applied⟩, ?_, ?_, fun w => ?_, ?_, ?_, ?_⟩, ?_, others⟩
  · rw [applied]; rfl
  · rw [applied]; exact s.progSide.define_fault p (r.stored defs)
  · rw [applied]; exact records.record w
  · rw [applied]; exact records.majorLevel
  · intro r' hr'
    obtain rfl := List.mem_singleton.1 hr'
    exact ⟨p, number, defs, bodies, by rw [applied]; exact funded⟩
  · exact fun q none => others q fun e => none r (by simp) (by rw [e, number])
  · have specs : ((s.applyProg r).prog p).members.map (·.spec) = defs := by
      rw [applied]
      refine funded.specs.trans ?_
      simp [ProgRecord.stored, Prog.setLoud, Prog.defined, Member.fresh, Function.comp_def]
    exact bodies ▸ h.define empty specs others

/-- The stored programmes, their numbers all different and below 16: those taken are defined, the others are skipped. -/
theorem State.applyProgs_loaded (rs : List ProgRecord) (s : State) {claims : List MemberBody} (h : Claimed s.progs claims)
    (below : ∀ r ∈ rs, r.prog < 16) (distinct : (rs.map (·.prog)).Nodup)
    (empty : ∀ r ∈ rs, ∀ p : ProgId, p.val = r.prog → (s.prog p).members = []) :
    s.ProgsLoaded (takenRecords claims rs) (rs.length - (takenRecords claims rs).length) (rs.foldl State.applyProg s) := by
  induction rs generalizing s claims with
  | nil => exact .refl s
  | cons r rs ih =>
    obtain ⟨apart, distinct⟩ := List.nodup_cons.1 distinct
    have below' (x : ProgRecord) (hx : x ∈ rs) : x.prog < 16 := below x (.tail r hx)
    have fewer (claims : List MemberBody) : (takenRecords claims rs).length ≤ rs.length := (takenRecords_sublist claims rs).length_le
    rw [List.foldl_cons, takenRecords, List.length_cons]
    by_cases clear : allClear claims r.members = true
    · obtain ⟨p, number, -⟩ := progOf_number (below r List.mem_cons_self)
      obtain ⟨head, claimed, others⟩ := State.applyProg_taken h clear number (empty r List.mem_cons_self p number)
      have tail := ih (s.applyProg r) claimed below' distinct fun x hx q numbered => by
        have other : q ≠ p := fun e => apart (List.mem_map.2 ⟨x, hx, by rw [← numbered, e, number]⟩)
        rw [others q other]
        exact empty x (.tail r hx) q numbered
      have both := head.cons tail fun x hx y hy e => apart
        (List.mem_map.2 ⟨y, (takenRecords_sublist _ rs).subset hy, by rw [e, List.mem_singleton.1 hx]⟩)
      rw [if_pos clear, List.length_cons, Nat.add_sub_add_right]
      rwa [Nat.zero_add] at both
    · have clash := eq_false_of_ne_true clear
      have skip := State.applyProg_skipped h r clash
      have head : s.ProgsLoaded [] 1 (s.applyProg r) := by
        rw [skip]
        exact ⟨⟨{ s.pfu with skipped := s.pfu.skipped + 1 }, s.progSide, rfl⟩, rfl, rfl, fun _ => rfl, rfl, by simp, fun _ _ => rfl⟩
      have tail := ih (s.applyProg r) (claims := claims) (by rwa [skip]) below' distinct fun x hx q numbered => by
        rw [skip]
        exact empty x (.tail r hx) q numbered
      have both := head.cons tail (by simp)
      rw [if_neg clear, Nat.sub_add_comm (fewer claims), Nat.add_comm (rs.length - _) 1]
      exact both

theorem ascendingBelow16_sorted {ns : List Nat} (h : ascendingBelow16 ns = true) : ns.Pairwise (· < ·) ∧ ∀ n ∈ ns, n < 16 := by
  induction ns with
  | nil => simp
  | cons a ns ih =>
    cases ns with
    | nil => simpa [ascendingBelow16] using h
    | cons b ns =>
      rw [ascendingBelow16, Bool.and_eq_true, decide_eq_true_eq] at h
      obtain ⟨less, later⟩ := h
      obtain ⟨sorted, below⟩ := ih later
      refine ⟨List.pairwise_cons.2 ⟨fun n hn => ?_, sorted⟩, fun n hn => ?_⟩
      · rcases List.mem_cons.1 hn with rfl | hn
        · exact less
        · exact less.trans ((List.pairwise_cons.1 sorted).1 n hn)
      · rcases List.mem_cons.1 hn with rfl | hn
        · exact less.trans (below b List.mem_cons_self)
        · exact below n hn

/-- The stored programmes of a profile, no programme having a member before. -/
theorem State.applyProgs_all {q : Profile} (read : q.Read) (s : State) (empty : ∀ p : ProgId, (s.prog p).members = []) :
    s.ProgsLoaded (takenRecords [] q.progs) (q.progs.length - (takenRecords [] q.progs).length) (q.progs.foldl State.applyProg s) := by
  obtain ⟨sorted, below⟩ := ascendingBelow16_sorted read.ascending
  have unclaimed : Claimed s.progs [] := fun e => by
    refine iff_of_false (by simp) ?_
    rintro ⟨p, m, hm, -⟩
    rw [show s.progs[p].members = [] from empty p] at hm
    cases hm
  exact s.applyProgs_loaded q.progs unclaimed (fun r hr => below _ (List.mem_map_of_mem hr))
    (sorted.imp fun h => Nat.ne_of_lt h) fun _ _ p _ => empty p

/-! ## The settings of a stored programme (R48, R83, R122, R128, R185, R188) -/

/-- A number present, brought into range. -/
def within (v : Option Int) (lo hi : Int) : Option Int := v.map fun n => max lo (min n hi)

theorem clampSetting_within {v : Option Int} (present : v.isSome = true) {lo hi : Int} (range : lo ≤ hi) (old : Int) :
    some (clampSetting v lo hi old) = within v lo hi := by
  obtain ⟨n, rfl⟩ := Option.isSome_iff_exists.1 present
  simp [clampSetting, within, clampInt_eq n lo hi range]

theorem clampSetting_toNat_within {v : Option Int} (present : v.isSome = true) {lo hi : Int} (low : 0 ≤ lo) (range : lo ≤ hi) (old : Int) :
    some (((clampSetting v lo hi old).toNat : Nat) : Int) = within v lo hi := by
  rw [← clampSetting_within present range old]
  obtain ⟨n, rfl⟩ := Option.isSome_iff_exists.1 present
  have bounds := (clampInt_bounds n range).1
  simp only [clampSetting, Option.map_some, Option.getD_some]
  rw [Int.toNat_of_nonneg (low.trans bounds)]

/-- The settings a definition takes from its stored record. -/
structure ProgRecord.SettingsOf (r : ProgRecord) (x : Prog) : Prop where
  video : x.delay.video = min r.video 96000
  trim : x.delay.trim = max (-48000) (min r.trim 48000)
  method : x.delay.method = r.method
  glideLimit : x.delay.glideLimit = min r.glideLimit 4800
  requested : x.delay.requested = (max 48 (min 96000 (((min r.video 96000 : Nat) : Int) + max (-48000) (min r.trim 48000)))).toNat
  window : some (x.meter.window : Int) = within r.loud.window 10 3000
  relGate : some x.meter.relGate = within r.loud.relGate 40 200
  minCount : some (x.meter.minCount : Int) = within r.loud.minCount 1 3000
  target : some x.gain.settings.target = within r.loud.target (-400) (-100)
  gmax : some x.gain.settings.gmax = within r.loud.gmax 0 200
  gmin : some x.gain.settings.gmin = within r.loud.gmin (-300) 0
  upSlew : some x.gain.settings.upSlew = within r.loud.upSlew 1 50
  downSlew : some x.gain.settings.downSlew = within r.loud.downSlew 1 50
  band : some x.gain.settings.band = within r.loud.band 0 100
  g0 : some x.gain.settings.g0 = r.loud.g0.map fun n => max x.gain.settings.gmin (min n x.gain.settings.gmax)
  paused : x.gain.paused = r.paused
  report : x.report = { period := min r.period 600, selection := r.selection, counter := 0 }

theorem ProgRecord.stored_settings (r : ProgRecord) (full : r.loud.Full) (defs : List MemberDef) : r.SettingsOf (r.stored defs) := by
  have gmax := clampSetting_bounds r.loud.gmax (lo := 0) (hi := 200) (old := GainSettings.factory.gmax) (by decide) (by decide)
  have gmin := clampSetting_bounds r.loud.gmin (lo := -300) (hi := 0) (old := GainSettings.factory.gmin) (by decide) (by decide)
  have trim := clampInt_eq r.trim (-48000) 48000 (by decide)
  constructor
  case video => exact Nat.min_comm _ _
  case trim => exact trim
  case method => rfl
  case glideLimit => exact Nat.min_comm _ _
  case requested =>
    show (clampInt _ _ _).toNat = _
    rw [clampInt_eq _ _ _ (by decide), trim, Nat.min_comm Config.maxDelay, Int.min_comm]
    rfl
  case window => exact clampSetting_toNat_within full.window (by decide) (by decide) _
  case relGate => exact clampSetting_within full.relGate (by decide) _
  case minCount => exact clampSetting_toNat_within full.minCount (by decide) (by decide) _
  case target => exact clampSetting_within full.target (by decide) _
  case gmax => exact clampSetting_within full.gmax (by decide) _
  case gmin => exact clampSetting_within full.gmin (by decide) _
  case upSlew => exact clampSetting_within full.upSlew (by decide) _
  case downSlew => exact clampSetting_within full.downSlew (by decide) _
  case band => exact clampSetting_within full.band (by decide) _
  case g0 =>
    obtain ⟨n, present⟩ := Option.isSome_iff_exists.1 full.g0
    rw [present]
    show some (clampInt (r.loud.g0.getD _) (clampSetting r.loud.gmin (-300) 0 GainSettings.factory.gmin)
      (clampSetting r.loud.gmax 0 200 GainSettings.factory.gmax)) = _
    rw [present, Option.getD_some, clampInt_eq n _ _ (gmin.2.trans gmax.1)]
    rfl
  case paused => rfl
  case report =>
    show ({ period := min 600 r.period, selection := r.selection, counter := 0 } : ReportRec) = _
    rw [Nat.min_comm]

/-- What a programme carries that a stored record defined. -/
theorem ProgRecord.DefinedAs.settings {r : ProgRecord} {x : Prog} (full : r.loud.Full) (h : r.DefinedAs x) :
    (x.state = .waiting ∨ x.state = .running) ∧ List.Forall₂ MemberDef.Of (x.members.map (·.spec)) r.members ∧ r.SettingsOf x := by
  obtain ⟨defs, bodies, funded⟩ := h
  have stored := r.stored_settings full defs
  have same := funded.settings
  refine ⟨funded.state, ?_, ?_⟩
  · have specs : x.members.map (·.spec) = defs := by
      rw [funded.specs]
      simp [ProgRecord.stored, Prog.setLoud, Prog.defined, Member.fresh, Function.comp_def]
    rw [specs, ← bodies, List.forall₂_map_right_iff, List.forall₂_same]
    exact fun d _ => (d.of_iff d.body).2 rfl
  · constructor
    case video => exact same.video.trans stored.video
    case trim => exact same.trim.trans stored.trim
    case method => exact funded.method.trans stored.method
    case glideLimit => exact same.glideLimit.trans stored.glideLimit
    case requested => exact funded.requested.trans stored.requested
    case window => rw [same.window]; exact stored.window
    case relGate => rw [same.relGate]; exact stored.relGate
    case minCount => rw [same.minCount]; exact stored.minCount
    case target => rw [same.gain]; exact stored.target
    case gmax => rw [same.gain]; exact stored.gmax
    case gmin => rw [same.gain]; exact stored.gmin
    case upSlew => rw [same.gain]; exact stored.upSlew
    case downSlew => rw [same.gain]; exact stored.downSlew
    case band => rw [same.gain]; exact stored.band
    case g0 => rw [same.gain]; exact stored.g0
    case paused => exact funded.paused.trans stored.paused
    case report => exact funded.report.trans (by rw [stored.report])

/-! ## The load's end (R188 to R190, R194) -/

/-- A profile applied is its lanes, its programmes and its watches, one after the other (R189). -/
theorem State.applyProfile_parts {q : Profile} (lanes : q.lanes.length = 8) (watches : q.watches.length = 32) (s : State) :
    ∃ u : State, (s.LanesOnly allLanes u ∧ ∀ l : LaneId, ∃ r, q.lanes[l.val]? = some r ∧ r.Applied (u.lane l))
      ∧ (q.progs.foldl State.applyProg u).WatchesOnly allWatches (s.applyProfile q)
      ∧ ∀ w : WatchId, ∃ b, q.watches[w.val]? = some b
        ∧ b.Applied q.majorLevel w (q.progs.foldl State.applyProg u).wch (s.applyProfile q).wch :=
  ⟨s.applyLanes q.lanes, State.applyLanes_all lanes s, applyWatches_all watches _⟩

theorem State.loadEnd_valid {s : State} {q : Profile} (loading : s.pfu.outcome = .loading) (answered : s.pfu.answered = true)
    (judged : judgeImage s.pfu.mem = some q) :
    s.loadEnd = (({ s with pfu := s.pfu.readStart } : State).applyProfile q).setOutcome .valid := by
  have image : s.pfu.image = some q := by rw [Pfu.image, if_pos answered, judged]
  unfold State.loadEnd
  rw [if_pos loading]
  simp only [image]

theorem State.loadEnd_invalid {s : State} (loading : s.pfu.outcome = .loading)
    (invalid : s.pfu.answered = false ∨ judgeImage s.pfu.mem = none) :
    s.loadEnd = ((({ s with pfu := s.pfu.readStart } : State).applyProfile Profile.factory).onPanel
      (Panel.raise .profileFault)).setOutcome s.pfu.failure := by
  have image : s.pfu.image = none := by
    unfold Pfu.image
    rcases invalid with silent | failed
    · rw [if_neg (ne_true_of_eq_false silent)]
    · rw [failed, ite_self]
  unfold State.loadEnd
  rw [if_pos loading]
  simp only [image]

/-- The load of a valid image. -/
structure State.ValidLoad (s : State) (q : Profile) (t : State) : Prop where
  pfu : t.pfu = { s.pfu.readStart with
    outcome := .valid
    defined := s.pfu.defined + (takenRecords [] q.progs).length
    skipped := s.pfu.skipped + (q.progs.length - (takenRecords [] q.progs).length) }
  fault : t.wch.isRaised .profileFault = s.wch.isRaised .profileFault
  lanes : ∀ l : LaneId, ∃ r, q.lanes[l.val]? = some r ∧ r.Applied (t.lane l)
  defined : ∀ r ∈ takenRecords [] q.progs, ∃ p : ProgId, p.val = r.prog ∧ r.DefinedAs (t.prog p)
  others : ∀ p : ProgId, (∀ r ∈ takenRecords [] q.progs, r.prog ≠ p.val) → t.prog p = s.prog p
  watches : ∀ w : WatchId, ∃ b, q.watches[w.val]? = some b ∧ b.Full ∧ ∃ kind number measure,
    b.Loaded q.majorLevel w s.wch t.wch kind number measure
  rest : t.refu = s.refu ∧ t.out = s.out ∧ t.pending = s.pending

/-- What the load makes of a watch depends on the panel before only by the watch's record and the major level. -/
theorem WatchBody.Loaded.congr {b : WatchBody} {major : Nat} {w : WatchId} {u u' v : Wch} {kind : ObjectKind} {number : Nat}
    {measure : Measure} (record : (u.watches[w]).record = (u'.watches[w]).record)
    (level : u.majorLevel = u'.majorLevel) (h : b.Loaded major w u v kind number measure) :
    b.Loaded major w u' v kind number measure := by
  refine ⟨h.source, h.listed, fun missing => ?_, fun object sort numbered => record ▸ h.taken object sort numbered⟩
  obtain ⟨kept, major⟩ := h.refused missing
  exact ⟨kept.trans record, fun last => (major last).trans level⟩

theorem State.loadEnd_validLoad {s : State} {q : Profile} (loading : s.pfu.outcome = .loading) (answered : s.pfu.answered = true)
    (judged : judgeImage s.pfu.mem = some q) (pages : s.PagesConserved) : s.ValidLoad q s.loadEnd.transmit := by
  have read := judgeImage_read judged
  obtain ⟨-, undefined, -, unstarted⟩ := pages
  have empty (p : ProgId) : (s.prog p).members = [] := undefined p (unstarted loading p)
  rw [State.loadEnd_valid loading answered judged]
  obtain ⟨u, ⟨lanes, eachLane⟩, watches, eachWatch⟩ :=
    State.applyProfile_parts read.lanes read.watches { s with pfu := s.pfu.readStart }
  obtain ⟨v, hu⟩ := lanes.rest
  have fault := lanes.fault
  have progs := State.applyProgs_all read u fun p => by rw [hu]; exact empty p
  generalize hw : q.progs.foldl State.applyProg u = w at progs watches eachWatch
  generalize ht : State.applyProfile q { s with pfu := s.pfu.readStart } = t at watches eachWatch
  obtain ⟨pfu, x, hx⟩ := progs.rest
  obtain ⟨y, hy⟩ := watches.rest
  have front : t.front = u.front := by rw [hy, hx]; rfl
  have tprogs : t.progs = w.progs := by rw [hy]; rfl
  have tpfu : t.pfu = w.pfu := by rw [hy]; rfl
  have uprogs : u.progs = s.progs := by rw [hu]; rfl
  have upfu : u.pfu = s.pfu.readStart := by rw [hu]; rfl
  refine ⟨?_, ?_, fun l => ?_, fun r hr => ?_, fun p none => ?_, fun i => ?_, ?_⟩
  · show ({ t.pfu with outcome := .valid } : Pfu) = _
    rw [tpfu, progs.counts, upfu]
    rfl
  · exact (watches.raised .profileFault (by simp) (by simp)).trans (progs.fault.trans fault)
  · obtain ⟨r, found, applied⟩ := eachLane l
    refine ⟨r, found, ?_⟩
    show r.Applied (t.front.lanes[l])
    rw [front]
    exact applied
  · obtain ⟨p, number, defined⟩ := progs.defined r hr
    refine ⟨p, number, ?_⟩
    show r.DefinedAs (t.progs[p])
    rw [tprogs]
    exact defined
  · show t.progs[p] = s.progs[p]
    rw [tprogs, ← uprogs]
    exact progs.others p none
  · obtain ⟨b, found, applied⟩ := eachWatch i
    obtain ⟨src, left, record⟩ := read.watch b (List.mem_of_getElem? found)
    have full := readWatchRecord_full record
    obtain ⟨kind, number, measure, loaded⟩ := applied.loaded full
    refine ⟨b, found, full, kind, number, measure, loaded.congr ?_ ?_⟩
    · rw [progs.records i, lanes.watches]
    · rw [progs.majorLevel, lanes.majorLevel]
  · show t.refu = s.refu ∧ t.out = s.out ∧ t.pending = s.pending
    rw [hy, hx, hu]
    exact ⟨rfl, rfl, rfl⟩

/-- The load without a valid image: the factory defaults (R190). -/
structure State.DefaultLoad (s t : State) : Prop where
  pfu : t.pfu = { s.pfu.readStart with outcome := s.pfu.failure }
  fault : t.wch.isRaised .profileFault = true
  majorLevel : t.wch.majorLevel = 5
  lanes : ∀ l : LaneId, (t.lane l).settings =
      { enabled := true, preference := .full, bypassAllowed := true, tolerance := 5, openCounting := false }
    ∧ (t.lane l).state ≠ .disabled
  watches : ∀ w : WatchId, (t.wch.watches[w]).AtReset
  rest : t.progs = s.progs ∧ t.dmc = s.dmc ∧ t.refu = s.refu ∧ t.out = s.out ∧ t.pending = s.pending

theorem WatchRecord.factory_judge (old : WatchRecord) : WatchRecord.factory.body.judge old = .ok WatchRecord.factory := rfl

theorem WatchRecord.factory_start : WatchRecord.factory.start.AtReset := ⟨rfl, rfl, rfl, rfl, rfl, rfl, rfl, rfl⟩

/-- The factory defaults applied to a state. -/
structure State.DefaultsApplied (s t : State) : Prop where
  rest : ∃ v : LaneSide, t = s.onLanes fun _ => v
  lanes : ∀ l : LaneId, (t.lane l).settings =
      { enabled := true, preference := .full, bypassAllowed := true, tolerance := 5, openCounting := false }
    ∧ (t.lane l).state ≠ .disabled
  watches : ∀ w : WatchId, t.wch.watches[w] = WatchRecord.factory.start
  majorLevel : t.wch.majorLevel = 5

theorem Profile.factory_lane {l : LaneId} {r : LaneRecord} (h : Profile.factory.lanes[l.val]? = some r) :
    r = { enabled := true, preference := .full, bypassAllowed := true, tolerance := 5, openCounting := false } :=
  List.eq_of_mem_replicate (List.mem_of_getElem? h)

theorem Profile.factory_watch {w : WatchId} {b : WatchBody} (h : Profile.factory.watches[w.val]? = some b) :
    b = WatchRecord.factory.body := List.eq_of_mem_replicate (List.mem_of_getElem? h)

theorem State.applyProfile_factory (s : State) : s.DefaultsApplied (s.applyProfile Profile.factory) := by
  obtain ⟨u, ⟨lanes, eachLane⟩, watches, eachWatch⟩ := s.applyProfile_parts (q := Profile.factory) rfl rfl
  generalize s.applyProfile Profile.factory = t at watches eachWatch
  rw [show Profile.factory.progs = [] from rfl, List.foldl_nil] at watches
  obtain ⟨v, hu⟩ := lanes.rest
  obtain ⟨y, hy⟩ := watches.rest
  have started (w : WatchId) : t.wch.watches[w] = WatchRecord.factory.start ∧ (w = 31 → t.wch.majorLevel = 5) := by
    obtain ⟨b, found, applied⟩ := eachWatch w
    obtain rfl := Profile.factory_watch found
    obtain ⟨start, -, level⟩ := applied.taken _ (WatchRecord.factory_judge _)
    exact ⟨start, level⟩
  refine ⟨⟨{ v with panel := y }, by rw [hy, hu]; rfl⟩, fun l => ?_, fun w => (started w).1, (started 31).2 rfl⟩
  obtain ⟨r, found, settings, disabled⟩ := eachLane l
  obtain rfl := Profile.factory_lane found
  rw [show t.lane l = u.lane l by rw [hy]; rfl]
  exact ⟨settings, fun h => absurd (disabled.1 h) (by decide)⟩

/-- PROFILE_FAULT raised and the outcome set, after the defaults. -/
def State.faulted (o : LoadOutcome) (t : State) : State := ((t.onPanel (Panel.raise .profileFault)).setOutcome o).transmit

theorem State.faulted_pfu (o : LoadOutcome) (t : State) : (t.faulted o).pfu = { t.pfu with outcome := o } := rfl

theorem State.faulted_wch (o : LoadOutcome) (t : State) : (t.faulted o).wch = (t.panel.raise .profileFault).wch := rfl

theorem State.faulted_lane (o : LoadOutcome) (t : State) (l : LaneId) : (t.faulted o).lane l = t.lane l := rfl

theorem State.faulted_rest (o : LoadOutcome) (t : State) : (t.faulted o).progs = t.progs ∧ (t.faulted o).dmc = t.dmc
    ∧ (t.faulted o).refu = t.refu ∧ (t.faulted o).out = t.out ∧ (t.faulted o).pending = t.pending := ⟨rfl, rfl, rfl, rfl, rfl⟩

theorem State.loadEnd_defaultLoad {s : State} (loading : s.pfu.outcome = .loading)
    (invalid : s.pfu.answered = false ∨ judgeImage s.pfu.mem = none) : s.DefaultLoad s.loadEnd.transmit := by
  obtain ⟨⟨v, rest⟩, lanes, watches, majorLevel⟩ := State.applyProfile_factory { s with pfu := s.pfu.readStart }
  have ended : s.loadEnd.transmit = State.faulted s.pfu.failure (State.applyProfile Profile.factory { s with pfu := s.pfu.readStart }) :=
    congrArg State.transmit (State.loadEnd_invalid loading invalid)
  rw [ended]
  generalize State.applyProfile Profile.factory { s with pfu := s.pfu.readStart } = t at rest lanes watches majorLevel ⊢
  have raised := Panel.raise_kept .profileFault t.panel
  constructor
  case pfu => rw [State.faulted_pfu, rest]; rfl
  case fault => rw [State.faulted_wch]; exact Panel.raise_isRaised .profileFault t.panel
  case majorLevel => rw [State.faulted_wch, raised.majorLevel]; exact majorLevel
  case lanes => intro l; rw [State.faulted_lane]; exact lanes l
  case watches =>
    intro w
    rw [State.faulted_wch, raised.watches, show t.panel.wch = t.wch from rfl, watches w]
    exact WatchRecord.factory_start
  case rest =>
    obtain ⟨progs, dmc, refu, out, pending⟩ := t.faulted_rest s.pfu.failure
    rw [progs, dmc, refu, out, pending, rest]
    exact ⟨rfl, rfl, rfl, rfl, rfl⟩

/-- The end of the profile load, the machine having power. -/
theorem exec_profileLoadEnd {s : State} (on : s.powered = true) : exec .profileLoadEnd s = .next s.loadEnd.transmit :=
  s.carry_on on State.loadEnd

/-- Settles O51: the lanes, the stored programmes and the watches are applied one after the other; a record's members are clear of what
the programmes taken before it claim just when the machine finds no holder of their channels. -/
theorem profileLoadAppliesTheImageOrTheDefaults : Obligations.ProfileLoadAppliesTheImageOrTheDefaults := by
  unfold Obligations.ProfileLoadAppliesTheImageOrTheDefaults
  intro s on loading header known read
  have start : s.pfu.readStart = read := s.pfu.readStart_eq
  refine ⟨fun q answered judged pages => ?_, fun invalid => ?_, fun whole idle => ?_⟩
  · obtain ⟨pfu, fault, lanes, defined, others, watches, rest⟩ := State.loadEnd_validLoad loading answered judged pages
    have image := judgeImage_read judged
    refine ⟨_, exec_profileLoadEnd on, by rw [pfu, start], fault, lanes, fun r hr => ?_, others, fun w => ?_, rest⟩
    · obtain ⟨p, number, programme⟩ := defined r hr
      obtain ⟨src, left, record⟩ := image.progs r ((takenRecords_sublist _ _).subset hr)
      obtain ⟨state, members, of⟩ := programme.settings (readProgRecord_loud record)
      exact ⟨p, number, state, members, of.video, of.trim, of.method, of.glideLimit, of.requested, of.window, of.relGate, of.minCount,
        of.target, of.gmax, of.gmin, of.upSlew, of.downSlew, of.band, of.g0, of.paused, of.report⟩
    · obtain ⟨b, found, full, kind, number, measure, loaded⟩ := watches w
      refine ⟨b, kind, number, measure, found, loaded.source, loaded.listed, loaded.refused, fun object sort numbered => ?_⟩
      obtain ⟨watch, clear, level⟩ := loaded.taken object sort numbered
      obtain ⟨enable, threshold, sense, mode, raiseCount, clearCount, severity, freezeEnable, body, started⟩ :=
        full.start_with loaded.source (s.wch.watches[w]).record object measure
      exact ⟨fun last => (level last).trans (clampNat_eq _ _ _ (by decide)), clear, enable, threshold, sense, mode, raiseCount,
        clearCount, severity, freezeEnable, body, watch.trans started⟩
  · obtain ⟨pfu, fault, majorLevel, lanes, watches, rest⟩ := State.loadEnd_defaultLoad loading invalid
    exact ⟨_, exec_profileLoadEnd on, by rw [pfu, start]; rfl, fault, majorLevel, lanes, watches, rest⟩
  · have noted : s.ackTimeout whole = { s with pfu := { s.pfu with answered := false, headerRead := whole } } := by
      unfold State.ackTimeout
      rw [idle]
      exact if_pos loading
    exact (s.carry_on on (State.ackTimeout whole)).trans (by rw [noted])

end Sys2Proof.Machine

/-! What the blocks do to the panel is a run of reports; each keeps the bounds of the link controller (R175, R176, R180, R182, R184). -/
namespace Sys2Proof.Machine

/-! ## The bounds of the link controller -/

/-- The queues and counts of the link controller lie within their bounds, and no two notices share a key. -/
structure Lnk.Bounded (l : Lnk) : Prop where
  requests : l.requests.length ≤ 8
  busy : l.busy.length ≤ 8
  credit : l.credit ≤ 255
  loss : l.loss ≤ 65535
  frameErrors : l.frameErrors ≤ 65535
  notices : l.notices.length ≤ 64
  keys : (l.notices.map Notice.key).Nodup

theorem State.linkBounded_iff (s : State) : s.LinkBounded ↔ s.lnk.Bounded :=
  ⟨fun ⟨requests, busy, credit, loss, frameErrors, notices, keys⟩ => ⟨requests, busy, credit, loss, frameErrors, notices, keys⟩,
    fun h => ⟨h.requests, h.busy, h.credit, h.loss, h.frameErrors, h.notices, h.keys⟩⟩

/-! ## The notice queue (R182, R183) -/

/-- A notice of a new key takes a place that is free in part of a queue. -/
theorem notices_append_bounded {q r : List Notice} {n : Notice} (part : r.Sublist q) (room : r.length < 64)
    (keys : (q.map Notice.key).Nodup) (fresh : ∀ m ∈ q, m.key ≠ n.key) :
    (r ++ [n]).length ≤ 64 ∧ ((r ++ [n]).map Notice.key).Nodup := by
  refine ⟨by simp; omega, ?_⟩
  rw [List.map_append, List.nodup_append]
  refine ⟨keys.sublist (part.map _), by simp, fun a ha b hb => ?_⟩
  obtain ⟨m, hm, rfl⟩ := List.mem_map.1 ha
  obtain rfl : b = n.key := by simpa using hb
  exact fresh m (part.subset hm)

/-- The notice that leaves a full queue makes a place. -/
theorem notices_replaced_bounded {q : List Notice} {n m : Notice} {p : Notice → Bool} (len : q.length ≤ 64) (hm : m ∈ q) (hp : p m = true)
    (keys : (q.map Notice.key).Nodup) (fresh : ∀ m ∈ q, m.key ≠ n.key) :
    (q.eraseP p ++ [n]).length ≤ 64 ∧ ((q.eraseP p ++ [n]).map Notice.key).Nodup := by
  have pos : 0 < q.length := List.length_pos_of_mem hm
  exact notices_append_bounded List.eraseP_sublist (by rw [List.length_eraseP_of_mem hm hp]; omega) keys fresh

/-- The lowest class is the bound, or some notice has it. -/
theorem lowestRank_mem (bound : Nat) (q : List Notice) : lowestRank bound q = bound ∨ ∃ m ∈ q, m.rank = lowestRank bound q := by
  induction q generalizing bound with
  | nil => exact .inl rfl
  | cons n q ih =>
    rcases ih (min bound n.rank) with low | ⟨m, hm, low⟩
    · rcases Nat.le_total bound n.rank with h | h
      · exact .inl (low.trans (Nat.min_eq_left h))
      · exact .inr ⟨n, List.mem_cons_self, (low.trans (Nat.min_eq_right h)).symm⟩
    · exact .inr ⟨m, List.mem_cons_of_mem _ hm, low⟩

theorem offerTo_bounded {q : List Notice} (n : Notice) (len : q.length ≤ 64) (keys : (q.map Notice.key).Nodup) :
    (offerTo q n).1.length ≤ 64 ∧ ((offerTo q n).1.map Notice.key).Nodup := by
  unfold offerTo
  split
  · have same : (q.map fun m => if m.key = n.key then n else m).map Notice.key = q.map Notice.key := by
      rw [List.map_map]
      refine List.map_congr_left fun m _ => ?_
      by_cases h : m.key = n.key <;> simp [h]
    exact ⟨by simpa using len, by rwa [same]⟩
  · next absent =>
    have fresh : ∀ m ∈ q, m.key ≠ n.key := by simpa using absent
    split
    · exact notices_append_bounded (List.Sublist.refl q) ‹_› keys fresh
    · split
      · next meters =>
        obtain ⟨m, hm, meter⟩ := List.any_eq_true.1 meters
        exact notices_replaced_bounded len hm meter keys fresh
      · split
        · exact ⟨len, keys⟩
        · dsimp only
          split
          · next lower =>
            obtain ⟨m, hm, low⟩ := (lowestRank_mem n.rank q).resolve_left (Nat.ne_of_lt lower)
            exact notices_replaced_bounded len hm (beq_iff_eq.2 low) keys fresh
          · exact ⟨len, keys⟩

theorem Lnk.Bounded.transmit {l : Lnk} (h : l.Bounded) : l.transmit.Bounded := by
  refine ⟨?_, ?_, l.transmit_credit.trans h.credit, ?_, ?_, l.transmit_notices.length_le.trans h.notices,
    h.keys.sublist (l.transmit_notices.map _)⟩
  · simpa using h.requests
  · simpa using h.busy
  · simpa using h.loss
  · simpa using h.frameErrors

/-! ## The reports -/

namespace Panel

theorem enqueue_bounded (n : Notice) {v : Panel} (h : v.lnk.Bounded) : (v.enqueue n).1.lnk.Bounded := by
  obtain ⟨notices, keys⟩ := offerTo_bounded n h.notices h.keys
  exact Lnk.Bounded.transmit { h with notices := notices, keys := keys }

theorem countLoss_bounded {v : Panel} (h : v.lnk.Bounded) : v.countLoss.lnk.Bounded := { h with loss := satSucc_le _ _ }

theorem noteLoss_bounded {v : Panel} (h : v.lnk.Bounded) : v.noteLoss.lnk.Bounded := by
  have counted := countLoss_bounded h
  unfold noteLoss
  dsimp only
  split
  · exact counted
  · have reported (e : AlarmEntry) (t : List AlarmEntry) := enqueue_bounded (v := v.countLoss.setTable t) (.alarm e .raised v.countLoss.now) counted
    split
    · exact countLoss_bounded (reported _ _)
    · exact reported _ _

theorem offer_bounded (n : Notice) {v : Panel} (h : v.lnk.Bounded) : (v.offer n).lnk.Bounded := by
  unfold offer
  dsimp only
  split
  · exact noteLoss_bounded (enqueue_bounded n h)
  · exact enqueue_bounded n h

theorem raiseEntry_bounded (e : AlarmEntry) {v : Panel} (h : v.lnk.Bounded) : (v.raiseEntry e).lnk.Bounded := by
  unfold raiseEntry
  split
  · exact h
  · exact offer_bounded _ h

theorem clear_bounded (id : AlarmId) {v : Panel} (h : v.lnk.Bounded) : (v.clear id).lnk.Bounded := by
  unfold clear
  split
  · exact h
  · exact offer_bounded _ h

theorem acknowledge_bounded (id : AlarmId) {v : Panel} (h : v.lnk.Bounded) : (v.acknowledge id).lnk.Bounded := by
  unfold acknowledge
  split
  · exact h
  · split
    · exact h
    · exact offer_bounded _ h

theorem watchObserve_bounded (o : WatchObject) (vs : Measure → Option Int) {v : Panel} (w : WatchId) (h : v.lnk.Bounded) :
    (v.watchObserve o vs w).lnk.Bounded := by
  unfold watchObserve
  dsimp only
  split
  · split
    · exact h
    · split
      · exact h
      · exact raiseEntry_bounded _ h
      · exact clear_bounded _ h
  · exact h

theorem observe_bounded (o : WatchObject) (vs : Measure → Option Int) {v : Panel} (h : v.lnk.Bounded) : (v.observe o vs).lnk.Bounded :=
  List.foldlRecOn (motive := fun v : Panel => v.lnk.Bounded) _ _ h fun _ hv w _ => watchObserve_bounded o vs w hv

/-- One report to the panel: a notice, a system alarm raised, cleared or acknowledged, an observation, a watch restarted. -/
inductive Report : Panel → Panel → Prop
  | offer (v : Panel) (n : Notice) : Report v (v.offer n)
  | raise (v : Panel) (id : AlarmId) (system : ∀ w, id ≠ .watch w) : Report v (v.raise id)
  | clear (v : Panel) (id : AlarmId) (system : ∀ w, id ≠ .watch w) : Report v (v.clear id)
  | acknowledge (v : Panel) (id : AlarmId) : Report v (v.acknowledge id)
  | observe (v : Panel) (o : WatchObject) (vs : Measure → Option Int) : Report v (v.observe o vs)
  | restartWatch (v : Panel) (id : WatchId) (r : WatchRecord) : Report v (v.restartWatch id r)

theorem Report.bounded {v w : Panel} (h : v.Report w) (hv : v.lnk.Bounded) : w.lnk.Bounded := by
  cases h with
  | offer n => exact offer_bounded n hv
  | raise id => exact raiseEntry_bounded _ hv
  | clear id => exact clear_bounded id hv
  | acknowledge id => exact acknowledge_bounded id hv
  | observe o vs => exact observe_bounded o vs hv
  | restartWatch id r => exact clear_bounded (.watch id) hv

/-- Reports one after the other. -/
abbrev Reports : Panel → Panel → Prop := Relation.ReflTransGen Report

namespace Reports

theorem bounded {v w : Panel} (h : v.Reports w) (hv : v.lnk.Bounded) : w.lnk.Bounded := by
  induction h with
  | refl => exact hv
  | tail _ last ih => exact last.bounded ih

theorem offer (v : Panel) (n : Notice) : v.Reports (v.offer n) := .single (.offer v n)

theorem raise (v : Panel) {id : AlarmId} (system : ∀ w, id ≠ .watch w) : v.Reports (v.raise id) := .single (.raise v id system)

theorem clear (v : Panel) {id : AlarmId} (system : ∀ w, id ≠ .watch w) : v.Reports (v.clear id) := .single (.clear v id system)

theorem observe (v : Panel) (o : WatchObject) (vs : Measure → Option Int) : v.Reports (v.observe o vs) := .single (.observe v o vs)

theorem restartWatches (v : Panel) (p : ProgId) : v.Reports (v.restartWatches p) := by
  refine List.foldlRecOn (motive := v.Reports) _ _ .refl fun w hw id _ => ?_
  dsimp only
  split
  · exact hw.tail (.restartWatch w id _)
  · exact hw

theorem takeResults (v : Panel) (p : ProgId) (x : Prog) : v.Reports (v.takeResults p x) := by
  unfold Panel.takeResults
  split
  · exact .refl
  · dsimp only
    split
    · exact (observe v _ _).tail (.offer _ _)
    · exact observe v _ _

theorem refChanged (v : Panel) (new left : RefState) (latch : Bool) : v.Reports (v.refChanged new left latch) := by
  have seen := (offer v (.ref new left latch v.now)).tail (.observe _ .reference new.observed)
  unfold Panel.refChanged
  dsimp only
  split
  · exact seen.tail (.raise _ _ (by simp))
  · split
    · exact seen.tail (.clear _ _ (by simp))
    · exact seen

end Reports

end Panel

end Sys2Proof.Machine

/-! The programme side under every command: the delay memory keeps its canonical form (log 8), and the panel is only reported to. -/
namespace Sys2Proof.Machine

/-- From the first view to the second the delay memory keeps its canonical form, and the panel takes reports. -/
structure ProgSide.Served (v w : ProgSide) : Prop where
  dram : v.dmc.dram.wf → w.dmc.dram.wf
  panel : v.panel.Reports w.panel

namespace ProgSide.Served

theorem refl (v : ProgSide) : v.Served v := ⟨id, .refl⟩

theorem trans {u v w : ProgSide} (a : u.Served v) (b : v.Served w) : u.Served w := ⟨b.dram ∘ a.dram, a.panel.trans b.panel⟩

theorem foldl {α : Type} (f : ProgSide → α → ProgSide) (h : ∀ (v : ProgSide) (a : α), v.Served (f v a)) (xs : List α)
    (v : ProgSide) : v.Served (xs.foldl f v) :=
  List.foldlRecOn (motive := v.Served) xs f (refl v) fun w hw a _ => hw.trans (h w a)

theorem onPanel (v : ProgSide) {f : Panel → Panel} (h : v.panel.Reports (f v.panel)) : v.Served (v.onPanel f) := ⟨id, h⟩

theorem set (v : ProgSide) (p : ProgId) (x : Prog) : v.Served { v with progs := v.progs.set p x } := ⟨id, .refl⟩

theorem modProg (v : ProgSide) (p : ProgId) (f : Prog → Prog) : v.Served (v.modProg p f) := ⟨id, .refl⟩

theorem modDelay (v : ProgSide) (p : ProgId) (f : DelayRec → DelayRec) : v.Served (v.modDelay p f) := ⟨id, .refl⟩

/-! ## The delay memory -/

theorem resize (v : ProgSide) (p : ProgId) (k : Nat) : v.Served (v.resize p k) := ⟨fun h => Dmc.resizeMembers_wf h _ _ _, .refl⟩

theorem joinWait (v : ProgSide) (p : ProgId) : v.Served (v.joinWait p) := by
  unfold ProgSide.joinWait
  split
  · exact refl v
  · exact ⟨id, .raise _ (by simp)⟩

theorem leaveWait (v : ProgSide) (p : ProgId) : v.Served (v.leaveWait p) := by
  unfold ProgSide.leaveWait
  split
  · exact ⟨id, .clear _ (by simp)⟩
  · exact refl v

theorem fund (v : ProgSide) (p : ProgId) (request : Nat) : v.Served (v.fund p request) := by
  unfold ProgSide.fund
  dsimp only
  split
  · exact ((modDelay v p _).trans (resize _ p _)).trans (leaveWait _ p)
  · exact ((modDelay v p _).trans (resize _ p _)).trans (joinWait _ p)

theorem event {f : ProgSide → ProgSide} {v : ProgSide} (h : v.Served (f v)) : v.Served (ProgSide.event f v) := by
  unfold ProgSide.event
  dsimp only
  split
  · exact h
  · exact h.trans (onPanel _ (.observe _ _ _))

/-! ## Changes of delay, starts, the service of the wait list -/

theorem noticeDone (v : ProgSide) (p : ProgId) (kind : DoneKind) : v.Served (v.noticeDone p kind) := ⟨id, .offer _ _⟩

theorem completeGlide (v : ProgSide) (p : ProgId) : v.Served (v.completeGlide p) := (modDelay v p _).trans (noticeDone _ p _)

theorem judgeGlide (v : ProgSide) (p : ProgId) : v.Served (v.judgeGlide p) := by
  unfold ProgSide.judgeGlide
  dsimp only
  split
  · split
    · exact completeGlide v p
    · exact refl v
  · refine (modProg v p (Prog.moveDelay (64 * (v.prog p).delay.whole))).trans ?_
    split
    · exact completeGlide _ p
    · exact modDelay _ p _

theorem takeRaise (v : ProgSide) (p : ProgId) : v.Served (v.takeRaise p) := by
  unfold ProgSide.takeRaise
  dsimp only
  split
  · split
    · exact refl v
    · exact modDelay v p _
  · exact judgeGlide v p
  · exact refl v
  · exact (modProg v p _).trans (modDelay _ p _)
  · exact modDelay v p _

theorem startProg (v : ProgSide) (p : ProgId) (delay : Nat) : v.Served (v.startProg p delay) :=
  ⟨fun h => (Dmc.createRings_dram _ _ _).symm ▸ h, .refl⟩

theorem fundNew (v : ProgSide) (p : ProgId) : v.Served (v.fundNew p) := by
  unfold ProgSide.fundNew
  dsimp only
  split
  · exact startProg v p _
  · split
    · exact (startProg v p _).trans (joinWait _ p)
    · exact (modProg v p _).trans (joinWait _ p)

theorem leaveIfFull (v : ProgSide) (p : ProgId) : v.Served (v.leaveIfFull p) := by
  unfold ProgSide.leaveIfFull
  split
  · exact leaveWait v p
  · exact refl v

theorem serveWaiter (v : ProgSide) (p : ProgId) : v.Served (v.serveWaiter p) := by
  unfold ProgSide.serveWaiter
  dsimp only
  split
  · split
    · exact (((modDelay v p _).trans (resize _ p _)).trans (takeRaise _ p)).trans (leaveIfFull _ p)
    · exact refl v
  · split
    · exact (startProg v p _).trans (leaveIfFull _ p)
    · exact refl v
  · exact refl v

theorem serve (v : ProgSide) : v.Served v.serve := foldl _ serveWaiter _ v

theorem serveAfter (v : ProgSide) (p : ProgId) (before : Nat) : v.Served (v.serveAfter p before) := by
  unfold ProgSide.serveAfter
  split
  · exact serve v
  · exact refl v

theorem holdingFell (v : ProgSide) (p : ProgId) : v.Served (v.holdingFell p) := by
  unfold ProgSide.holdingFell
  dsimp only
  split
  · exact event ((resize v p _).trans (serve _))
  · exact refl v

/-! ## Requests -/

theorem fundEvent (v : ProgSide) (p : ProgId) (request : Nat) : v.Served (v.fundEvent p request) :=
  event ((fund v p request).trans (serveAfter _ p _))

theorem actSteady (v : ProgSide) (p : ProgId) (request : Nat) : v.Served (v.actSteady p request) := by
  unfold ProgSide.actSteady
  dsimp only
  refine (fundEvent v p request).trans ?_
  split
  · exact noticeDone _ p _
  · exact modDelay _ p _

theorem newRequest (v : ProgSide) (p : ProgId) : v.Served (v.newRequest p) := by
  unfold ProgSide.newRequest
  dsimp only
  split
  · split
    · exact actSteady v p _
    · exact ((fundEvent v p _).trans (judgeGlide _ p)).trans (holdingFell _ p)
    · exact modDelay v p _
  · exact modDelay v p _

theorem define (v : ProgSide) (p : ProgId) (x : Prog) : v.Served (v.define p x) := by
  rw [ProgSide.define]
  exact (set v p x).trans (event (fundNew _ p))

theorem undefineWaiting (v : ProgSide) (p : ProgId) : v.Served (v.undefineWaiting p) :=
  ((leaveWait v p).trans (set _ p Prog.undefined)).trans (onPanel _ (.restartWatches _ p))

theorem beginRelease (v : ProgSide) (p : ProgId) : v.Served (v.beginRelease p) :=
  ((modProg v p _).trans (leaveWait _ p)).trans (holdingFell _ p)

/-! ## Completions -/

theorem glideEnd (v : ProgSide) (p : ProgId) : v.Served (v.glideEnd p) := by
  unfold ProgSide.glideEnd
  split
  · exact completeGlide v p
  · exact refl v

theorem jumpFaded (v : ProgSide) (p : ProgId) : v.Served (v.jumpFaded p) := by
  unfold ProgSide.jumpFaded
  split
  · exact (modProg v p _).trans (holdingFell _ p)
  · exact refl v

theorem fillEnd (v : ProgSide) (p : ProgId) : v.Served (v.fillEnd p) := by
  unfold ProgSide.fillEnd
  split
  · exact modDelay v p _
  · exact refl v

theorem afterJump (v : ProgSide) (p : ProgId) (ahead : Bool) : v.Served (v.afterJump p ahead) := by
  unfold ProgSide.afterJump
  split
  · exact (modDelay v p _).trans (actSteady _ p _)
  · split
    · exact modDelay v p _
    · exact refl v

theorem fadeInEnd (v : ProgSide) (p : ProgId) : v.Served (v.fadeInEnd p) := by
  unfold ProgSide.fadeInEnd
  dsimp only
  split
  · exact (((modDelay v p _).trans (noticeDone _ p _)).trans (modDelay _ p _)).trans (afterJump _ p _)
  · exact refl v

theorem dissolve (v : ProgSide) (p : ProgId) : v.Served (v.dissolve p) := by
  unfold ProgSide.dissolve
  dsimp only
  refine .trans ?_ (serve _)
  exact ⟨id, .refl⟩

theorem releaseEnd (v : ProgSide) (p : ProgId) : v.Served (v.releaseEnd p) := by
  unfold ProgSide.releaseEnd
  split
  · exact (event (dissolve v p)).trans (onPanel _ (.restartWatches _ p))
  · exact refl v

theorem completeSubBlock (v : ProgSide) (p : ProgId) : v.Served (v.completeSubBlock p) := by
  unfold ProgSide.completeSubBlock
  dsimp only
  split
  · split
    · exact (set v p _).trans (onPanel _ (.takeResults _ p _))
    · exact set v p _
  · exact refl v

theorem settleProg (v : ProgSide) (p : ProgId) : v.Served (v.settleProg p) :=
  (((((jumpFaded v p).trans (fillEnd _ p)).trans (fadeInEnd _ p)).trans (glideEnd _ p)).trans (modProg _ p _)).trans
    ((releaseEnd _ p).trans (completeSubBlock _ p))

/-! ## The boundary -/

theorem boundaryProg (f : Front) (v : ProgSide) (p : ProgId) : v.Served (v.boundaryProg f p) := by
  unfold ProgSide.boundaryProg
  dsimp only
  split
  · exact ⟨fun h => writeBus_wf h _ _, .refl⟩
  · exact refl v

theorem boundary (f : Front) (v : ProgSide) : v.Served (v.boundary f) := foldl _ (boundaryProg f) _ v

theorem givePages (v : ProgSide) : v.Served v.givePages := by
  refine foldl _ (fun u p => ?_) _ v
  unfold ProgSide.glidePages
  split
  · exact holdingFell u p
  · exact refl u

end ProgSide.Served

end Sys2Proof.Machine

/-! A running converter at a boundary, step by step: the fade's position, what its FIFO gives up, what it produces and puts out (R28,
R30, R39). -/
namespace Sys2Proof.Machine

/-- The position of the lane fade at the next boundary (R39). -/
def Converter.nextPos (c : Converter) : Nat :=
  match c.fade with
  | .none => c.fadePos
  | .fadeOut => c.fadePos - 1
  | .fadeIn => min 480 (c.fadePos + 1)

theorem Converter.moveFade_eq (c : Converter) : c.moveFade = { c with fadePos := c.nextPos } := by
  rcases c with ⟨_, _, _, _, _, _, _, _, _, _, _, _, _, fade, _, _, _, _⟩
  cases fade <;> rfl

/-- The mode by which the converter takes frames from its FIFO: the granted one while there is no effective one (R28). -/
def Converter.takingMode (c : Converter) : ConvMode := if c.effective = .none then c.granted else c.effective

/-- How many frames a mode takes from the FIFO at a boundary (R28). -/
def Converter.taken (m : ConvMode) (c : Converter) : Nat :=
  match m with
  | .none => 0
  | .bypass => 1
  | _ => (c.phase + c.ratio) / 2 ^ 24

theorem Converter.pop_eq (c : Converter) : c.pop = { c with
    fifo := c.fifo.drop 1, past := (c.fifo.headD (c.past.headD Frame.silent) :: c.past).take pastKept } := by
  unfold Converter.pop
  split
  · next hf => rw [hf]; rfl
  · next hf => simp [hf]

theorem Converter.popTimes_eq (n : Nat) (c : Converter) : c.popTimes n = { c with
    fifo := c.fifo.drop n, past := (c.popTimes n).past } := by
  induction n generalizing c with
  | zero => rfl
  | succ n ih =>
    rw [Converter.popTimes, ih, Converter.pop_eq]
    simp only [List.drop_drop, Nat.add_comm 1 n]

/-- What taking frames by a mode leaves of the converter: its FIFO, its read phase, and what it has removed and produced. -/
theorem Converter.consume_eq (m : ConvMode) (c : Converter) : c.consume m = { c with
    fifo := c.fifo.drop (c.taken m), phase := if m = .full ∨ m = .short then (c.phase + c.ratio) % 2 ^ 24 else c.phase,
    past := (c.consume m).past, produced := (c.consume m).produced } := by
  cases m with
  | none => rfl
  | bypass => simp [Converter.consume, Converter.taken, Converter.pop_eq]
  | full => simp only [Converter.consume]; rw [Converter.popTimes_eq]; simp [Converter.taken]
  | short => simp only [Converter.consume]; rw [Converter.popTimes_eq]; simp [Converter.taken]

/-- What a mode produces: in BYPASS the frame it removes, in FULL and SHORT one frame of eight samples (R28, R34). -/
theorem Converter.consume_produced (m : ConvMode) (c : Converter) :
    (m = .none → (c.consume m).produced = c.produced)
      ∧ (m = .bypass → (c.consume m).produced = (c.fifo.headD (c.past.headD (List.replicate 8 0)) :: c.produced).take 49)
      ∧ (m = .full ∨ m = .short → ∃ frame : Frame, frame.length = 8 ∧ (c.consume m).produced = (frame :: c.produced).take 49) := by
  have interpolated (m : ConvMode) (h : m = .full ∨ m = .short) :
      ∃ frame : Frame, frame.length = 8 ∧ (c.consume m).produced = (frame :: c.produced).take 49 := by
    refine ⟨slotNumbers.map ((({ c with phase := (c.phase + c.ratio) % 2 ^ 24 } : Converter).popTimes
      ((c.phase + c.ratio) / 2 ^ 24)).interpolated (m == .full)), rfl, ?_⟩
    rcases h with rfl | rfl <;> simp only [Converter.consume, producedKept] <;> rw [Converter.popTimes_eq]
  refine ⟨?_, ?_, interpolated m⟩
  · rintro rfl; rfl
  · rintro rfl
    simp [Converter.consume, Converter.pop_eq, producedKept, pastKept, Frame.silent]

/-- What comes out under the effective mode's latency, before the lane fade's factor (R28, R32). -/
def Converter.raw (c : Converter) : Frame :=
  match c.effective with
  | .none => List.replicate 8 0
  | .full => c.produced.getD 48 (List.replicate 8 0)
  | .short => c.produced.getD 24 (List.replicate 8 0)
  | .bypass => c.produced.getD 4 (List.replicate 8 0)

theorem Converter.emit_eq (c : Converter) : c.emit = { c with
    output := if c.fade = .none then c.raw else c.raw.map (fadedSample c.fadePos) } := by
  have raw : (if c.effective = .none then Frame.silent else c.produced.getD c.effective.latency Frame.silent) = c.raw := by
    unfold Converter.raw
    cases c.effective <;> rfl
  simp only [Converter.emit, raw]

/-- The converter whose fade has moved takes its frames and puts one out. -/
theorem Converter.boundary_steps (c : Converter) :
    c.boundary = (({ c with fadePos := c.nextPos } : Converter).consume c.takingMode).emit := by
  unfold Converter.boundary
  dsimp only
  rw [Converter.moveFade_eq]
  rfl

/-- A boundary leaves the modes, the ratio, the fade's phase and what slips and gates have counted. -/
theorem Converter.boundary_eq (c : Converter) : c.boundary = { c with
    fadePos := c.nextPos, fifo := c.fifo.drop (c.taken c.takingMode),
    phase := if c.takingMode = .full ∨ c.takingMode = .short then (c.phase + c.ratio) % 2 ^ 24 else c.phase,
    past := c.boundary.past, produced := c.boundary.produced, output := c.boundary.output } := by
  rw [Converter.boundary_steps, Converter.emit_eq, Converter.consume_eq]
  rfl

theorem Converter.boundary_produced (c : Converter) :
    (c.takingMode = .none → c.boundary.produced = c.produced)
      ∧ (c.takingMode = .bypass → c.boundary.produced = (c.fifo.headD (c.past.headD (List.replicate 8 0)) :: c.produced).take 49)
      ∧ (c.takingMode = .full ∨ c.takingMode = .short →
          ∃ frame : Frame, frame.length = 8 ∧ c.boundary.produced = (frame :: c.produced).take 49) := by
  rw [Converter.boundary_steps, Converter.emit_eq]
  exact Converter.consume_produced c.takingMode { c with fadePos := c.nextPos }

/-- What goes out is what comes out of the frames produced, under the factor of a fade in flight. -/
theorem Converter.boundary_output (c : Converter) : c.boundary.output =
    if c.fade = .none then c.boundary.raw else c.boundary.raw.map (fadedSample c.nextPos) := by
  rw [Converter.boundary_steps, Converter.emit_eq, Converter.consume_eq]
  rfl

/-- A sample under a fade is within one unit of the exact product (R39, log 12). -/
theorem fadedSample_near (k : Nat) (x : Int) : |480 * fadedSample k x - x * k| < 480 := by
  unfold fadedSample Config.fadeFrames
  dsimp only
  generalize x * (k : Int) = p
  rw [abs_lt]
  split
  · omega
  · split <;> omega

end Sys2Proof.Machine

/-! The faded point of a lane fade on the lane side: the granted mode comes into effect, and a wanted slip is made (R30, R31, R39). -/
namespace Sys2Proof.Machine

/-- The FIFO that a slip brings to its centre (R30). -/
def Converter.centred (c : Converter) : List Frame :=
  if 128 < c.fifo.length then c.fifo.drop (c.fifo.length - 128)
  else List.replicate (128 - c.fifo.length) (c.fifo.headD c.emptySlipFrame) ++ c.fifo

theorem Converter.centred_length (c : Converter) : c.centred.length = 128 := by
  unfold Converter.centred
  split <;> simp <;> omega

/-- A slip touches nothing but the FIFO. -/
theorem Converter.recentre_eq (c : Converter) : c.recentre = { c with fifo := c.centred } := by
  unfold Converter.recentre Converter.centred Config.fifoCentre Converter.fill
  by_cases long : 128 < c.fifo.length
  · simp only [if_pos long]
  · simp only [if_neg long]

/-- The lane latency once the granted mode is in effect (R32, R39). -/
def Lane.fadedLatency (x : Lane) : Nat := if x.conv.granted = x.conv.effective then x.latency else x.conv.granted.latency

/-- The lane whose granted mode has come into effect at the faded point of its fade, and which fades in (R39). -/
def Lane.faded (x : Lane) : Lane :=
  { x with
    latency := x.fadedLatency, conv := { x.conv with effective := x.conv.granted, fade := .fadeIn, fadePos := 0 } }

/-- The lane whose slip has been made and counted, SLIP having been raised before or not (R30, R31). -/
def Lane.slipped (raised : Bool) (x : Lane) : Lane :=
  { x with conv := { x.conv with
      fifo := x.conv.centred, slipWanted := false, slipCount := satSucc 65535 x.conv.slipCount,
      slipsInGate := satSucc 65535 x.conv.slipsInGate, tracking := .acquire, acquisition := 0,
      gatesSinceSlip := if raised then 0 else x.conv.gatesSinceSlip } }

theorem LaneSide.slip_eq (v : LaneSide) (l : LaneId) :
    v.slip l = (v.put l ((v.lane l).slipped (v.panel.wch.isRaised (.slip l)))).onPanel (Panel.raise (.slip l)) := by
  rw [LaneSide.slip, LaneSide.modConv_eq_put, Converter.recentre_eq]
  rfl

/-- The faded point, with a slip and without one. -/
theorem LaneSide.fadedPoint_eq (v : LaneSide) (l : LaneId) : v.fadedPoint l =
    if (v.lane l).conv.slipWanted = true then
      (v.put l ((v.lane l).faded.slipped (v.panel.wch.isRaised (.slip l)))).onPanel (Panel.raise (.slip l))
    else v.put l (v.lane l).faded := by
  have applied : (if (v.lane l).conv.granted = (v.lane l).conv.effective then v.lane l else
      { v.lane l with
        latency := (v.lane l).conv.granted.latency, conv := { (v.lane l).conv with effective := (v.lane l).conv.granted } })
      = { v.lane l with latency := (v.lane l).fadedLatency, conv := { (v.lane l).conv with effective := (v.lane l).conv.granted } } := by
    unfold Lane.fadedLatency
    split
    · next same => rw [same]
    · rfl
  unfold LaneSide.fadedPoint
  dsimp only
  rw [LaneSide.modLane_eq_put, applied, LaneSide.put_lane_self]
  split
  · rw [LaneSide.slip_eq, LaneSide.modConv_eq_put, LaneSide.onPanel_lane, LaneSide.put_onPanel, LaneSide.put_put, LaneSide.put_put]
    simp only [LaneSide.put_lane_self]
    rfl
  · rw [LaneSide.modConv_eq_put, LaneSide.put_put, LaneSide.put_lane_self]
    rfl

end Sys2Proof.Machine

/-! The lane side under every command: the panel is only reported to, the tap costs stay within the budget, and no lane comes to wait
for it, since every ask ends in a grant (R35, R36). -/
namespace Sys2Proof.Machine

/-! ## Costs (R32, R35) -/

theorem Lane.cost_idle {x : Lane} (h : x.state ≠ .running) : x.cost = 0 := if_neg h

/-- A lane costs what its mode costs for each channel, and nothing while it does not run. -/
theorem Lane.cost_le_granted (x : Lane) : x.cost ≤ x.conv.granted.cost * x.channels := by
  unfold Lane.cost
  split
  · exact le_rfl
  · exact Nat.zero_le _

theorem Lane.cost_congr {x y : Lane} (state : y.state = x.state) (granted : y.conv.granted = x.conv.granted)
    (active : y.active = x.active) : y.cost = x.cost := by
  unfold Lane.cost Lane.channels
  rw [state, granted, active]

/-- One lane's record replaced changes the taps in use by that lane's cost alone. -/
theorem LaneSide.put_tapsInUse (v : LaneSide) (l : LaneId) (x : Lane) :
    (v.put l x).front.tapsInUse + (v.lane l).cost = v.front.tapsInUse + x.cost := by
  have taps (w : LaneSide) : w.front.tapsInUse = (w.lane l).cost + ∑ m ∈ Finset.univ.erase l, (w.lane m).cost := by
    rw [Front.tapsInUse_eq, ← List.ofFn_eq_map, List.sum_ofFn]
    exact (Finset.add_sum_erase _ _ (Finset.mem_univ l)).symm
  have others : ∑ m ∈ Finset.univ.erase l, ((v.put l x).lane m).cost = ∑ m ∈ Finset.univ.erase l, (v.lane m).cost :=
    Finset.sum_congr rfl fun m hm => by rw [LaneSide.put_lane_other _ _ (Finset.ne_of_mem_erase hm)]
  rw [taps, taps v, LaneSide.put_lane_self, others]
  omega

/-- A grant the same lane costs, whatever was granted before. -/
theorem Lane.regranted_cost_le (m : ConvMode) (x : Lane) : (x.regranted m).cost ≤ m.cost * x.channels := by
  have cost := (x.regranted m).cost_le_granted
  rw [Lane.regranted_granted] at cost
  have channels : (x.regranted m).channels = x.channels := by rw [Lane.regranted_eq]; rfl
  rwa [channels] at cost

/-- A mode is taken only where the free taps allow it (R36, R37). -/
theorem modeFor_fits {pref : Preference} {channels free : Nat} {m : ConvMode} (h : modeFor pref channels free = some m) :
    m.cost * channels ≤ free := by
  unfold modeFor at h
  split at h
  · next full => cases h; exact full.2
  · split at h
    · next short => cases h; exact short
    · cases h

/-! ## The budget, whoever asks -/

/-- From the first view to the second the panel takes reports, and the tap costs stay within the budget. -/
structure LaneSide.Costed (v w : LaneSide) : Prop where
  panel : v.panel.Reports w.panel
  budget : v.front.tapsInUse ≤ 2048 → w.front.tapsInUse ≤ 2048

namespace LaneSide.Costed

theorem refl (v : LaneSide) : v.Costed v := ⟨.refl, id⟩

theorem trans {u v w : LaneSide} (a : u.Costed v) (b : v.Costed w) : u.Costed w := ⟨a.panel.trans b.panel, b.budget ∘ a.budget⟩

theorem foldl {α : Type} (f : LaneSide → α → LaneSide) (h : ∀ (v : LaneSide) (a : α), v.Costed (f v a)) (xs : List α)
    (v : LaneSide) : v.Costed (xs.foldl f v) :=
  List.foldlRecOn (motive := v.Costed) xs f (refl v) fun w hw a _ => hw.trans (h w a)

theorem onPanel (v : LaneSide) {f : Panel → Panel} (h : v.panel.Reports (f v.panel)) : v.Costed (v.onPanel f) := ⟨h, id⟩

theorem queue (v : LaneSide) (q : List LaneId) : v.Costed { v with front := { v.front with admission := q } } := ⟨.refl, id⟩

/-- A lane may cost as much more as there are free taps. -/
theorem put (v : LaneSide) (l : LaneId) {x : Lane} (fits : x.cost ≤ (v.lane l).cost + v.front.freeTaps) : v.Costed (v.put l x) := by
  refine ⟨.refl, fun within => ?_⟩
  have taps := v.put_tapsInUse l x
  unfold Front.freeTaps Config.tapBudget at fits
  omega

/-- A converter changed in anything but its grant. -/
theorem modConv (v : LaneSide) (l : LaneId) {f : Converter → Converter} (granted : (f (v.lane l).conv).granted = (v.lane l).conv.granted) :
    v.Costed (v.modConv l f) :=
  put v l ((Lane.cost_congr (x := v.lane l) (y := { v.lane l with conv := f (v.lane l).conv }) rfl granted rfl).trans_le
    (Nat.le_add_right _ _))

/-- A grant for which there are free taps. -/
theorem regrant (v : LaneSide) (l : LaneId) {m : ConvMode} (fits : m.cost * (v.lane l).channels ≤ v.front.freeTaps) :
    v.Costed (v.regrant l m) :=
  put v l ((((v.lane l).regranted_cost_le m).trans fits).trans (Nat.le_add_left _ _))

theorem noticeLane (v : LaneSide) (l : LaneId) (left : LaneState) : v.Costed (v.noticeLane l left) := onPanel v (.offer _ _)

theorem enterRunning (v : LaneSide) (l : LaneId) {m : ConvMode} (fits : m.cost * (v.lane l).channels ≤ v.front.freeTaps) :
    v.Costed (v.enterRunning l m) := by
  have cost : ((v.lane l).running m).cost ≤ m.cost * (v.lane l).channels := Lane.cost_le_granted _
  have entered : v.Costed (v.put l ((v.lane l).running m)) := put v l ((cost.trans fits).trans (Nat.le_add_left _ _))
  exact (entered.trans (noticeLane _ l _)).trans (onPanel _ (.clear _ (by simp)))

theorem grant (v : LaneSide) (l : LaneId) {m : ConvMode} (fits : m.cost * (v.lane l).channels ≤ v.front.freeTaps) :
    v.Costed (v.grant l m) := by
  unfold LaneSide.grant
  split
  · exact enterRunning v l fits
  · exact regrant v l fits

theorem downgrade (need : Nat) (ds : List LaneId) (v : LaneSide) : v.Costed (v.downgrade need ds) := by
  induction ds generalizing v with
  | nil => exact refl v
  | cons d ds ih =>
    unfold LaneSide.downgrade
    split
    · exact refl v
    · split
      · next full =>
        refine .trans ?_ (ih _)
        refine put v d (((v.lane d).regranted_cost_le .short).trans ?_)
        rw [Lane.cost, if_pos full.1, full.2]
        exact (Nat.mul_le_mul_right _ (by decide)).trans (Nat.le_add_right _ _)
      · exact ih v

theorem waitForBudget (v : LaneSide) (l : LaneId) : v.Costed (v.waitForBudget l) := by
  unfold LaneSide.waitForBudget
  split
  · exact (modConv v l (f := fun c => { c with forced := true }) rfl).trans (queue _ _)
  · exact queue v _

theorem ask (v : LaneSide) (l : LaneId) : v.Costed (v.ask l) := by
  unfold LaneSide.ask
  dsimp only
  split
  · next fits => exact grant v l (modeFor_fits fits)
  · have downgraded := downgrade (ConvMode.short.cost * (v.lane l).channels) allLanes.reverse v
    have channels : ((v.downgrade (ConvMode.short.cost * (v.lane l).channels) allLanes.reverse).lane l).channels = (v.lane l).channels :=
      congrArg (fun a : BitVec 8 => onesBelow a.toNat 8) ((LaneSide.EngineOnly.downgrade _ _ v).active l)
    split
    · next fits => exact downgraded.trans (grant _ l (by rwa [channels]))
    · exact downgraded.trans (waitForBudget _ l)

end LaneSide.Costed

/-! ## No lane waits -/

/-- The lane neither waits for its first grant nor is in forced bypass. -/
def Lane.Served (x : Lane) : Prop := x.state ≠ .waitingBudget ∧ x.conv.forced = false

/-- No lane waits for budget, this one perhaps excepted. -/
def LaneSide.OthersServed (l : LaneId) (v : LaneSide) : Prop := v.front.admission = [] ∧ ∀ m, m ≠ l → (v.lane m).Served

/-- No lane waits for budget. -/
def LaneSide.AllServed (v : LaneSide) : Prop := v.front.admission = [] ∧ ∀ m, (v.lane m).Served

theorem LaneSide.AllServed.others {v : LaneSide} (h : v.AllServed) (l : LaneId) : v.OthersServed l := ⟨h.1, fun m _ => h.2 m⟩

theorem LaneSide.OthersServed.put {v : LaneSide} {l : LaneId} (h : v.OthersServed l) {x : Lane} (served : x.Served) :
    (v.put l x).AllServed := by
  refine ⟨h.1, fun m => ?_⟩
  by_cases e : m = l
  · subst e; rwa [LaneSide.put_lane_self]
  · rw [LaneSide.put_lane_other _ _ e]; exact h.2 m e

theorem Lane.Regranted.served {x y : Lane} (h : x.Regranted y) (hx : x.Served) : y.Served := by
  unfold Lane.Served
  rw [h]
  exact hx

theorem LaneSide.Regranted.allServed {v w : LaneSide} (h : v.Regranted w) (hv : v.AllServed) : w.AllServed :=
  ⟨h.admission.trans hv.1, fun m => (h.lane m).served (hv.2 m)⟩

/-- An ask of the one lane that waits is granted, so that none does. -/
theorem LaneSide.OthersServed.ask {v : LaneSide} {l : LaneId} (h : v.OthersServed l) (waiting : (v.lane l).state = .waitingBudget) :
    (v.ask l).AllServed := by
  obtain ⟨u, ask, others, kept, admission, -⟩ := LaneSide.ask_eq (v := v) (l := l) (Lane.cost_idle (by rw [waiting]; decide))
  have before : u.OthersServed l := ⟨admission.trans h.1, fun m e => (others m).regranted.served (h.2 m e)⟩
  rw [ask, LaneSide.grant, kept, if_pos waiting]
  exact before.put (x := (u.lane l).running _) ⟨by simp [Lane.running], rfl⟩

/-! ## Every operation on the lanes -/

/-- From the first view to the second the panel takes reports, the tap costs stay within the budget, and no lane comes to wait. -/
structure LaneSide.Budgeted (v w : LaneSide) : Prop extends v.Costed w where
  served : v.AllServed → w.AllServed

/-- The lanes whose gates and converters have advanced, before any fill is judged. -/
def LaneSide.produced (v : LaneSide) : LaneSide := { v with front := { v.front with lanes := v.front.lanes.map Lane.boundary } }

theorem LaneSide.produced_lane (v : LaneSide) (l : LaneId) : v.produced.lane l = (v.lane l).boundary := by
  simp [LaneSide.produced, LaneSide.lane]

theorem LaneSide.boundary_eq (v : LaneSide) : v.boundary = allLanes.foldl LaneSide.fillMoved v.produced := rfl

namespace LaneSide.Budgeted

theorem refl (v : LaneSide) : v.Budgeted v := ⟨.refl v, id⟩

theorem trans {u v w : LaneSide} (a : u.Budgeted v) (b : v.Budgeted w) : u.Budgeted w :=
  ⟨a.toCosted.trans b.toCosted, b.served ∘ a.served⟩

theorem foldl {α : Type} (f : LaneSide → α → LaneSide) (h : ∀ (v : LaneSide) (a : α), v.Budgeted (f v a)) (xs : List α)
    (v : LaneSide) : v.Budgeted (xs.foldl f v) :=
  List.foldlRecOn (motive := v.Budgeted) xs f (refl v) fun w hw a _ => hw.trans (h w a)

theorem onPanel (v : LaneSide) {f : Panel → Panel} (h : v.panel.Reports (f v.panel)) : v.Budgeted (v.onPanel f) := ⟨.onPanel v h, id⟩

/-- A record that costs no more than there is room for, and does not wait unless the one before did. -/
theorem put (v : LaneSide) (l : LaneId) {x : Lane} (fits : x.cost ≤ (v.lane l).cost + v.front.freeTaps)
    (served : (v.lane l).Served → x.Served) : v.Budgeted (v.put l x) :=
  ⟨.put v l fits, fun h => (h.others l).put (served (h.2 l))⟩

/-- A record that changes neither its state, its grant, its channels nor its forced flag. -/
theorem modLane (v : LaneSide) (l : LaneId) {f : Lane → Lane} (state : (f (v.lane l)).state = (v.lane l).state)
    (granted : (f (v.lane l)).conv.granted = (v.lane l).conv.granted) (active : (f (v.lane l)).active = (v.lane l).active)
    (forced : (f (v.lane l)).conv.forced = (v.lane l).conv.forced) : v.Budgeted (v.modLane l f) :=
  put v l ((Lane.cost_congr state granted active).trans_le (Nat.le_add_right _ _)) fun h => ⟨state ▸ h.1, forced ▸ h.2⟩

theorem modConv (v : LaneSide) (l : LaneId) {f : Converter → Converter} (granted : (f (v.lane l).conv).granted = (v.lane l).conv.granted)
    (forced : (f (v.lane l).conv).forced = (v.lane l).conv.forced) : v.Budgeted (v.modConv l f) :=
  modLane v l rfl granted rfl forced

/-- A lane enters a state in which it neither runs nor waits (R13). -/
theorem move (v : LaneSide) (l : LaneId) {f : Lane → Lane} (running : (f (v.lane l)).state ≠ .running)
    (waiting : (f (v.lane l)).state ≠ .waitingBudget) (forced : (f (v.lane l)).conv.forced = (v.lane l).conv.forced) :
    v.Budgeted (v.move l f) := by
  have entered : v.Budgeted (v.put l (f (v.lane l))) :=
    put v l ((Lane.cost_idle running).trans_le (Nat.zero_le _)) fun h => ⟨waiting, forced ▸ h.2⟩
  exact entered.trans ⟨.noticeLane _ l _, id⟩

/-! ## The arbiter (R36, R37, R42) -/

theorem leaveQueue (v : LaneSide) (l : LaneId) : v.Budgeted (v.leaveQueue l) :=
  ⟨.queue v _, fun h => ⟨by simp [LaneSide.leaveQueue, h.1], h.2⟩⟩

theorem regrant (v : LaneSide) (l : LaneId) {m : ConvMode} (fits : m.cost * (v.lane l).channels ≤ v.front.freeTaps) :
    v.Budgeted (v.regrant l m) := ⟨.regrant v l fits, (LaneSide.Regranted.regrant v l m).allServed⟩

theorem enterRunning (v : LaneSide) (l : LaneId) {m : ConvMode} (fits : m.cost * (v.lane l).channels ≤ v.front.freeTaps) :
    v.Budgeted (v.enterRunning l m) :=
  ⟨.enterRunning v l fits, fun h => (h.others l).put (x := (v.lane l).running m) ⟨by simp [Lane.running], rfl⟩⟩

/-- A lane in forced bypass is no longer so. -/
theorem unforce (v : LaneSide) (l : LaneId) : v.Budgeted (v.modConv l fun c => { c with forced := false }) :=
  put v l (Nat.le_add_right _ _) fun h => ⟨h.1, rfl⟩

theorem serve (v : LaneSide) (l : LaneId) : v.Budgeted (v.serve l) := by
  unfold LaneSide.serve
  dsimp only
  split
  · exact refl v
  · next m fits =>
    have room : m.cost * (v.lane l).channels ≤ v.front.freeTaps := modeFor_fits fits
    split
    · exact (leaveQueue v l).trans (enterRunning _ l room)
    · refine ((leaveQueue v l).trans (unforce _ l)).trans (regrant _ l ?_)
      have taps : ((v.leaveQueue l).modConv l fun c => { c with forced := false }).front.freeTaps = (v.leaveQueue l).front.freeTaps :=
        LaneSide.freeTaps_put (Lane.cost_congr rfl rfl rfl)
      rw [taps, LaneSide.modConv_lane_self]
      exact room

theorem upgrade (v : LaneSide) (l : LaneId) : v.Budgeted (v.upgrade l) := by
  refine ⟨?_, (LaneSide.Regranted.upgrade v l).allServed⟩
  unfold LaneSide.upgrade
  dsimp only
  split
  · next short =>
    obtain ⟨running, granted, -, room⟩ := short
    refine .put v l (((v.lane l).regranted_cost_le .full).trans ?_)
    rw [Lane.cost, if_pos running, granted]
    simp only [ConvMode.cost] at room ⊢
    omega
  · exact .refl v

theorem upgradePass (v : LaneSide) : v.Budgeted v.upgradePass := foldl _ upgrade _ v

theorem release (v : LaneSide) : v.Budgeted v.release := (foldl _ serve _ v).trans (upgradePass _)

/-- A grant that takes no taps, and what it gives back to the others. -/
theorem regrant_release (v : LaneSide) (l : LaneId) {m : ConvMode} (fits : ((v.lane l).regranted m).cost ≤ (v.lane l).cost) :
    v.Budgeted (v.regrant l m).release :=
  .trans ⟨.put v l (fits.trans (Nat.le_add_right _ _)), (LaneSide.Regranted.regrant v l m).allServed⟩ (release _)

theorem quit (v : LaneSide) (l : LaneId) (was : Lane) : v.Budgeted (v.quit l was) := by
  have stopped : v.Budgeted (((v.modConv l Converter.cleared).onPanel (Panel.clear (.slip l))).leaveQueue l) := by
    have none : ({ v.lane l with conv := (v.lane l).conv.cleared } : Lane).cost = 0 := by
      simp [Lane.cost, Converter.cleared, ConvMode.cost]
    have cleared : v.Budgeted (v.modConv l Converter.cleared) := put v l (none.trans_le (Nat.zero_le _)) fun h => ⟨h.1, rfl⟩
    exact (cleared.trans (onPanel _ (.clear _ (by simp)))).trans (leaveQueue _ l)
  unfold LaneSide.quit LaneSide.leaveEngine
  split
  · dsimp only
    split
    · exact stopped.trans (release _)
    · exact stopped
  · exact leaveQueue v l
  · exact refl v

/-- A lane leaves bypass only while it is in bypass by choice, at no cost (R34). -/
theorem leaveBypass (v : LaneSide) {l : LaneId} (exits : (v.lane l).judgesExit = true) : v.Budgeted (v.leaveBypass l) := by
  obtain ⟨running, bypass, -⟩ := (Lane.judgesExit_iff _).1 exits
  obtain ⟨-, -, -, regranted⟩ := LaneSide.ask_running (v := v) running (by simp [Lane.cost, bypass, ConvMode.cost])
  exact ⟨.ask v l, regranted.allServed⟩

theorem fillMoved (v : LaneSide) (l : LaneId) : v.Budgeted (v.fillMoved l) := by
  by_cases running : (v.lane l).state = .running
  · have judged : v.Budgeted (v.put l (v.lane l).slipJudged) := by
      rw [Lane.slipJudged_eq]
      exact modLane v l rfl rfl rfl rfl
    rw [LaneSide.fillMoved_eq running]
    split
    · next leaves =>
      refine judged.trans (leaveBypass _ ?_)
      obtain ⟨⟨bypass, free⟩, -⟩ := by simpa [Lane.fillLeaves] using leaves
      rw [Lane.judgesExit_iff, LaneSide.put_lane_self, Lane.slipJudged_eq]
      exact ⟨running, bypass, free⟩
    · exact judged
  · rw [LaneSide.fillMoved_idle running]
    exact refl v

/-! ## Changes of state (R8 to R14, R18) -/

theorem fallSilent (v : LaneSide) (l : LaneId) : v.Budgeted (v.fallSilent l) := by
  have moved := move v l (f := Lane.toAbsent) (by simp [Lane.toAbsent]) (by simp [Lane.toAbsent]) rfl
  unfold LaneSide.fallSilent
  dsimp only
  split
  · exact moved.trans (onPanel _ (.clear _ (by simp)))
  · exact moved

theorem lose (v : LaneSide) (l : LaneId) : v.Budgeted (v.lose l) := by
  unfold LaneSide.lose
  dsimp only
  refine (move v l (f := Lane.toAbsent) (by simp [Lane.toAbsent]) (by simp [Lane.toAbsent]) rfl).trans (.trans ?_ (quit _ l _))
  split
  · exact onPanel _ (.raise _ (by simp))
  · exact refl _

/-- LANE_LOST and LANE_REJECTED of a lane are cleared. -/
theorem clearLane (v : LaneSide) (l : LaneId) : v.Budgeted (v.onPanel fun p => (p.clear (.laneLost l)).clear (.laneRejected l)) :=
  onPanel v ((Panel.Reports.clear _ (by simp)).tail (.clear _ _ (by simp)))

theorem disable (v : LaneSide) (l : LaneId) : v.Budgeted (v.disable l) :=
  ((move v l (f := Lane.toDisabled) (by simp [Lane.toDisabled]) (by simp [Lane.toDisabled]) rfl).trans (clearLane _ l)).trans
    (quit _ l (v.lane l))

theorem enable (v : LaneSide) (l : LaneId) : v.Budgeted (v.enable l) :=
  move v l (by simp [Lane.toAbsent, Lane.timed]) (by simp [Lane.toAbsent, Lane.timed]) rfl

theorem reset (v : LaneSide) (l : LaneId) : v.Budgeted (v.reset l) :=
  ((move v l (f := Lane.toAbsent) (by simp [Lane.toAbsent]) (by simp [Lane.toAbsent]) rfl).trans (quit _ l (v.lane l))).trans
    (clearLane _ l)

/-! ## Activity and frames (R2, R3, R8) -/

theorem activity (v : LaneSide) (l : LaneId) : v.Budgeted (v.activity l) := by
  have noted := modLane v l (f := fun x => { x with activity := true }) rfl rfl rfl rfl
  unfold LaneSide.activity
  dsimp only
  split
  · exact noted.trans (move _ l (by simp) (by simp) rfl)
  · exact noted

theorem closeFrame (v : LaneSide) (l : LaneId) (f : LaneFrame) : v.Budgeted (v.closeFrame l f) := by
  have judged : v.Budgeted (v.modLane l (Lane.judgeFrame f)) := by
    have shape (x : Lane) : x.judgeFrame f = { x with validAll := (x.judgeFrame f).validAll, framing := (x.judgeFrame f).framing } := by
      unfold Lane.judgeFrame
      split <;> rfl
    exact modLane v l (by rw [shape]) (by rw [shape]) (by rw [shape]) (by rw [shape])
  unfold LaneSide.closeFrame
  dsimp only
  refine judged.trans ?_
  split
  · split
    · exact move _ l (by simp) (by simp) rfl
    · exact refl _
  · have pushed (g : Frame) (c : Converter) : (c.push g).granted = c.granted ∧ (c.push g).forced = c.forced := by
      unfold Converter.push
      split <;> exact ⟨rfl, rfl⟩
    exact (modLane _ l rfl (pushed _ _).1 rfl (pushed _ _).2).trans (fillMoved _ l)
  · exact refl _

theorem marker (v : LaneSide) (l : LaneId) (f : LaneFrame) : v.Budgeted (v.marker l f) := by
  unfold LaneSide.marker
  dsimp only
  have arrived : v.Budgeted (if 0 < f.bitPeriods then v.activity l else v) := by
    split
    · exact activity v l
    · exact refl v
  generalize (if 0 < f.bitPeriods then v.activity l else v) = u at arrived ⊢
  have counted := arrived.trans (modLane u l (f := fun x => { x with gauge := x.gauge.mark, frameOpen := true }) rfl rfl rfl rfl)
  split
  · exact counted.trans (closeFrame _ l f)
  · exact counted

/-! ## Gate expiry (R5 to R12, R29 to R34) -/

theorem reject (v : LaneSide) (l : LaneId) : v.Budgeted (v.reject l) :=
  (move v l (by simp) (by simp) rfl).trans (onPanel _ (.raise _ (by simp)))

/-- A settling pair leaves the lane to the arbiter, which grants its ask at once (R9, R36). -/
theorem admitLane (v : LaneSide) (l : LaneId) (gate prev : SenseGate) (count : Nat) : v.Budgeted (v.admitLane l gate prev count) := by
  have admitted : v.Costed (v.put l ((v.lane l).admitted gate prev count)) :=
    .put v l ((Lane.cost_idle (by simp [Lane.admitted])).trans_le (Nat.zero_le _))
  have moved : v.Costed (v.move l (Lane.admitted gate prev count)) := admitted.trans (.noticeLane _ l _)
  have waiting : ((v.move l (Lane.admitted gate prev count)).lane l) = (v.lane l).admitted gate prev count := v.put_lane_self l _
  have others (h : v.AllServed) : (v.move l (Lane.admitted gate prev count)).OthersServed l :=
    ⟨h.1, fun m e => (LaneSide.put_lane_other v ((v.lane l).admitted gate prev count) e).symm ▸ h.2 m⟩
  exact ⟨moved.trans (.ask _ l), fun h => (others h).ask (by rw [waiting]; rfl)⟩

theorem judgeSense (v : LaneSide) (l : LaneId) (count : Nat) : v.Budgeted (v.judgeSense l count) := by
  unfold LaneSide.judgeSense
  dsimp only
  refine (modLane v l (f := fun x => { x with senseGates := satSucc 10 x.senseGates }) rfl rfl rfl rfl).trans ?_
  split
  · split
    · exact admitLane _ l _ _ _
    · split
      · exact reject _ l
      · exact modLane _ l rfl rfl rfl rfl
  · split
    · exact reject _ l
    · exact modLane _ l rfl rfl rfl rfl

theorem judgeGate (v : LaneSide) (l : LaneId) (count : Nat) : v.Budgeted (v.judgeGate l count) := by
  unfold LaneSide.judgeGate
  dsimp only
  split
  · exact lose v l
  · split
    · exact judgeSense v l count
    · split
      · exact fallSilent v l
      · exact refl v

theorem enterBypass (v : LaneSide) (l : LaneId) : v.Budgeted (v.enterBypass l) := by
  have free : ((v.lane l).regranted .bypass).cost ≤ (v.lane l).cost :=
    ((v.lane l).regranted_cost_le .bypass).trans (by simp [ConvMode.cost])
  unfold LaneSide.enterBypass
  dsimp only
  split
  · exact regrant_release v l free
  · exact regrant_release v l free
  · split
    · exact (unforce v l).trans (leaveQueue _ l)
    · exact refl v
  · exact refl v

theorem judgeBypass (v : LaneSide) (l : LaneId) (count : Nat) : v.Budgeted (v.judgeBypass l count) := by
  unfold LaneSide.judgeBypass
  dsimp only
  have entry (u : LaneSide) : u.Budgeted (if (u.lane l).eligible = true then u.enterBypass l else u) := by
    split
    · exact enterBypass u l
    · exact refl u
  refine .trans ?_ (entry _)
  split
  · next exits => exact leaveBypass v exits.1
  · exact refl v

theorem gateFigures (v : LaneSide) (l : LaneId) (count : Nat) : v.Budgeted (v.gateFigures l count) := by
  unfold LaneSide.gateFigures
  dsimp only
  have moved := modConv v l (f := Converter.updateRatio count) (by rw [Converter.updateRatio_eq]) (by rw [Converter.updateRatio_eq])
  have judged := moved.trans (judgeBypass _ l count)
  generalize (v.modConv l (Converter.updateRatio count)).judgeBypass l count = u at judged ⊢
  refine (judged.trans (onPanel u (f := Panel.observe (.lane l) ((u.lane l).observed count)) (.observe _ _ _))).trans ?_
  rw [LaneSide.settleSlips_eq]
  refine .trans (modLane _ l (f := Lane.slipsSettled) rfl rfl rfl rfl) (onPanel _ ?_)
  split
  · exact .clear _ (by simp)
  · exact .refl

theorem expireGate (v : LaneSide) (l : LaneId) : v.Budgeted (v.expireGate l) := by
  unfold LaneSide.expireGate
  dsimp only
  split
  · have judged := (modLane v l (f := Lane.endGate) rfl rfl rfl rfl).trans (judgeGate _ l (v.lane l).gauge.count.toNat)
    generalize (v.modLane l Lane.endGate).judgeGate l (v.lane l).gauge.count.toNat = u at judged ⊢
    refine (judged.trans ?_).trans (modLane _ l rfl rfl rfl rfl)
    split
    · exact gateFigures u l _
    · exact refl u
  · exact refl v

/-! ## Lane fades (R30, R39, R40) -/

theorem fadedPoint (v : LaneSide) (l : LaneId) : v.Budgeted (v.fadedPoint l) := by
  rw [LaneSide.fadedPoint_eq]
  split
  · exact (modLane v l (f := fun x => x.faded.slipped (v.panel.wch.isRaised (.slip l))) rfl rfl rfl rfl).trans
      (onPanel _ (f := Panel.raise (.slip l)) (.raise _ (by simp)))
  · exact modLane v l (f := Lane.faded) rfl rfl rfl rfl

theorem completeFade (v : LaneSide) (l : LaneId) : v.Budgeted (v.modConv l Converter.completeFade) := by
  have shape (c : Converter) : c.completeFade.granted = c.granted ∧ c.completeFade.forced = c.forced := by
    unfold Converter.completeFade
    dsimp only
    rw [Converter.askFade_eq]
    split <;> exact ⟨rfl, rfl⟩
  exact modConv v l (shape _).1 (shape _).2

theorem boundary (v : LaneSide) : v.Budgeted v.boundary := by
  have kept (x : Lane) : x.boundary.conv.granted = x.conv.granted ∧ x.boundary.conv.forced = x.conv.forced := by
    unfold Lane.boundary
    dsimp only
    split
    · rw [Converter.boundary_eq]; exact ⟨rfl, rfl⟩
    · exact ⟨rfl, rfl⟩
  have produced : v.Budgeted v.produced := by
    refine ⟨⟨.refl, fun h => le_of_eq_of_le ?_ h⟩, fun h => ⟨h.1, fun m => ?_⟩⟩
    · rw [Front.tapsInUse_eq, Front.tapsInUse_eq]
      exact congrArg List.sum (List.map_congr_left fun m _ =>
        (congrArg Lane.cost (v.produced_lane m)).trans (Lane.cost_congr rfl (kept (v.lane m)).1 rfl))
    · rw [LaneSide.produced_lane]
      exact ⟨(h.2 m).1, (kept _).2.trans (h.2 m).2⟩
  exact produced.trans (foldl _ fillMoved _ _)

/-! ## LANE_SET (R14, R17, R38) -/

theorem preferenceEffect (v : LaneSide) (l : LaneId) (old : LaneSettings) : v.Budgeted (v.preferenceEffect l old) := by
  unfold LaneSide.preferenceEffect LaneSide.preferenceChanged
  dsimp only
  split
  · exact refl v
  · split
    · next running _ full =>
      refine regrant_release v l (((v.lane l).regranted_cost_le .short).trans ?_)
      rw [Lane.cost, if_pos running, full]
      exact Nat.mul_le_mul_right _ (by decide)
    · exact upgradePass v
    · exact refl v

theorem bypassEffect (v : LaneSide) (l : LaneId) (old : LaneSettings) : v.Budgeted (v.bypassEffect l old) := by
  unfold LaneSide.bypassEffect LaneSide.bypassForbidden
  split
  · split
    · next exits => exact leaveBypass v exits
    · exact refl v
  · exact refl v

theorem countingEffect (v : LaneSide) (l : LaneId) (old : LaneSettings) : v.Budgeted (v.countingEffect l old) := by
  unfold LaneSide.countingEffect
  split
  · exact modLane v l rfl rfl rfl rfl
  · exact refl v

theorem enableEffect (v : LaneSide) (l : LaneId) (on : Option Bool) : v.Budgeted (v.enableEffect l on) := by
  unfold LaneSide.enableEffect
  split
  · split
    · exact refl v
    · exact disable v l
  · split
    · exact enable v l
    · exact refl v
  · exact refl v

theorem setLane (v : LaneSide) (l : LaneId) (b : LaneSetBody) : v.Budgeted (v.setLane l b) := by
  rw [LaneSide.setLane_eq]
  have stored : v.Budgeted (v.store l b) := modLane v l rfl rfl rfl rfl
  exact (((stored.trans (preferenceEffect _ l _)).trans (bypassEffect _ l _)).trans (countingEffect _ l _)).trans (enableEffect _ l _)

end LaneSide.Budgeted

end Sys2Proof.Machine

/-! Every command keeps the memories canonical, the reference counts and the link's queues within their bounds, and the lanes within the
tap budget (R21, R22, R35, R36, R175, R176, R180, R182, R184, log 8). -/
namespace Sys2Proof.Machine

/-- What the second state keeps of the first: the memories' form, the ranges of the counts, the link's bounds, the tap budget, and that
no lane waits for it. -/
structure State.KeepsBounds (s t : State) : Prop where
  memories : s.MemoriesCanonical → t.MemoriesCanonical
  counts : s.CountsBounded → t.CountsBounded
  link : s.lnk.Bounded → t.lnk.Bounded
  budget : s.BudgetKept → t.BudgetKept
  served : s.NoLaneWaits → t.NoLaneWaits

namespace State.KeepsBounds

theorem refl (s : State) : s.KeepsBounds s := ⟨id, id, id, id, id⟩

theorem trans {s t u : State} (a : s.KeepsBounds t) (b : t.KeepsBounds u) : s.KeepsBounds u :=
  ⟨b.memories ∘ a.memories, b.counts ∘ a.counts, b.link ∘ a.link, b.budget ∘ a.budget, b.served ∘ a.served⟩

theorem foldl {α : Type} (f : State → α → State) (h : ∀ (s : State) (a : α), s.KeepsBounds (f s a)) (xs : List α) (s : State) :
    s.KeepsBounds (xs.foldl f s) :=
  List.foldlRecOn (motive := s.KeepsBounds) xs f (refl s) fun t ht a _ => ht.trans (h t a)

/-- Work on the link controller alone. -/
theorem onLink (s : State) {f : Lnk → Lnk} (h : s.lnk.Bounded → (f s.lnk).Bounded) : s.KeepsBounds (s.onLink f) := ⟨id, id, h, id, id⟩

theorem onPanel (s : State) {f : Panel → Panel} (h : s.lnk.Bounded → (f s.panel).lnk.Bounded) : s.KeepsBounds (s.onPanel f) :=
  ⟨id, id, h, id, id⟩

theorem onLanes (s : State) {f : LaneSide → LaneSide} (h : s.laneSide.Budgeted (f s.laneSide)) : s.KeepsBounds (s.onLanes f) :=
  ⟨id, id, h.panel.bounded, h.budget, h.served⟩

theorem onProgs (s : State) {f : ProgSide → ProgSide} (h : s.progSide.Served (f s.progSide)) : s.KeepsBounds (s.onProgs f) :=
  ⟨fun canonical => ⟨h.dram canonical.1, canonical.2⟩, id, h.panel.bounded, id, id⟩

theorem modProg (s : State) (p : ProgId) (f : Prog → Prog) : s.KeepsBounds (s.modProg p f) := onProgs s (.modProg _ p f)

/-- The reset values over memories as they were. -/
theorem afterReset (s : State) (rate : Nat) (pending : List Instr) :
    s.KeepsBounds (State.afterReset rate s.dmc.dram s.pfu.mem pending) := by
  refine ⟨fun h => ⟨?_, ?_⟩, fun _ => ?_, fun _ => ?_, fun _ => ?_, fun _ => ⟨rfl, fun l => ?_⟩⟩
  · rw [State.afterReset_dram]; exact h.1
  · rw [State.afterReset_mem]; exact h.2
  · exact State.reset_countsBounded
  · exact ⟨Nat.zero_le _, Nat.zero_le _, Nat.zero_le _, Nat.zero_le _, Nat.zero_le _, Nat.zero_le _, List.nodup_nil⟩
  · exact (State.afterReset_tapsInUse _ _ _ _).trans_le (by decide)
  · rw [State.afterReset_lane]; decide

/-! ## Requests (R177) -/

theorem answerRequest (req : Request) {s : State} {a : Answer} (h : s.KeepsBounds a.2.2) : s.KeepsBounds (answerRequest req a) :=
  h.trans ⟨id, id, fun b => { b with requests := (answerFirst_length _ _).trans_le b.requests }, id, id⟩

/-- A request taken keeps the bounds if its block's answer does. -/
theorem take {s : State} {ofKind : Byte → Bool} {inLoad : Bool} {act : List Byte → State → Answer}
    (h : ∀ body, s.KeepsBounds (act body s).2.2) : s.KeepsBounds (State.takeRequest ofKind inLoad act s) := by
  unfold State.takeRequest
  split
  · exact refl s
  · split
    · split
      · exact answerRequest _ (refl s)
      · exact answerRequest _ (h _)
    · exact refl s

theorem withBody {s : State} {α : Type} {read : List Byte → Option α} {act : α → State → Answer} {body : List Byte}
    (h : ∀ a, s.KeepsBounds (act a s).2.2) : s.KeepsBounds (withBody read act body s).2.2 := by
  unfold Machine.withBody
  split
  · exact refl s
  · exact h _

/-- A request whose body its block reads by a layout. -/
theorem takeBody {s : State} {ofKind : Byte → Bool} {inLoad : Bool} {α : Type} {read : List Byte → Option α} {act : α → State → Answer}
    (h : ∀ a, s.KeepsBounds (act a s).2.2) : s.KeepsBounds (State.takeRequest ofKind inLoad (Machine.withBody read act) s) :=
  take fun _ => withBody h

theorem onProg {s : State} {refuses : ProgState → Option Status} {n : Nat} {act : ProgId → State → Answer}
    (h : ∀ p, s.KeepsBounds (act p s).2.2) : s.KeepsBounds (onProg refuses n act s).2.2 := by
  unfold Machine.onProg
  split
  · exact refl s
  · split
    · exact refl s
    · exact h _

theorem onLane {s : State} {n : Nat} {act : LaneId → State → Answer} (h : ∀ l, s.KeepsBounds (act l s).2.2) :
    s.KeepsBounds (onLane n act s).2.2 := by
  unfold Machine.onLane
  split
  · exact refl s
  · exact h _

theorem laneResetAnswer (s : State) (l : LaneId) : s.KeepsBounds (laneResetAnswer l s).2.2 := by
  unfold Machine.laneResetAnswer
  split
  · exact refl s
  · exact onLanes s (.reset _ l)

theorem progDefineAnswer (s : State) (ms : List MemberBody) (p : ProgId) : s.KeepsBounds (progDefineAnswer ms p s).2.2 := by
  unfold Machine.progDefineAnswer
  split
  · exact refl s
  · exact onProgs s (.define _ p _)

theorem progUndefineAnswer (s : State) (p : ProgId) : s.KeepsBounds (progUndefineAnswer p s).2.2 := by
  refine onProgs s ?_
  split
  · exact .undefineWaiting _ p
  · exact .beginRelease _ p

theorem delaySetAnswer (s : State) (b : DelaySetBody) (p : ProgId) : s.KeepsBounds (delaySetAnswer b p s).2.2 := by
  refine onProgs s (f := fun v => if b.trim.isSome then (v.modDelay p (DelayRec.store b)).newRequest p else v.modDelay p (DelayRec.store b)) ?_
  have stored := ProgSide.Served.modDelay s.progSide p (DelayRec.store b)
  split
  · exact stored.trans (.newRequest _ p)
  · exact stored

theorem videoLatencyAnswer (s : State) (n : Nat) (p : ProgId) : s.KeepsBounds (videoLatencyAnswer n p s).2.2 :=
  onProgs s (f := fun v => (v.modDelay p fun r => { r with video := min Config.maxDelay n }).newRequest p)
    (.trans (.modDelay _ p _) (.newRequest _ p))

theorem creditAnswer (s : State) (n : Nat) : s.KeepsBounds (creditAnswer n s).2.2 :=
  onLink s (f := fun l => ({ l with credit := min creditTop (l.credit + max 1 n) } : Lnk).transmit) fun h =>
    Lnk.Bounded.transmit (l := { s.lnk with credit := _ }) { h with credit := Nat.min_le_left _ _ }

theorem statusAnswer (s : State) (clear : Bool) : s.KeepsBounds (statusAnswer clear s).2.2 := by
  cases clear with
  | false => exact refl s
  | true =>
    refine .trans (t := { s with refu := { s.refu with latch := false } }) ⟨id, id, id, id, id⟩ (onPanel _ fun h => ?_)
    exact Panel.clear_bounded .noticeLoss (v := { s.panel with lnk := { s.lnk with loss := 0 } }) { h with loss := Nat.zero_le _ }

theorem watchSetAnswer (s : State) (b : WatchSetBody) : s.KeepsBounds (watchSetAnswer b s).2.2 := by
  unfold Machine.watchSetAnswer
  split
  · exact refl s
  · next part _ =>
    refine onPanel s fun h => ?_
    have level (v : Panel) : (v.setMajorLevel b.majorLevel).lnk = v.lnk := by
      unfold Panel.setMajorLevel
      split <;> rfl
    unfold Panel.setWatchParts
    dsimp only
    rw [level]
    cases part with
    | none => exact h
    | some part => exact Panel.clear_bounded _ h

theorem watchQueryAnswer (s : State) (n : Nat) : s.KeepsBounds (watchQueryAnswer n s).2.2 := by
  unfold Machine.watchQueryAnswer
  split <;> exact refl s

theorem alarmAckAnswer (s : State) (n : Nat) : s.KeepsBounds (alarmAckAnswer n s).2.2 := by
  unfold Machine.alarmAckAnswer
  split
  · exact refl s
  · split
    · exact refl s
    · exact onPanel s fun h => Panel.acknowledge_bounded _ (v := s.panel) h

theorem monitorSetAnswer (s : State) (b : Option Nat × Option Bool) : s.KeepsBounds (monitorSetAnswer b s).2.2 := by
  have taken (selected : Option (Option ProgId)) : s.KeepsBounds (monitorTaken selected b.2 s).2.2 := ⟨id, id, id, id, id⟩
  unfold Machine.monitorSetAnswer
  split
  · exact taken none
  · exact refl s
  · exact taken _

theorem profileStoreAnswer (s : State) : s.KeepsBounds (profileStoreAnswer () s).2.2 := by
  unfold Machine.profileStoreAnswer
  split
  · exact refl s
  · exact ⟨id, id, id, id, id⟩

/-! ## The line (R175, R176, R178) -/

theorem receive (s : State) (gap : Bool) (bytes : List Byte) : s.KeepsBounds (s.onLink (Lnk.receive gap bytes)) := by
  refine onLink s fun h => ?_
  unfold Lnk.receive
  refine List.foldlRecOn (motive := Lnk.Bounded) _ _ { h with frameErrors := Nat.min_le_left _ _ } fun l hl r _ => ?_
  obtain ⟨requests, busy, errors, credit, loss, notices⟩ := Lnk.join_bounds r hl.requests hl.busy hl.frameErrors
  exact ⟨requests, busy, credit ▸ hl.credit, loss ▸ hl.loss, errors, notices ▸ hl.notices, notices ▸ hl.keys⟩

theorem endFrame (s : State) : s.KeepsBounds (s.onLink Lnk.endFrame) := by
  refine onLink s fun h => ?_
  unfold Lnk.endFrame
  split
  · exact h
  · exact { h with requests := (List.tail_sublist _).length_le.trans h.requests }
  · exact { h with busy := (List.tail_sublist _).length_le.trans h.busy }
  · exact { h with }

theorem restarted (s : State) : s.KeepsBounds s.restarted := by
  unfold State.restarted
  split
  · exact afterReset s _ _
  · exact refl s

/-! ## The reference unit (R21 to R25) -/

theorem changeRef (s : State) (new : RefState) : s.KeepsBounds (s.changeRef new) :=
  .trans (t := { s with refu := { s.refu with state := new, latch := s.refu.latch || new == .holdover } }) ⟨id, id, id, id, id⟩
    (onPanel _ fun h => (Panel.Reports.refChanged _ new s.refu.state _).bounded h)

theorem presenceReached (s : State) : s.KeepsBounds s.presenceReached := by
  unfold State.presenceReached
  split
  · exact changeRef s _
  · exact refl s

theorem silenceReached (s : State) : s.KeepsBounds s.silenceReached := by
  unfold State.silenceReached
  split
  · exact changeRef s _
  · exact refl s

theorem strobe (s : State) (phase : Int) : s.KeepsBounds (s.strobe phase) := by
  have seen : s.KeepsBounds { s with refu := { s.refu with strobeSeen := true } } := ⟨id, id, id, id, id⟩
  unfold State.strobe
  dsimp only
  split
  · exact seen.trans (changeRef _ _)
  · exact seen

/-- The counts of the reference unit stay in their ranges at a boundary. -/
theorem countFrame (s : State) : s.KeepsBounds { s with refu := s.refu.boundary } := by
  refine ⟨id, fun _ => ⟨Nat.mod_lt _ (by decide), ?_, ?_⟩, id, id, id⟩
  · change (if s.refu.strobeSeen then 0 else satSucc 48 s.refu.silence) ≤ 48
    split
    · exact Nat.zero_le _
    · exact satSucc_le _ _
  · unfold Refu.boundary
    dsimp only
    generalize (if s.refu.strobeSeen then 0 else satSucc 48 s.refu.silence) = silence
    split
    · exact satSucc_le _ _
    · exact Nat.zero_le _

/-! ## The boundary -/

theorem laneFadedPoint (s : State) (l : LaneId) : s.KeepsBounds (s.laneFadedPoint l) := by
  unfold State.laneFadedPoint
  split
  · exact (onLanes s (.fadedPoint _ l)).trans ⟨id, id, id, id, id⟩
  · exact refl s

theorem laneFadeEnd (s : State) (l : LaneId) : s.KeepsBounds (s.laneFadeEnd l) := by
  unfold State.laneFadeEnd
  split
  · exact onLanes s (.completeFade _ l)
  · exact refl s

theorem settle (s : State) : s.KeepsBounds s.settle := by
  have counted : s.KeepsBounds s.presenceReached.silenceReached := (presenceReached s).trans (silenceReached _)
  have gates := counted.trans (foldl State.settleGate (fun s l => onLanes s (.expireGate _ l)) allLanes _)
  have fades := gates.trans (foldl State.settleFade (fun s l => (laneFadedPoint s l).trans (laneFadeEnd _ l)) allLanes _)
  unfold State.settle
  dsimp only
  generalize allLanes.foldl State.settleFade _ = u at fades ⊢
  exact fades.trans (onProgs u (.foldl _ ProgSide.Served.settleProg _ _))

theorem frameBoundary (s : State) : s.KeepsBounds s.frameBoundary := by
  have counted := (settle s).trans (countFrame _)
  unfold State.frameBoundary
  dsimp only
  generalize ({ s.settle with refu := s.settle.refu.boundary } : State) = u at counted ⊢
  have lanes := counted.trans (onLanes u (.boundary _))
  generalize u.onLanes LaneSide.boundary = u at lanes ⊢
  have progs := lanes.trans (onProgs u (.boundary u.front _))
  generalize u.onProgs (ProgSide.boundary u.front) = u at progs ⊢
  have driven : u.KeepsBounds u.drive := ⟨id, id, id, id, id⟩
  exact (progs.trans driven).trans (onProgs _ (.givePages _))

/-! ## The profile (R188 to R192) -/

theorem applyProg (s : State) (r : ProgRecord) : s.KeepsBounds (s.applyProg r) := by
  unfold State.applyProg
  split
  · next p defs _ _ =>
    exact .trans (t := { s with pfu := { s.pfu with defined := s.pfu.defined + 1 } }) ⟨id, id, id, id, id⟩ (onProgs _ (.define _ p _))
  · exact ⟨id, id, id, id, id⟩

theorem applyLane (s : State) (r : LaneId × LaneRecord) : s.KeepsBounds (s.onLanes (LaneSide.setLane r.1 (r.2.body r.1))) :=
  onLanes s (.setLane _ _ _)

theorem applyWatch (major : Nat) (s : State) (w : WatchId × WatchBody) : s.KeepsBounds (applyWatch major s w) := by
  unfold Machine.applyWatch
  exact watchSetAnswer s _

theorem applyProfile (s : State) (q : Profile) : s.KeepsBounds (s.applyProfile q) := by
  have lanes : s.KeepsBounds (s.applyLanes q.lanes) :=
    foldl (fun s (r : LaneId × LaneRecord) => s.onLanes (LaneSide.setLane r.1 (r.2.body r.1))) applyLane _ s
  have progs := lanes.trans (foldl State.applyProg applyProg q.progs _)
  exact progs.trans (foldl (Machine.applyWatch q.majorLevel) (applyWatch q.majorLevel) _ _)

theorem loadEnd (s : State) : s.KeepsBounds s.loadEnd := by
  unfold State.loadEnd
  split
  · have start : s.KeepsBounds { s with pfu := s.pfu.readStart } := ⟨id, id, id, id, id⟩
    generalize ({ s with pfu := s.pfu.readStart } : State) = u at start ⊢
    have outcome (t : State) (o : LoadOutcome) : t.KeepsBounds (t.setOutcome o) := ⟨id, id, id, id, id⟩
    dsimp only
    split
    · exact (start.trans (applyProfile u _)).trans (outcome _ _)
    · exact ((start.trans (applyProfile u _)).trans (onPanel _ fun h => Panel.raiseEntry_bounded _ h)).trans (outcome _ _)
  · exact refl s

/-- A transfer committed, and whatever else of the profile unit. -/
theorem commit (s : State) (o : StoreOp) {u : Pfu} (h : u.mem = o.commit s.pfu.mem) : s.KeepsBounds { s with pfu := u } :=
  ⟨fun canonical => ⟨canonical.1, h ▸ Memory.writeBytes_wf canonical.2 _ _⟩, id, id, id, id⟩

theorem storeSucceeds (s : State) (o : StoreOp) : s.KeepsBounds (s.storeSucceeds o) := by
  have ended : s.KeepsBounds { s with pfu := { s.pfu with store := none, storeCount := o.storeCount, lastStore := .succeeded } } :=
    ⟨id, id, id, id, id⟩
  exact ended.trans (onPanel _ (f := fun v => (v.clear .profileFault).offer _) fun h =>
    Panel.offer_bounded _ (Panel.clear_bounded .profileFault (v := State.panel _) h))

theorem storeFails (s : State) (o : StoreOp) (whole : Bool) : s.KeepsBounds (s.storeFails o whole) := by
  have stopped : s.KeepsBounds { s with pfu := { s.pfu with
      mem := if whole then o.commit s.pfu.mem else s.pfu.mem, store := none, lastStore := .failed } } := by
    cases whole with
    | true => exact commit s o rfl
    | false => exact ⟨id, id, id, id, id⟩
  exact stopped.trans (onPanel _ (f := fun v => (v.raise .profileFault).offer _) fun h =>
    Panel.offer_bounded _ (Panel.raiseEntry_bounded _ (v := State.panel _) h))

theorem transferAcked (s : State) : s.KeepsBounds s.transferAcked := by
  unfold State.transferAcked
  split
  · exact refl s
  · next o _ =>
    dsimp only
    split
    · exact .trans (commit s o (u := { s.pfu with mem := o.commit s.pfu.mem }) rfl) (storeSucceeds _ o)
    · exact commit s o rfl

theorem ackTimeout (s : State) (whole : Bool) : s.KeepsBounds (s.ackTimeout whole) := by
  unfold State.ackTimeout
  split
  · exact storeFails s _ whole
  · split
    · exact ⟨id, id, id, id, id⟩
    · exact refl s

/-! ## Every command -/

/-- A command carried out keeps the bounds if its effect does. -/
theorem carry {s t : State} {effect : State → State} (he : s.carry effect = .next t) (h : s.KeepsBounds (effect s)) :
    s.KeepsBounds t := by
  cases hp : s.powered with
  | true =>
    rw [State.carry_on hp] at he
    cases he
    exact h.trans ⟨id, id, Lnk.Bounded.transmit, id, id⟩
  | false =>
    rw [State.carry_off hp] at he
    cases he
    exact refl s

theorem carryLink {s t : State} {f : Lnk → Lnk} (he : s.carry (fun s => s.onLink f) = .next t) (h : s.KeepsBounds (s.onLink f)) :
    s.KeepsBounds t := carry he h

theorem carryLanes {s t : State} {f : LaneSide → LaneSide} (he : s.carry (fun s => s.onLanes f) = .next t)
    (h : s.laneSide.Budgeted (f s.laneSide)) : s.KeepsBounds t := carry he (onLanes s h)

theorem carryProgs {s t : State} {f : ProgSide → ProgSide} (he : s.carry (fun s => s.onProgs f) = .next t)
    (h : s.progSide.Served (f s.progSide)) : s.KeepsBounds t := carry he (onProgs s h)

theorem ofExec {c : Instr} {s t : State} (he : exec c s = .next t) : s.KeepsBounds t := by
  cases c with
  | powerOn a b => cases he; exact afterReset s _ _
  | powerLoss => cases he; exact (afterReset s s.lnk.lineRate s.pending).trans ⟨id, id, id, id, id⟩
  | restart => exact carry he (takeBody fun _ => ⟨id, id, fun h => { h with }, id, id⟩)
  | restartTakesEffect => exact carry he (restarted s)
  | frameReceived bytes => exact carryLink he (receive s _ _)
  | lengthFieldExceeds1024 bytes => exact carryLink he (receive s _ _)
  | interByteTimeout => exact carryLink he (receive s _ _)
  | characterError => exact carryLink he (receive s _ _)
  | txFrameEnd => exact carryLink he (endFrame s)
  | unknownKindRequest => exact carry he (take fun _ => refl s)
  | status => exact carry he (takeBody (statusAnswer s))
  | credit => exact carry he (takeBody (creditAnswer s))
  | laneQuery => exact carry he (takeBody fun _ => onLane fun _ => refl s)
  | laneSet => exact carry he (takeBody fun b => onLane fun l => onLanes s (.setLane _ l b))
  | laneReset => exact carry he (takeBody fun _ => onLane (laneResetAnswer s))
  | progDefine => exact carry he (takeBody fun b => onProg (progDefineAnswer s b.2))
  | progUndefine => exact carry he (takeBody fun _ => onProg (progUndefineAnswer s))
  | progQuery => exact carry he (takeBody fun _ => onProg fun _ => refl s)
  | progReset => exact carry he (takeBody fun _ => onProg fun p => modProg s p _)
  | delaySet => exact carry he (takeBody fun b => onProg (delaySetAnswer s b))
  | videoLatency => exact carry he (takeBody fun b => onProg (videoLatencyAnswer s b.2))
  | loudSet => exact carry he (takeBody fun _ => onProg fun p => modProg s p _)
  | loudPause => exact carry he (takeBody fun _ => onProg fun p => modProg s p _)
  | loudResume => exact carry he (takeBody fun _ => onProg fun p => modProg s p _)
  | loudQuery => exact carry he (takeBody fun _ => onProg fun _ => refl s)
  | reportSet => exact carry he (takeBody fun _ => onProg fun p => modProg s p _)
  | watchSet => exact carry he (takeBody (watchSetAnswer s))
  | watchQuery => exact carry he (takeBody (watchQueryAnswer s))
  | alarmList => exact carry he (takeBody fun _ => refl s)
  | alarmAck => exact carry he (takeBody (alarmAckAnswer s))
  | freeze => exact carry he (takeBody fun _ => ⟨id, id, id, id, id⟩)
  | monitorSet => exact carry he (takeBody (monitorSetAnswer s))
  | profileStore => exact carry he (takeBody fun _ => profileStoreAnswer s)
  | profileInfo => exact carry he (takeBody fun _ => refl s)
  | outputFrameBoundary => exact carry he (frameBoundary s)
  | gainRampComplete p => exact carryProgs he (.modProg _ p _)
  | refStrobe phase => exact carry he (strobe s phase)
  | presenceCountReached => exact carry he (presenceReached s)
  | silenceCountReached => exact carry he (silenceReached s)
  | laneActivity l => exact carryLanes he (.activity _ l)
  | laneFrameClosed l f => exact carryLanes he (.marker _ l f)
  | gateExpiry l => exact carryLanes he (.expireGate _ l)
  | laneFadeFadedPoint l => exact carry he (laneFadedPoint s l)
  | laneFadeComplete l => exact carry he (laneFadeEnd s l)
  | glideComplete p => exact carryProgs he (.glideEnd _ p)
  | jumpFadedPoint p => exact carryProgs he (.jumpFaded _ p)
  | fillingEnd p => exact carryProgs he (.fillEnd _ p)
  | fadeInComplete p => exact carryProgs he (.fadeInEnd _ p)
  | releaseFadeComplete p => exact carryProgs he (.releaseEnd _ p)
  | subBlockComplete p => exact carryProgs he (.completeSubBlock _ p)
  | profileLoadEnd => exact carry he (loadEnd s)
  | profileTransferAck => exact carry he (transferAcked s)
  | profileAckTimeout whole => exact carry he (ackTimeout s whole)

end State.KeepsBounds

theorem step_keepsBounds {s t : State} (h : step s = .next t) : s.KeepsBounds t := by
  unfold step at h
  split at h
  · cases h; exact .refl s
  · next c rest _ => exact .trans (t := s.withPending rest) ⟨id, id, id, id, id⟩ (.ofExec h)

/-- Settles O52: the memories are written through their own operations, the reference counts saturate or wrap, and every block reaches
the link's queues through reports, each of which keeps their bounds. -/
theorem stepKeepsMemoriesCountsAndQueuesBounded : Obligations.StepKeepsMemoriesCountsAndQueuesBounded := by
  intro s t h
  have kept := step_keepsBounds h
  exact ⟨kept.memories, kept.counts, fun bounded => t.linkBounded_iff.2 (kept.link (s.linkBounded_iff.1 bounded))⟩

/-- Settles O54: a grant is made where the free taps allow it, and an ask finds room for SHORT once no other lane is on FULL. -/
theorem stepKeepsTheTapBudgetAndNoLaneWaits : Obligations.StepKeepsTheTapBudgetAndNoLaneWaits := fun _ _ h =>
  ⟨(step_keepsBounds h).budget, (step_keepsBounds h).served⟩

end Sys2Proof.Machine

/-! The completions that only end what they complete: a lane fade, a glide, a filling and a gain ramp (R40, R92, R96, R101, R140). -/
namespace Sys2Proof.Machine

/-- The end of a lane fade, where a change of mode or a slip waits or not (R40). -/
theorem Converter.completeFade_eq (c : Converter) : c.completeFade =
    if c.granted ≠ c.effective ∨ c.slipWanted = true then { c with fade := .fadeOut, fadePos := 480 }
    else { c with fade := .none, fadePos := 0 } := rfl

/-- A running lane's fade that is complete ends. -/
theorem exec_laneFadeComplete {s : State} {l : LaneId} (on : s.powered = true) (running : (s.lane l).state = .running)
    (fade : (s.lane l).conv.fade = .fadeIn) (pos : 480 ≤ (s.lane l).conv.fadePos) :
    exec (.laneFadeComplete l) s
      = .next (s.setLane l { s.lane l with conv := (s.lane l).conv.completeFade }).transmit := by
  have due : (s.lane l).fadeEndDue = true := by simp [Lane.fadeEndDue, running, fade, Config.fadeFrames, pos]
  refine (s.carry_on on (State.laneFadeEnd l)).trans ?_
  rw [State.laneFadeEnd, if_pos due, State.onLanes_setLane (s.laneSide.modConv_eq_put l _)]
  rfl

/-- A command that works on the programmes, whose work ends in this view. -/
theorem State.carry_onProgs {s : State} (on : s.powered = true) {f : ProgSide → ProgSide} {v : ProgSide} (h : f s.progSide = v) :
    s.carry (fun s => s.onProgs f)
      = .next { s with progs := v.progs, dmc := v.dmc, wch := v.panel.wch, lnk := v.panel.lnk }.transmit := by
  rw [State.carry_on on, ← h]
  rfl

/-- The end of a glide: the programme is STEADY, and its DONE notice is offered (R92, R101). -/
theorem ProgSide.completeGlide_eq (v : ProgSide) (p : ProgId) :
    let r := (v.prog p).delay
    v.completeGlide p = (v.modDelay p fun r => { r with change := .steady }).onPanel
      (Panel.offer (.doneDelay p (r.current / 64) r.requested r.funded (r.requested - r.funded) .glide v.panel.now)) := by
  simp only [ProgSide.completeGlide, ProgSide.noticeDone, ProgSide.modDelay_prog_self, DelayRec.whole]
  rfl

/-- Settles O26: each completion is due, and is its own change of the lane or programme. -/
theorem completionsEndWhatTheyComplete : Obligations.CompletionsEndWhatTheyComplete := by
  refine ⟨fun s l on running fade pos => ⟨fun ⟨granted, slip⟩ => ?_, fun waits => ?_⟩, fun s p on running gliding arrived => ?_,
    fun s p on running filling empty => ?_, fun s p on ramping pos => ?_⟩
  · rw [exec_laneFadeComplete on running fade pos, Converter.completeFade_eq, if_neg (by simp [granted, slip])]
  · rw [exec_laneFadeComplete on running fade pos, Converter.completeFade_eq, if_pos waits]
  · have due : (s.prog p).glideDue = true := by simp [Prog.glideDue, running, gliding, DelayRec.arrived, arrived]
    exact State.carry_onProgs on (f := ProgSide.glideEnd p) ((if_pos due).trans (s.progSide.completeGlide_eq p))
  · have due : (s.prog p).fillDue = true := by simp [Prog.fillDue, running, filling, empty]
    exact State.carry_onProgs on (f := ProgSide.fillEnd p) (if_pos due)
  · have due : (s.prog p).gain.rampDue = true := by simp [GainRec.rampDue, ramping, Config.fadeFrames, pos]
    refine (s.carry_on on fun s => s.modProg p fun x => { x with gain := x.gain.endRamp }).trans ?_
    rw [State.modProg_eq_setProg, GainRec.endRamp, if_pos due]

end Sys2Proof.Machine

/-! The changes of reference state (R22 to R25). -/
namespace Sys2Proof.Machine

/-- A change of reference state hands on the notice and then the observation. -/
def Panel.refNoticed (new left : RefState) (latch : Bool) (v : Panel) : Panel :=
  (v.offer (.ref new left latch v.now)).observe .reference new.observed

/-- A change neither into HOLDOVER from LOCKED nor into LOCKED from RELOCK hands on nothing else. -/
theorem Panel.refChanged_plain {new left : RefState} (kept : ¬(new = .holdover ∧ left = .locked))
    (lost : ¬(new = .locked ∧ left = .relock)) (latch : Bool) (v : Panel) :
    v.refChanged new left latch = v.refNoticed new left latch := by
  simp only [Panel.refChanged, if_neg kept, if_neg lost, Panel.refNoticed]

theorem Panel.refChanged_lost (latch : Bool) (v : Panel) :
    v.refChanged .holdover .locked latch = (v.refNoticed .holdover .locked latch).raise .refLost := by
  simp only [Panel.refChanged, if_pos, and_self, Panel.refNoticed]

theorem Panel.refChanged_relocked (latch : Bool) (v : Panel) :
    v.refChanged .locked .relock latch = (v.refNoticed .locked .relock latch).clear .refLost := by
  simp only [Panel.refChanged, reduceCtorEq, and_self, if_false, if_true, Panel.refNoticed]

theorem exec_presenceCountReached {s : State} (on : s.powered = true) (due : s.refu.presenceDue = true) :
    exec .presenceCountReached s = .next (s.changeRef (if s.refu.state = .free then .locked else .relock)).transmit := by
  refine (s.carry_on on State.presenceReached).trans ?_
  rw [State.presenceReached, if_pos due]

theorem exec_silenceCountReached {s : State} (on : s.powered = true) (due : s.refu.silenceDue = true) :
    exec .silenceCountReached s = .next (s.changeRef .holdover).transmit := by
  refine (s.carry_on on State.silenceReached).trans ?_
  rw [State.silenceReached, if_pos due]

/-- Settles O27: each command is due in the states that leave on it, and the change hands on what its states call for. -/
theorem referenceStateChanges : Obligations.ReferenceStateChanges := by
  intro s on code changed after
  have noticed (new : RefState) (latch : Bool) : s.panel.refNoticed new s.refu.state latch = changed new latch :=
    congrArg (Panel.observe .reference · _) (funext fun m => by cases m <;> cases new <;> rfl)
  have entered (new : RefState) (latch strobe : Bool) (v : Panel) (hl : (s.refu.latch || new == .holdover) = latch)
      (hv : s.panel.refChanged new s.refu.state latch = v) :
      (({ s with refu := { s.refu with strobeSeen := strobe } } : State).changeRef new).transmit = after new latch strobe v := by
    subst hl hv
    rfl
  refine ⟨fun free count => ?_, fun holdover count => ?_, fun locked count => ?_, fun relock count => ?_, fun relock => ?_,
    fun phase other => ?_⟩
  · rw [exec_presenceCountReached on (by simp [Refu.presenceDue, free, count]), if_pos free]
    refine congrArg Host.Outcome.next (entered _ _ _ _ (Bool.or_false _) ?_)
    rw [Panel.refChanged_plain (by simp) (by simp [free]), noticed]
  · rw [exec_presenceCountReached on (by simp [Refu.presenceDue, holdover, count]), if_neg (by simp [holdover])]
    refine congrArg Host.Outcome.next (entered _ _ _ _ (Bool.or_false _) ?_)
    rw [Panel.refChanged_plain (by simp) (by simp), noticed]
  · rw [exec_silenceCountReached on (by simp [Refu.silenceDue, locked, count])]
    refine congrArg Host.Outcome.next (entered _ _ _ _ (Bool.or_true _) ?_)
    have lost := Panel.refChanged_lost true s.panel
    rw [← locked, noticed] at lost
    exact lost
  · rw [exec_silenceCountReached on (by simp [Refu.silenceDue, relock, count])]
    refine congrArg Host.Outcome.next (entered _ _ _ _ (Bool.or_true _) ?_)
    rw [Panel.refChanged_plain (by simp [relock]) (by simp), noticed]
  · have due : s.refu.state = .relock ∧ (0 : Int).natAbs < 1 := ⟨relock, by decide⟩
    refine (s.carry_on on (State.strobe 0)).trans ?_
    rw [State.strobe, if_pos due]
    refine congrArg Host.Outcome.next (entered _ _ _ _ (Bool.or_false _) ?_)
    have back := Panel.refChanged_relocked s.refu.latch s.panel
    rw [← relock, noticed] at back
    exact back
  · have kept : ¬(s.refu.state = .relock ∧ phase.natAbs < 1) := fun ⟨relock, small⟩ => other.elim (· relock) (by omega)
    refine (s.carry_on on (State.strobe phase)).trans ?_
    rw [State.strobe, if_neg kept]

end Sys2Proof.Machine

/-! The faded point of a lane fade as a command: the lanes, and the taps on the lane in every programme (R39, R89, log 18). -/
namespace Sys2Proof.Machine

/-- A running lane's fade at its faded point: the lane side's work, and each programme realigned to the lane's new latency. -/
theorem exec_laneFadeFadedPoint {s : State} {l : LaneId} (on : s.powered = true) (running : (s.lane l).state = .running)
    (fade : (s.lane l).conv.fade = .fadeOut) (pos : (s.lane l).conv.fadePos = 0) :
    exec (.laneFadeFadedPoint l) s = .next { s.onLanes (LaneSide.fadedPoint l) with
      progs := s.progs.map (Prog.realign l (s.lane l).latency ((s.onLanes (LaneSide.fadedPoint l)).lane l).latency) }.transmit := by
  have due : (s.lane l).fadedDue = true := by simp [Lane.fadedDue, running, fade, pos]
  refine (s.carry_on on (State.laneFadedPoint l)).trans ?_
  rw [State.laneFadedPoint, if_pos due]
  rfl

theorem Converter.centred_of_long {c : Converter} (h : 128 ≤ c.fifo.length) : c.centred = c.fifo.drop (c.fifo.length - 128) := by
  unfold Converter.centred
  split
  · rfl
  · have exact128 : c.fifo.length = 128 := by omega
    simp [exact128]

theorem Converter.centred_of_short {c : Converter} {f : Frame} {rest : List Frame} (h : c.fifo = f :: rest) (short : c.fifo.length < 128) :
    c.centred = List.replicate (128 - c.fifo.length) f ++ c.fifo := by
  rw [Converter.centred, if_neg (by omega), h, List.headD_cons]

/-- The faded point where a slip is wanted: the lane, the panel and the programmes, and what it leaves alone. -/
theorem exec_laneFadeFadedPoint_slip {s : State} {l : LaneId} (on : s.powered = true) (running : (s.lane l).state = .running)
    (fade : (s.lane l).conv.fade = .fadeOut) (pos : (s.lane l).conv.fadePos = 0) (slip : (s.lane l).conv.slipWanted = true) :
    ∃ t, exec (.laneFadeFadedPoint l) s = .next t ∧ t.lane l = (s.lane l).faded.slipped (s.wch.isRaised (.slip l))
      ∧ t.wch.isRaised (.slip l) = true ∧ t.progs = s.progs.map (Prog.realign l (s.lane l).latency (s.lane l).fadedLatency)
      ∧ t.refu = s.refu ∧ t.dmc = s.dmc ∧ t.pfu = s.pfu ∧ t.out = s.out ∧ ∀ m, m ≠ l → t.lane m = s.lane m := by
  have point : LaneSide.fadedPoint l s.laneSide
      = (s.laneSide.put l ((s.lane l).faded.slipped (s.wch.isRaised (.slip l)))).onPanel (Panel.raise (.slip l)) :=
    (s.laneSide.fadedPoint_eq l).trans (if_pos slip)
  have self := s.setLane_lane_self l ((s.lane l).faded.slipped (s.wch.isRaised (.slip l)))
  rw [exec_laneFadeFadedPoint on running fade pos, State.onLanes_put point]
  exact ⟨_, rfl, self, Panel.raise_isRaised _ _, congrArg (fun x : Lane => s.progs.map (Prog.realign l _ x.latency)) self,
    rfl, rfl, rfl, rfl, fun m other => s.setLane_lane_other _ other⟩

/-- Settles O25: `LaneSide.fadedPoint_eq` says what becomes of the lane, and the programmes are realigned to the latency it gives. -/
theorem laneFadedPointAppliesTheGrant : Obligations.LaneFadedPointAppliesTheGrant := by
  intro s l on running fade pos x latency moved
  have latency_eq : x.fadedLatency = latency := by
    unfold Lane.fadedLatency
    refine if_congr Iff.rfl rfl ?_
    cases x.conv.granted <;> rfl
  have realigned : s.progs.map (Prog.realign l x.latency x.fadedLatency) = s.progs.map moved := by rw [latency_eq]; rfl
  refine ⟨fun noSlip => ?_, fun slip => ?_⟩
  · have point : LaneSide.fadedPoint l s.laneSide = s.laneSide.put l x.faded :=
      (s.laneSide.fadedPoint_eq l).trans (if_neg (ne_true_of_eq_false noSlip))
    rw [exec_laneFadeFadedPoint on running fade pos, State.onLanes_setLane point, State.setLane_lane_self, ← realigned, ← latency_eq]
    rfl
  · obtain ⟨t, step, lane, raised, progs, refu, dmc, pfu, out, others⟩ := exec_laneFadeFadedPoint_slip on running fade pos slip
    refine ⟨t, step, ?_⟩
    rw [lane]
    exact ⟨Converter.centred_length _, Converter.centred_of_long (c := x.conv), fun f rest => Converter.centred_of_short (c := x.conv),
      rfl, rfl, rfl, rfl, rfl, rfl, raised, rfl, rfl, rfl, rfl, rfl, latency_eq, progs.trans realigned, refu, dmc, pfu, out, others⟩

end Sys2Proof.Machine

/-! The boundary judges each lane's fill in its turn, and other lanes' asks can take its FULL grant before or after (R30, R34, R36, log 43). -/
namespace Sys2Proof.Machine

/-- A lane whose fill is judged once, its FULL grant being taken before, after, or not at all. -/
def Lane.Turned (x z : Lane) : Prop := ∃ (y : Lane) (free : Nat), x.Downgraded y ∧ (y.afterFill free).Downgraded z

/-- Another lane's moved fill can only take this one's FULL grant. -/
theorem LaneSide.fillMoved_other (v : LaneSide) {k l : LaneId} (h : l ≠ k) : (v.lane l).Downgraded ((v.fillMoved k).lane l) := by
  by_cases running : (v.lane k).state = .running
  · exact (LaneSide.fillMoved_judged running).others l h
  · rw [LaneSide.fillMoved_idle running]; exact .inl rfl

theorem LaneSide.fills_others (ks : List LaneId) (v : LaneSide) {l : LaneId} (h : l ∉ ks) :
    (v.lane l).Downgraded ((ks.foldl LaneSide.fillMoved v).lane l) := by
  induction ks generalizing v with
  | nil => exact .inl rfl
  | cons k ks ih => exact (v.fillMoved_other (List.ne_of_not_mem_cons h)).trans (ih _ (List.not_mem_of_not_mem_cons h))

/-- All lanes' fills judged: each running lane has had its turn. -/
theorem LaneSide.fills_running (v : LaneSide) {l : LaneId} (running : (v.lane l).state = .running) :
    (v.lane l).Turned ((allLanes.foldl LaneSide.fillMoved v).lane l) := by
  obtain ⟨before, after, split⟩ := List.append_of_mem (mem_allLanes l)
  have once : (before ++ l :: after).Nodup := split ▸ (by decide : allLanes.Nodup)
  have notBefore : l ∉ before := fun h => (List.nodup_append.1 once).2.2 l h l List.mem_cons_self rfl
  have notAfter : l ∉ after := (List.nodup_cons.1 (List.nodup_append.1 once).2.1).1
  rw [split, List.foldl_append, List.foldl_cons]
  have first := LaneSide.fills_others before v notBefore
  generalize before.foldl LaneSide.fillMoved v = u at first ⊢
  have stillRunning : (u.lane l).state = .running := by rw [first.regranted]; exact running
  refine ⟨u.lane l, u.front.freeTaps, first, ?_⟩
  rw [← (LaneSide.fillMoved_judged stillRunning).lane]
  exact LaneSide.fills_others after _ notAfter

/-- A lane that does not run has no turn, and no grant to lose. -/
theorem LaneSide.fills_idle (ks : List LaneId) (v : LaneSide) {l : LaneId} (idle : (v.lane l).state ≠ .running) :
    (ks.foldl LaneSide.fillMoved v).lane l = v.lane l := by
  induction ks generalizing v with
  | nil => rfl
  | cons k ks ih =>
    have same : (v.fillMoved k).lane l = v.lane l := by
      by_cases turn : l = k
      · rw [← turn, LaneSide.fillMoved_idle idle]
      · exact (v.fillMoved_other turn).eq fun h => idle h.1
    rw [List.foldl_cons, ih _ (by rw [same]; exact idle), same]

/-- FULL lost after the turn, before it, or not at all. -/
theorem Lane.Turned.elim {x z : Lane} (h : x.Turned z) : ∃ free, z = x.afterFill free
    ∨ (x.fillGrant free = .full ∧ z = (x.afterFill free).regranted .short)
    ∨ (x.conv.granted = .full ∧ z = (x.regranted .short).afterFill free) := by
  obtain ⟨y, free, before, after⟩ := h
  refine ⟨free, ?_⟩
  rcases before with rfl | ⟨-, full, rfl⟩
  · rcases after with rfl | ⟨-, full, rfl⟩
    · exact .inl rfl
    · exact .inr (.inl ⟨full, rfl⟩)
  · refine .inr (.inr ⟨full, after.eq fun h => ?_⟩)
    have short : ((x.regranted .short).afterFill free).conv.granted = .short := by
      simp [Lane.afterFill, Lane.fillGrant, Lane.fillLeaves, Lane.regranted_granted]
    rw [short] at h
    cases h.2

theorem Lane.fillLeaves_granted {x : Lane} (h : x.fillLeaves = true) : x.conv.granted = .bypass := by
  simp only [Lane.fillLeaves, Bool.and_eq_true, beq_iff_eq] at h
  exact h.1.1

/-- The grant of a lane whose fill takes it out of bypass. -/
theorem Lane.fillGrant_of_leaves {x : Lane} (h : x.fillLeaves = true) (free : Nat) :
    x.fillGrant free = .full ∨ x.fillGrant free = .short := by
  rw [Lane.fillGrant, if_pos h, grantedMode]
  split
  · exact .inl rfl
  · exact .inr rfl

theorem Lane.fillGrant_of_stays {x : Lane} (h : x.fillLeaves = false) (free : Nat) : x.fillGrant free = x.conv.granted :=
  if_neg (ne_true_of_eq_false h)

/-- The mode a turn leaves granted: a lane that leaves bypass has FULL or SHORT, and any other keeps its grant or loses FULL (R34, R36). -/
theorem Lane.Turned.granted {x z : Lane} (h : x.Turned z) :
    (x.fillLeaves = true → z.conv.granted = .full ∨ z.conv.granted = .short)
      ∧ (x.fillLeaves = false → z.conv.granted = x.conv.granted ∨ x.conv.granted = .full ∧ z.conv.granted = .short) := by
  obtain ⟨free, rfl | ⟨full, rfl⟩ | ⟨full, rfl⟩⟩ := h.elim
  · exact ⟨fun leaves => Lane.fillGrant_of_leaves leaves free, fun stays => .inl (Lane.fillGrant_of_stays stays free)⟩
  · rw [Lane.regranted_granted]
    exact ⟨fun _ => .inr rfl, fun stays => .inr ⟨(Lane.fillGrant_of_stays stays free).symm.trans full, rfl⟩⟩
  · have short : ((x.regranted .short).afterFill free).conv.granted = .short := by
      simp [Lane.afterFill, Lane.fillGrant, Lane.fillLeaves, Lane.regranted_granted]
    exact ⟨fun _ => .inr short, fun _ => .inr ⟨full, short⟩⟩

/-- What a turn leaves of the converter: a slip is wanted where the fill calls for one, and a lane fade is asked for by that and by a
change of the grant (R30, R40). -/
theorem Lane.Turned.conv {x z : Lane} (h : x.Turned z) :
    let asks := x.conv.fade = .none ∧ (x.callsSlip = true ∨ z.conv.granted ≠ x.conv.granted)
    z.conv = { x.conv with
      slipWanted := x.conv.slipWanted || x.callsSlip, granted := z.conv.granted,
      fade := if asks then .fadeOut else x.conv.fade, fadePos := if asks then 480 else x.conv.fadePos } := by
  obtain ⟨free, rfl | ⟨full, rfl⟩ | ⟨full, rfl⟩⟩ := h.elim
  · have changes : (x.fillGrant free ≠ x.conv.granted) ↔ x.fillLeaves = true := by
      cases leaves : x.fillLeaves with
      | false => simp [Lane.fillGrant_of_stays leaves]
      | true =>
        rw [Lane.fillLeaves_granted leaves]
        rcases Lane.fillGrant_of_leaves leaves free with e | e <;> simp [e]
    simp only [Lane.afterFill, changes, Bool.and_eq_true, Bool.or_eq_true, beq_iff_eq]
  · have changes : ConvMode.short ≠ x.conv.granted := by
      cases leaves : x.fillLeaves with
      | false => simp [← Lane.fillGrant_of_stays leaves free, full]
      | true => simp [Lane.fillLeaves_granted leaves]
    rw [Lane.regranted_eq]
    by_cases quiet : x.conv.fade = .none
    · cases asks : (x.callsSlip || x.fillLeaves) <;> simp [Lane.afterFill, quiet, changes, asks]
    · simp [Lane.afterFill, quiet]
  · have calls : (x.regranted .short).callsSlip = x.callsSlip := by rw [Lane.regranted_eq]; rfl
    have stays : (x.regranted .short).fillLeaves = false := by simp [Lane.fillLeaves, Lane.regranted_granted]
    simp only [Lane.afterFill, Lane.fillGrant_of_stays stays, stays, calls]
    simp only [Lane.regranted_eq]
    by_cases quiet : x.conv.fade = .none <;> simp [quiet, full]

/-! ## The boundary -/

theorem LaneSide.boundary_lane_running {v : LaneSide} {l : LaneId} (running : (v.lane l).state = .running) :
    (v.lane l).boundary.Turned (v.boundary.lane l) := by
  rw [LaneSide.boundary_eq, ← LaneSide.produced_lane]
  exact LaneSide.fills_running v.produced (by rw [LaneSide.produced_lane]; exact running)

theorem LaneSide.boundary_lane_idle {v : LaneSide} {l : LaneId} (idle : (v.lane l).state ≠ .running) :
    v.boundary.lane l = (v.lane l).boundary := by
  rw [LaneSide.boundary_eq, ← LaneSide.produced_lane]
  exact LaneSide.fills_idle allLanes v.produced (by rw [LaneSide.produced_lane]; exact idle)

theorem Lane.boundary_conv_running {x : Lane} (h : x.state = .running) : x.boundary.conv = x.conv.boundary := if_pos h

theorem Lane.boundary_conv_idle {x : Lane} (h : x.state ≠ .running) : x.boundary.conv = x.conv := if_neg h

/-- With nothing outstanding, a boundary does to the lanes what the lane side's boundary does. -/
theorem exec_outputFrameBoundary_lanes {s : State} (on : s.powered = true) (quiet : s.NothingOutstanding) :
    ∃ (t : State) (v : LaneSide), exec .outputFrameBoundary s = .next t ∧ ∀ l, v.lane l = s.lane l ∧ t.lane l = v.boundary.lane l := by
  refine ⟨(s.advanced.drive.onProgs ProgSide.givePages).transmit, State.laneSide { s with refu := s.refu.boundary }, ?_,
    fun l => ⟨rfl, ?_⟩⟩
  · rw [exec, execOutputFrameBoundary, State.carry_on on, State.frameBoundary_eq quiet]
  · rw [State.transmit_lane, State.onProgs_lane, State.drive_lane, State.advanced, State.onProgs_lane, State.lanesAdvanced,
      State.onLanes_lane]

/-! ## What a boundary leaves of a running lane's converter -/

/-- Whether a lane fade is asked for at a boundary that leaves the second record of the first: none is in flight, and a slip is called
for or the grant has changed (R40). -/
def Lane.FadeAsked (x z : Lane) : Prop := x.conv.fade = .none ∧ (x.boundary.callsSlip = true ∨ z.conv.granted ≠ x.conv.granted)

/-- What a boundary leaves of a running lane's converter: its frames taken and its fade moved, and what its turn asks for. -/
structure Lane.Advanced (x z : Lane) : Prop where
  fifo : z.conv.fifo = x.conv.fifo.drop (x.conv.taken x.conv.takingMode)
  phase : z.conv.phase = if x.conv.takingMode = .full ∨ x.conv.takingMode = .short then (x.conv.phase + x.conv.ratio) % 2 ^ 24
    else x.conv.phase
  produced : z.conv.produced = x.conv.boundary.produced
  output : z.conv.output = x.conv.boundary.output
  rest : z.conv = { x.conv with
    fifo := z.conv.fifo, phase := z.conv.phase, produced := z.conv.produced, past := z.conv.past, output := z.conv.output,
    slipWanted := z.conv.slipWanted, granted := z.conv.granted, fade := z.conv.fade, fadePos := z.conv.fadePos }
  slipWanted : z.conv.slipWanted = (x.conv.slipWanted || x.boundary.callsSlip)
  asked : x.FadeAsked z → z.conv.fade = .fadeOut ∧ z.conv.fadePos = 480
  moved : ¬x.FadeAsked z → z.conv.fade = x.conv.fade ∧ z.conv.fadePos = x.conv.nextPos
  left : x.boundary.fillLeaves = true → z.conv.granted = .full ∨ z.conv.granted = .short
  stayed : x.boundary.fillLeaves = false →
    z.conv.granted = x.conv.granted ∨ x.conv.granted = .full ∧ z.conv.granted = .short

theorem Lane.Turned.advanced {x z : Lane} (turned : x.boundary.Turned z) (running : x.state = .running) : x.Advanced z := by
  have kept : x.boundary.conv.granted = x.conv.granted := by rw [Lane.boundary_conv_running running, Converter.boundary_eq]
  have shape := turned.conv
  rw [kept] at shape
  simp only [Lane.boundary_conv_running running] at shape
  rw [Converter.boundary_eq] at shape
  obtain ⟨left, stayed⟩ := turned.granted
  rw [kept] at stayed
  have produced := congrArg Converter.produced shape
  have output := congrArg Converter.output shape
  refine ⟨congrArg Converter.fifo shape, congrArg Converter.phase shape, produced, output, ?_, congrArg Converter.slipWanted shape,
    fun asks => ?_, fun quiet => ?_, left, stayed⟩
  · rw [shape]
  · exact ⟨(congrArg Converter.fade shape).trans (if_pos asks), (congrArg Converter.fadePos shape).trans (if_pos asks)⟩
  · exact ⟨(congrArg Converter.fade shape).trans (if_neg quiet), (congrArg Converter.fadePos shape).trans (if_neg quiet)⟩

section
variable {x z : Lane} (running : x.state = .running) (advanced : x.Advanced z)
include running advanced

theorem Lane.Advanced.callsSlip_iff : x.boundary.callsSlip = true
    ↔ x.conv.slipWanted = false ∧ (z.conv.fifo.length < 16 ∨ 240 < z.conv.fifo.length) := by
  rw [Lane.callsSlip, Lane.boundary_conv_running running, Converter.boundary_eq, advanced.fifo]
  simp

theorem Lane.Advanced.fillLeaves_iff : x.boundary.fillLeaves = true
    ↔ x.conv.granted = .bypass ∧ x.conv.forced = false ∧ (z.conv.fifo.length < 96 ∨ 160 < z.conv.fifo.length) := by
  rw [Lane.fillLeaves, Lane.boundary_conv_running running, Converter.boundary_eq, advanced.fifo]
  simp [and_assoc]

end

theorem Lane.Advanced.effective {x z : Lane} (advanced : x.Advanced z) : z.conv.effective = x.conv.effective := by
  rw [advanced.rest]

/-- What comes out depends on the effective mode and the frames produced alone, and a boundary changes no effective mode. -/
theorem Lane.Advanced.raw {x z : Lane} (advanced : x.Advanced z) : x.conv.boundary.raw = z.conv.raw := by
  have kept : x.conv.boundary.effective = x.conv.effective := by rw [Converter.boundary_eq]
  rw [Converter.raw, Converter.raw, advanced.effective, kept, advanced.produced]

/-- Settles O29: `Converter.boundary_eq` says what the boundary does to a running converter, and the lane's turn (`Lane.Turned`) what its
fill then asks for. -/
theorem frameBoundaryAdvancesTheConverters : Obligations.FrameBoundaryAdvancesTheConverters := by
  intro s on quiet
  obtain ⟨t, v, step, lanes⟩ := exec_outputFrameBoundary_lanes on quiet
  refine ⟨t, step, fun l => ?_⟩
  obtain ⟨same, lane⟩ := lanes l
  rw [lane, ← same]
  refine ⟨fun idle => by rw [LaneSide.boundary_lane_idle idle, Lane.boundary_conv_idle idle], fun running => ?_⟩
  have advanced := (LaneSide.boundary_lane_running running).advanced running
  have calls := advanced.callsSlip_iff running
  have exits := advanced.fillLeaves_iff running
  generalize v.boundary.lane l = z at *
  obtain ⟨silent, bypass, passed⟩ := (v.lane l).conv.boundary_produced
  rw [← advanced.produced] at silent bypass passed
  intro c d pos mode removed fill wanted leaves raw
  have raw_eq : d.raw = raw := Eq.trans (b := ({ d with effective := c.effective } : Converter).raw) (by rw [← advanced.effective]) rfl
  have output := advanced.output.trans (v.lane l).conv.boundary_output
  rw [advanced.raw, raw_eq] at output
  refine ⟨advanced.fifo, advanced.phase, silent, bypass, passed, advanced.rest, fun h => ?_, fun h => ?_, fun h => advanced.left (exits.2 h),
    fun h => advanced.stayed (eq_false_of_ne_true (mt exits.1 h)), fun fading => advanced.moved fun asks => fading asks.1,
    fun still h => advanced.asked ⟨still, h.imp_left calls.2⟩, fun still h same => ?_, fun still => output.trans (if_pos still),
    fun fading => ?_⟩
  · simp [d, advanced.slipWanted, calls.2 h]
  · simp [d, c, advanced.slipWanted, eq_false_of_ne_true (mt calls.1 h)]
  · rw [← still]
    exact advanced.moved fun asks => asks.2.elim (mt calls.1 h) fun changed => changed same
  · rw [output, if_neg fading]
    exact List.forall₂_map_right_iff.2 (List.forall₂_same.2 fun x _ => fadedSample_near pos x)

end Sys2Proof.Machine

/-! Requests that name a programme: which programme the body names, and how the programme's state refuses the request (R53). -/
namespace Sys2Proof.Machine

/-! ## Readers that keep what was read first -/

/-- Every value the reader reads has this property. -/
def Reader.Only {α : Type} (r : Reader α) (P : α → Prop) : Prop := ∀ bs a rest, r bs = some (a, rest) → P a

theorem Reader.Only.andThen {α β : Type} {r : Reader α} {f : α → Reader β} {P : β → Prop} (h : ∀ a, (f a).Only P) :
    (r.andThen f).Only P := by
  intro bs b rest read
  obtain ⟨a, left, -, more⟩ := Reader.andThen_eq_some.1 read
  exact h a left b rest more

theorem Reader.Only.map {α β : Type} {r : Reader α} {f : α → β} {P : β → Prop} (h : ∀ a, P (f a)) : (r.map f).Only P := by
  intro bs b rest read
  obtain ⟨a, -, rfl⟩ := Reader.map_eq_some.1 read
  exact h a

/-- A body whose first byte is read as a number, and what follows it knowing that number. -/
theorem Reader.Only.first {α : Type} {f : Nat → Reader α} {P : α → Prop} {n : Byte} {rest : List Byte} {a : α}
    (read : (u8.andThen f).whole (n :: rest) = some a) (h : (f n.toNat).Only P) : P a :=
  h rest a [] (Reader.whole_eq_some.1 read)

theorem Reader.Only.first_checked {α : Type} {f : Nat → Reader α} {ok : α → Bool} {P : α → Prop} {n : Byte} {rest : List Byte} {a : α}
    (read : ((u8.andThen f).check ok).whole (n :: rest) = some a) (h : (f n.toNat).Only P) : P a :=
  h rest a [] (Reader.check_eq_some.1 (Reader.whole_eq_some.1 read)).1

/-! ## The programme a body names (11.2) -/

section
variable {n : Byte} {rest : List Byte}

theorem bodyNumber_names {a : Nat} (read : bodyNumber (n :: rest) = some a) : a = n.toNat := by
  cases Reader.whole_eq_some.1 read
  rfl

theorem bodyProgDefine_names {b : Nat × List MemberBody} (read : bodyProgDefine (n :: rest) = some b) : b.1 = n.toNat :=
  Reader.Only.first (P := fun b => b.1 = n.toNat) read
    (.map fun _ => rfl)

theorem bodyDelaySet_names {b : DelaySetBody} (read : bodyDelaySet (n :: rest) = some b) : b.prog = n.toNat :=
  Reader.Only.first_checked (P := fun b => b.prog = n.toNat) read
    (.andThen fun _ => .andThen fun _ => .andThen fun _ => .map fun _ => rfl)

theorem bodyVideoLatency_names {b : Nat × Nat} (read : bodyVideoLatency (n :: rest) = some b) : b.1 = n.toNat :=
  Reader.Only.first (P := fun b => b.1 = n.toNat) read
    (.map fun _ => rfl)

theorem bodyLoudSet_names {b : Nat × LoudBody} (read : bodyLoudSet (n :: rest) = some b) : b.1 = n.toNat :=
  Reader.Only.first_checked (P := fun b => b.1 = n.toNat) read
    (.andThen fun _ => .map fun _ => rfl)

theorem bodyReportSet_names {b : Nat × Option Nat × Option Selection} (read : bodyReportSet (n :: rest) = some b) : b.1 = n.toNat :=
  Reader.Only.first_checked (P := fun b => b.1 = n.toNat) read
    (.andThen fun _ => .andThen fun _ => .map fun _ => rfl)

end

/-! ## How the programme's state is judged (R53) -/

/-- The kinds of request that name a programme (11.1). -/
def progKinds : List Byte := [0x20, 0x21, 0x22, 0x23, 0x30, 0x31, 0x40, 0x41, 0x42, 0x43, 0x44]

/-- The row of R53's table for a kind: how each state refuses it. -/
def refusesKind (kind : Byte) : ProgState → Option Status :=
  if kind = 0x20 then ProgState.refusesDefine
  else if kind = 0x23 then ProgState.refusesReset
  else if kind = 0x22 ∨ kind = 0x43 then ProgState.refusesQuery
  else ProgState.refusesSetting

/-- A request answered by the block that the programme's state has let act. -/
def State.AnsweredByProg (s : State) (kind tag : Byte) (body : List Byte) (n : Nat) (refuses : ProgState → Option Status)
    (o : Host.Outcome State Fault Refusal) : Prop :=
  ∃ act : ProgId → State → Answer,
    o = .next (answerRequest { kind := kind, tag := tag, body := body, reply := none } (onProg refuses n act s)).transmit

/-- A request is taken whose body fits, and names the programme of this number. -/
theorem State.AnsweredByProg.take {s : State} {kind tag : Byte} {body : List Byte} {n : Nat} (takes : s.Takes kind tag body) {α : Type}
    {read : List Byte → Option α} (fits : (read body).isSome = true) {number : α → Nat}
    (names : ∀ {a}, read body = some a → number a = n) (refuses : ProgState → Option Status) (act : α → ProgId → State → Answer) :
    s.AnsweredByProg kind tag body n refuses
      (s.carry (State.takeRequest (· == kind) false (withBody read fun a => onProg refuses (number a) (act a)))) := by
  obtain ⟨a, ha⟩ := Option.isSome_iff_exists.1 fits
  refine ⟨act a, (State.carry_take takes (ofKind := (· == kind)) (beq_self_eq_true kind) false _).trans ?_⟩
  rw [← names ha, withBody, ha]

/-- Every request that names a programme is judged by the programme's state first, as its row says. -/
theorem exec_namesProg {s : State} {kind tag n : Byte} {rest : List Byte} (named : kind ∈ progKinds)
    (takes : s.Takes kind tag (n :: rest)) (fits : bodyFits kind (n :: rest) = true) :
    s.AnsweredByProg kind tag (n :: rest) n.toNat (refusesKind kind) (exec (requestCommand kind) s) := by
  simp only [progKinds, List.mem_cons, List.not_mem_nil, or_false] at named
  rcases named with rfl | rfl | rfl | rfl | rfl | rfl | rfl | rfl | rfl | rfl | rfl
  · exact .take takes fits bodyProgDefine_names _ fun b => progDefineAnswer b.2
  · exact .take takes fits (number := id) bodyNumber_names _ fun _ => progUndefineAnswer
  · exact .take takes fits (number := id) bodyNumber_names _ fun _ => progQueryAnswer
  · exact .take takes fits (number := id) bodyNumber_names _ fun _ => progResetAnswer
  · exact .take takes fits bodyDelaySet_names _ delaySetAnswer
  · exact .take takes fits bodyVideoLatency_names _ fun b => videoLatencyAnswer b.2
  · exact .take takes fits bodyLoudSet_names _ fun b => loudSetAnswer b.2
  · exact .take takes fits (number := id) bodyNumber_names _ fun _ => pauseAnswer true
  · exact .take takes fits (number := id) bodyNumber_names _ fun _ => pauseAnswer false
  · exact .take takes fits (number := id) bodyNumber_names _ fun _ => loudQueryAnswer
  · exact .take takes fits bodyReportSet_names _ fun b => reportSetAnswer b.2

/-- Where the programme does not exist, or its state refuses, nothing changes but that the reply is formed. -/
theorem State.AnsweredByProg.refused {s : State} {kind tag : Byte} {body : List Byte} {n : Nat} {refuses : ProgState → Option Status}
    {o : Host.Outcome State Fault Refusal} (h : s.AnsweredByProg kind tag body n refuses o) (takes : s.Takes kind tag body)
    {status : Status} (refused : ∀ act, onProg refuses n act s = (status, .empty, s)) : o = .next (s.reply kind tag status .empty) := by
  obtain ⟨act, answer⟩ := h
  rw [answer, refused act, answerRequest_transmit _ _ _ _ _ takes.restart]

theorem onProg_none {refuses : ProgState → Option Status} {n : Nat} (h : 15 < n) (act : ProgId → State → Answer) (s : State) :
    onProg refuses n act s = (.noObject, .empty, s) := by
  rw [onProg, show progOf n = none from dif_neg (by omega)]

theorem onProg_refused {refuses : ProgState → Option Status} {p : ProgId} {s : State} {status : Status}
    (h : refuses (s.prog p).state = some status) (act : ProgId → State → Answer) : onProg refuses p.val act s = (status, .empty, s) := by
  rw [onProg, progOf_val]
  simp only [h]

/-! ## R53's table -/

theorem refusesKind_undefined {kind : Byte} (h : kind ≠ 0x20) : refusesKind kind .undefined = some .noObject := by
  rw [refusesKind, if_neg h]
  split_ifs <;> rfl

theorem refusesKind_define {st : ProgState} (h : st ≠ .undefined) : refusesKind 0x20 st = some .state := by
  cases st with
  | undefined => exact absurd rfl h
  | waiting => rfl
  | running => rfl
  | releasing => rfl

theorem refusesKind_releasing {kind : Byte} (query : kind ≠ 0x22) (loudQuery : kind ≠ 0x43) :
    refusesKind kind .releasing = some .state := by
  rw [refusesKind, if_neg (not_or.2 ⟨query, loudQuery⟩)]
  split_ifs <;> rfl

/-- Settles O13: each kind's block judges the programme's state by the kind's row of R53's table before it acts. -/
theorem programmeStateRefusesRequests : Obligations.ProgrammeStateRefusesRequests := by
  intro s kind tag n rest named takes fits
  have answered := exec_namesProg named takes fits
  refine ⟨fun above => answered.refused takes fun act => onProg_none above act s, fun p number => ?_⟩
  rw [← number] at answered
  have refused {st : ProgState} {status : Status} (state : (s.prog p).state = st) (row : refusesKind kind st = some status) :=
    answered.refused takes (onProg_refused (state ▸ row))
  refine ⟨fun state other => refused state (refusesKind_undefined other), fun state define => ?_, fun state reset => ?_,
    fun state query loudQuery => refused state (refusesKind_releasing query loudQuery)⟩
  · subst define
    exact refused rfl (refusesKind_define state)
  · subst reset
    exact refused state rfl

end Sys2Proof.Machine

/-! What reports leave alone: the link's restart mark; at an observation, the watches on other objects; at a restart of the watches of a
programme, every other watch (R151, R158). -/
namespace Sys2Proof.Machine

/-! ## The restart mark -/

theorem Panel.watchObserve_restart (o : WatchObject) (vs : Measure → Option Int) (v : Panel) (w : WatchId) :
    (v.watchObserve o vs w).lnk.restart = v.lnk.restart := by
  unfold Panel.watchObserve
  dsimp only
  split
  · split
    · rfl
    · split
      · rfl
      · exact (Panel.raiseEntry_kept _ _).restart
      · exact (Panel.clear_kept _ _).restart
  · rfl

theorem Panel.Report.restart {v w : Panel} (h : v.Report w) : w.lnk.restart = v.lnk.restart := by
  cases h with
  | offer n => exact (v.offer_kept n).restart
  | raise id => exact (v.raise_kept id).restart
  | clear id => exact (v.clear_kept id).restart
  | acknowledge id => exact (v.acknowledge_kept id).restart
  | observe o vs =>
    rw [Panel.observe]
    exact List.foldlRecOn (motive := fun w : Panel => w.lnk.restart = v.lnk.restart) allWatches (Panel.watchObserve o vs) rfl
      fun w hw id _ => (w.watchObserve_restart o vs id).trans hw
  | restartWatch id r => exact (v.clear_kept (.watch id)).restart

theorem Panel.Reports.restart {v w : Panel} (h : v.Reports w) : w.lnk.restart = v.lnk.restart := by
  induction h with
  | refl => rfl
  | tail _ last ih => exact last.restart.trans ih

/-- Work on the programmes leaves RESTART alone. -/
theorem State.onProgs_restart {s : State} {f : ProgSide → ProgSide} (h : s.progSide.Served (f s.progSide)) :
    (s.onProgs f).lnk.restart = s.lnk.restart := h.panel.restart

/-! ## Watches on other objects -/

theorem Panel.watchObserve_watch_other (o : WatchObject) (vs : Measure → Option Int) (v : Panel) (id : WatchId) {w : WatchId}
    (h : (v.wch.watches[w]).record.object ≠ o) : (v.watchObserve o vs id).wch.watches[w] = v.wch.watches[w] := by
  by_cases e : w = id
  · subst e
    rw [Panel.watchObserve, if_neg fun judged => h judged.1]
  · have judged (x : Watch) : (v.setWatch id x).wch.watches[w] = v.wch.watches[w] := Panel.setWatch_watches_other x v e
    unfold Panel.watchObserve
    dsimp only
    split
    · split
      · rfl
      · split
        · exact judged _
        · rw [(Panel.raiseEntry_kept _ _).watches, judged]
        · rw [(Panel.clear_kept _ _).watches, judged]
    · rfl

theorem Panel.observe_watch_other (o : WatchObject) (vs : Measure → Option Int) (v : Panel) {w : WatchId}
    (h : (v.wch.watches[w]).record.object ≠ o) : (v.observe o vs).wch.watches[w] = v.wch.watches[w] := by
  rw [Panel.observe]
  exact List.foldlRecOn (motive := fun u : Panel => u.wch.watches[w] = v.wch.watches[w]) allWatches (Panel.watchObserve o vs) rfl
    fun u same id _ => (u.watchObserve_watch_other o vs id (by rwa [same])).trans same

/-! ## The watches of a programme restarted (R158) -/

/-- A watch is enabled, and on this programme. -/
def Watch.On (p : ProgId) (x : Watch) : Prop := x.record.enable = true ∧ x.record.object = .programme p

/-- A watch restarted: QUIET, every count 0. -/
def Watch.restarted (x : Watch) : Watch :=
  { x with state := .quiet, run := 0, entries := 0, quiet := 0, lastQualified := false, lastValue := none, lastStamp := none }

theorem Watch.On.start {p : ProgId} {x : Watch} (h : x.On p) : x.record.start = x.restarted := by
  rw [WatchRecord.start, if_pos h.1, Watch.restarted]

/-- One watch's turn in the restart of a programme's watches. -/
def Panel.restartTurn (p : ProgId) (v : Panel) (id : WatchId) : Panel :=
  let r := v.wch.watches[id].record
  if r.enable ∧ r.object = .programme p then v.restartWatch id r else v

theorem Panel.restartWatches_eq (p : ProgId) (v : Panel) : v.restartWatches p = allWatches.foldl (Panel.restartTurn p) v := rfl

theorem Panel.restartTurn_on {p : ProgId} {v : Panel} {id : WatchId} (h : (v.wch.watches[id]).On p) :
    v.restartTurn p id = v.restartWatch id (v.wch.watches[id]).record := if_pos h

theorem Panel.restartTurn_off {p : ProgId} {v : Panel} {id : WatchId} (h : ¬(v.wch.watches[id]).On p) : v.restartTurn p id = v :=
  if_neg h

theorem Panel.restartTurn_other (p : ProgId) (v : Panel) {id w : WatchId} (h : w ≠ id) :
    (v.restartTurn p id).wch.watches[w] = v.wch.watches[w]
      ∧ (v.restartTurn p id).wch.isRaised (.watch w) = v.wch.isRaised (.watch w) := by
  by_cases on : (v.wch.watches[id]).On p
  · rw [Panel.restartTurn_on on]
    exact ⟨v.restartWatch_watches_other h _, Panel.restartWatch_isRaised_other (by simpa using h) (by simp) _ v⟩
  · rw [Panel.restartTurn_off on]
    exact ⟨rfl, rfl⟩

/-- A watch stands restarted as it was in a panel, its alarm clear. -/
def Panel.Restarted (w : WatchId) (x : Watch) (u : Panel) : Prop := u.wch.isRaised (.watch w) = false ∧ u.wch.watches[w] = x.restarted

theorem Panel.restartTurn_restarts {p : ProgId} {u : Panel} {w : WatchId} (on : (u.wch.watches[w]).On p) :
    (u.restartTurn p w).Restarted w u.wch.watches[w] := by
  obtain ⟨watch, clear⟩ := u.restartWatch_self w (u.wch.watches[w]).record
  rw [Panel.restartTurn_on on]
  exact ⟨clear, watch.trans on.start⟩

theorem Panel.Restarted.turn {p : ProgId} {u : Panel} {w : WatchId} {x : Watch} (h : u.Restarted w x) (on : x.On p) (id : WatchId) :
    (u.restartTurn p id).Restarted w x := by
  obtain ⟨clear, watch⟩ := h
  by_cases e : w = id
  · subst e
    have again := Panel.restartTurn_restarts (p := p) (u := u) (w := w) (by rw [watch]; exact on)
    rw [watch] at again
    exact again
  · obtain ⟨same, raised⟩ := u.restartTurn_other p e
    exact ⟨raised.trans clear, same.trans watch⟩

/-- Every enabled watch on the programme stands restarted, its alarm clear. -/
theorem Panel.restartWatches_on {p : ProgId} {v : Panel} {w : WatchId} (on : (v.wch.watches[w]).On p) :
    (v.restartWatches p).Restarted w v.wch.watches[w] := by
  obtain ⟨before, after, split⟩ := List.append_of_mem (List.mem_finRange w)
  rw [Panel.restartWatches_eq, allWatches, split, List.foldl_append, List.foldl_cons]
  have reached : (before.foldl (Panel.restartTurn p) v).wch.watches[w] = v.wch.watches[w]
      ∨ (before.foldl (Panel.restartTurn p) v).Restarted w v.wch.watches[w] :=
    List.foldlRecOn (motive := fun u : Panel => u.wch.watches[w] = v.wch.watches[w] ∨ u.Restarted w v.wch.watches[w]) before _ (.inl rfl)
      fun u hu id _ => by
        by_cases e : w = id
        · subst e
          exact .inr (hu.elim (fun same => same ▸ Panel.restartTurn_restarts (by rwa [same])) fun done => done.turn on w)
        · exact hu.imp (fun same => (u.restartTurn_other p e).1.trans same) fun done => done.turn on id
  have restarted := reached.elim (fun same => same ▸ Panel.restartTurn_restarts (p := p) (by rwa [same])) fun done => done.turn on w
  exact List.foldlRecOn (motive := Panel.Restarted w v.wch.watches[w]) after _ restarted fun u hu id _ => hu.turn on id

/-- No other watch is touched, nor its alarm. -/
theorem Panel.restartWatches_off {p : ProgId} {v : Panel} {w : WatchId} (off : ¬(v.wch.watches[w]).On p) :
    (v.restartWatches p).wch.isRaised (.watch w) = v.wch.isRaised (.watch w)
      ∧ (v.restartWatches p).wch.watches[w] = v.wch.watches[w] := by
  rw [Panel.restartWatches_eq]
  exact List.foldlRecOn (motive := fun u : Panel => u.wch.isRaised (.watch w) = v.wch.isRaised (.watch w)
      ∧ u.wch.watches[w] = v.wch.watches[w]) allWatches (Panel.restartTurn p) ⟨rfl, rfl⟩ fun u hu id _ => by
    by_cases e : w = id
    · subst e
      rw [Panel.restartTurn_off (by rwa [hu.2])]
      exact hu
    · obtain ⟨same, raised⟩ := u.restartTurn_other p e
      exact ⟨raised.trans hu.1, same.trans hu.2⟩

/-- No alarm but a watch's, and NOTICE_LOSS, is concerned. -/
theorem Panel.restartWatches_isRaised (p : ProgId) (v : Panel) {a : AlarmId} (h : ∀ w, a ≠ .watch w) (loss : a ≠ .noticeLoss) :
    (v.restartWatches p).wch.isRaised a = v.wch.isRaised a := by
  rw [Panel.restartWatches_eq]
  exact List.foldlRecOn (motive := fun u : Panel => u.wch.isRaised a = v.wch.isRaised a) allWatches (Panel.restartTurn p) rfl
    fun u hu id _ => by
      by_cases on : (u.wch.watches[id]).On p
      · rw [Panel.restartTurn_on on, Panel.restartWatch_isRaised_other (h id) loss, hu]
      · rw [Panel.restartTurn_off on, hu]

end Sys2Proof.Machine

/-! Rings trimmed, and what the service of the page wait list leaves of a programme that is not on it (R68, R70, R76). -/
namespace Sys2Proof.Machine

/-! ## The programme side of a state, and one programme's record replaced -/

@[simp] theorem State.progSide_prog (s : State) (p : ProgId) : s.progSide.prog p = s.prog p := rfl
@[simp] theorem State.progSide_dmc (s : State) : s.progSide.dmc = s.dmc := rfl
@[simp] theorem State.progSide_panel (s : State) : s.progSide.panel = s.panel := rfl

theorem ProgSide.replaced_self (v : ProgSide) (d : Dmc) (p : ProgId) (x : Prog) :
    ProgSide.prog { v with dmc := d, progs := v.progs.set p x } p = x := by simp [ProgSide.prog]

theorem ProgSide.replaced_other (v : ProgSide) (d : Dmc) {p q : ProgId} (x : Prog) (h : q ≠ p) :
    ProgSide.prog { v with dmc := d, progs := v.progs.set p x } q = v.prog q := by
  have h' : p.val ≠ q.val := fun e => h (Fin.ext e.symm)
  simp [ProgSide.prog, h']

theorem ProgSide.resize_prog_self (v : ProgSide) (p : ProgId) (k : Nat) : (v.resize p k).prog p
    = { v.prog p with members := (v.dmc.resizeMembers k (v.prog p).newest (v.prog p).members).2 } := v.replaced_self _ p _

theorem ProgSide.resize_prog_other (v : ProgSide) {p q : ProgId} (k : Nat) (h : q ≠ p) : (v.resize p k).prog q = v.prog q :=
  v.replaced_other _ _ h

theorem ProgSide.resize_dmc (v : ProgSide) (p : ProgId) (k : Nat) :
    (v.resize p k).dmc = (v.dmc.resizeMembers k (v.prog p).newest (v.prog p).members).1 := rfl

@[simp] theorem ProgSide.resize_wait (v : ProgSide) (p : ProgId) (k : Nat) : (v.resize p k).dmc.wait = v.dmc.wait :=
  Dmc.resizeMembers_wait _ _ _ _

@[simp] theorem ProgSide.event_dmc (f : ProgSide → ProgSide) (v : ProgSide) : (ProgSide.event f v).dmc = (f v).dmc := by
  unfold ProgSide.event
  dsimp only
  split
  · rfl
  · rw [ProgSide.onPanel_dmc]

/-- The pool is observed where the free list's length has changed (R80). -/
theorem ProgSide.event_panel (f : ProgSide → ProgSide) (v : ProgSide) : (ProgSide.event f v).panel =
    if (f v).dmc.free.length = v.dmc.free.length then (f v).panel
    else (f v).panel.observe .pool (freePages (f v).dmc.free.length) := by
  unfold ProgSide.event
  dsimp only
  split
  · rfl
  · rw [ProgSide.onPanel_panel]

/-- The pool's observation is no concern of a watch on another object. -/
theorem ProgSide.event_watch_other {f : ProgSide → ProgSide} {v : ProgSide} (silent : (f v).panel = v.panel) {w : WatchId}
    (h : (v.panel.wch.watches[w]).record.object ≠ .pool) :
    (ProgSide.event f v).panel.wch.watches[w] = v.panel.wch.watches[w] := by
  rw [ProgSide.event_panel, silent]
  split
  · rfl
  · exact Panel.observe_watch_other _ _ v.panel h

/-! ## Trims (R68) -/

/-- A member holds a ring of this many pages. -/
def Member.Holds (pages : Nat) (m : Member) : Prop := ∃ ring, m.ring = some ring ∧ ring.rest.length + 1 = pages

/-- The oldest j pages of a member's ring. -/
def Member.oldest (j : Nat) (m : Member) : List PageId :=
  match m.ring with
  | none => []
  | some r => r.rest.take j

/-- A member whose ring has given up its oldest j pages. -/
def Member.trimmed (j : Nat) (m : Member) : Member := { m with ring := m.ring.map fun r => { r with rest := r.rest.drop j } }

/-- The delay memory once a member's ring has been trimmed. -/
def Dmc.trimMember (j : Nat) (d : Dmc) (m : Member) : Dmc :=
  match m.ring with
  | none => d
  | some r => (d.trim j r).1

theorem Dmc.trim_ring (j : Nat) (d : Dmc) (r : Ring) : (d.trim j r).2 = { r with rest := r.rest.drop j } := by
  unfold Dmc.trim
  dsimp only
  split
  · next none =>
    have kept := List.take_append_drop j r.rest
    rw [List.getLast?_eq_none_iff.1 none, List.nil_append] at kept
    rw [kept]
  · rfl

theorem Dmc.trim_free (j : Nat) (d : Dmc) (r : Ring) : (d.trim j r).1.free = d.free ++ r.rest.take j := by
  unfold Dmc.trim
  dsimp only
  split
  · next none => rw [List.getLast?_eq_none_iff.1 none, List.append_nil]
  · rfl

theorem Dmc.trimMember_free (j : Nat) (d : Dmc) (m : Member) : (d.trimMember j m).free = d.free ++ m.oldest j := by
  unfold Dmc.trimMember Member.oldest
  cases m.ring with
  | none => exact (List.append_nil _).symm
  | some r => exact d.trim_free j r

theorem Dmc.trimMembers_free (j : Nat) (d : Dmc) (ms : List Member) :
    (ms.foldl (Dmc.trimMember j) d).free = d.free ++ ms.flatMap (Member.oldest j) := by
  induction ms generalizing d with
  | nil => exact (List.append_nil _).symm
  | cons m ms ih => rw [List.foldl_cons, ih, Dmc.trimMember_free, List.flatMap_cons, List.append_assoc]

/-- Rings of one length brought to fewer pages are trimmed, in member order. -/
theorem Dmc.resizeMembers_trims {pages k : Nat} (fewer : k < pages) (newest : Int) (d : Dmc) {ms : List Member}
    (rings : ∀ m ∈ ms, m.Holds pages) :
    d.resizeMembers k newest ms = (ms.foldl (Dmc.trimMember (pages - k)) d, ms.map (Member.trimmed (pages - k))) := by
  induction ms generalizing d with
  | nil => rfl
  | cons m ms ih =>
    obtain ⟨⟨r, ring, length⟩, others⟩ := List.forall_mem_cons.1 rings
    have first : d.resizeMember k newest m = (d.trimMember (pages - k) m, m.trimmed (pages - k)) := by
      have same : r.pages = pages := length
      rw [Dmc.resizeMember, Dmc.trimMember, Member.trimmed, ring]
      dsimp only
      rw [Dmc.resizeRing, same, if_neg (by omega), if_pos fewer, Dmc.trim_ring]
      rfl
    rw [Dmc.resizeMembers, first, ih _ others]
    rfl

/-- A programme's rings trimmed to fewer pages: all that it does. -/
theorem ProgSide.resize_trims {v : ProgSide} {p : ProgId} {pages k : Nat} (fewer : k < pages)
    (rings : ∀ m ∈ (v.prog p).members, m.Holds pages) :
    (v.resize p k).prog p = { v.prog p with members := (v.prog p).members.map (Member.trimmed (pages - k)) }
      ∧ (v.resize p k).dmc = (v.prog p).members.foldl (Dmc.trimMember (pages - k)) v.dmc := by
  rw [ProgSide.resize_prog_self, ProgSide.resize_dmc, Dmc.resizeMembers_trims fewer _ _ rings]
  exact ⟨rfl, rfl⟩

theorem Member.trimmed_zero (m : Member) : m.trimmed 0 = m := by
  have same : (fun r : Ring => { r with rest := r.rest.drop 0 }) = id := rfl
  rw [Member.trimmed, same, Option.map_id]
  rfl

/-! ## A programme off the wait list -/

/-- The second view has the programme's record as the first has it, no programme new on the wait list, and the programme's deficit
alarm as it was. -/
structure ProgSide.Spares (p : ProgId) (v w : ProgSide) : Prop where
  prog : w.prog p = v.prog p
  wait : w.dmc.wait.Sublist v.dmc.wait
  deficit : w.panel.wch.isRaised (.delayDeficit p) = v.panel.wch.isRaised (.delayDeficit p)

namespace ProgSide.Spares

variable {p : ProgId}

theorem refl (v : ProgSide) : Spares p v v := ⟨rfl, .refl _, rfl⟩

theorem trans {u v w : ProgSide} (a : Spares p u v) (b : Spares p v w) : Spares p u w :=
  ⟨b.prog.trans a.prog, b.wait.trans a.wait, b.deficit.trans a.deficit⟩

/-- Another programme's record replaced. -/
theorem replaced (v : ProgSide) {d : Dmc} {q : ProgId} (x : Prog) (h : p ≠ q) (wait : d.wait = v.dmc.wait) :
    Spares p v { v with dmc := d, progs := v.progs.set q x } :=
  ⟨v.replaced_other d x h, wait ▸ .refl _, rfl⟩

theorem modProg (v : ProgSide) {q : ProgId} (h : p ≠ q) (f : Prog → Prog) : Spares p v (v.modProg q f) := replaced v _ h rfl

theorem modDelay (v : ProgSide) {q : ProgId} (h : p ≠ q) (f : DelayRec → DelayRec) : Spares p v (v.modDelay q f) := modProg v h _

theorem resize (v : ProgSide) {q : ProgId} (h : p ≠ q) (k : Nat) : Spares p v (v.resize q k) :=
  replaced v _ h (Dmc.resizeMembers_wait _ _ _ _)

theorem onPanel (v : ProgSide) {f : Panel → Panel}
    (h : (f v.panel).wch.isRaised (.delayDeficit p) = v.panel.wch.isRaised (.delayDeficit p)) : Spares p v (v.onPanel f) :=
  ⟨rfl, .refl _, h⟩

theorem leaveWait (v : ProgSide) {q : ProgId} (h : p ≠ q) : Spares p v (v.leaveWait q) := by
  unfold ProgSide.leaveWait
  split
  · exact ⟨rfl, List.filter_sublist, Panel.clear_isRaised_other _ _ (by simpa using h) (by simp)⟩
  · exact refl v

theorem noticeDone (v : ProgSide) (q : ProgId) (kind : DoneKind) : Spares p v (v.noticeDone q kind) :=
  onPanel v (Panel.offer_isRaised _ _ (by simp))

theorem completeGlide (v : ProgSide) {q : ProgId} (h : p ≠ q) : Spares p v (v.completeGlide q) :=
  (modDelay v h _).trans (noticeDone _ q _)

theorem judgeGlide (v : ProgSide) {q : ProgId} (h : p ≠ q) : Spares p v (v.judgeGlide q) := by
  unfold ProgSide.judgeGlide
  dsimp only
  split
  · split
    · exact completeGlide v h
    · exact refl v
  · refine (modProg v h (Prog.moveDelay (64 * (v.prog q).delay.whole))).trans ?_
    split
    · exact completeGlide _ h
    · exact modDelay _ h _

theorem takeRaise (v : ProgSide) {q : ProgId} (h : p ≠ q) : Spares p v (v.takeRaise q) := by
  unfold ProgSide.takeRaise
  dsimp only
  split
  · split
    · exact refl v
    · exact modDelay v h _
  · exact judgeGlide v h
  · exact refl v
  · exact (modProg v h _).trans (modDelay _ h _)
  · exact modDelay v h _

theorem startProg (v : ProgSide) {q : ProgId} (h : p ≠ q) (delay : Nat) : Spares p v (v.startProg q delay) :=
  replaced v _ h (Dmc.createRings_wait _ _ _)

theorem leaveIfFull (v : ProgSide) {q : ProgId} (h : p ≠ q) : Spares p v (v.leaveIfFull q) := by
  unfold ProgSide.leaveIfFull
  split
  · exact leaveWait v h
  · exact refl v

theorem serveWaiter (v : ProgSide) {q : ProgId} (h : p ≠ q) : Spares p v (v.serveWaiter q) := by
  unfold ProgSide.serveWaiter
  dsimp only
  split
  · split
    · exact (((modDelay v h _).trans (resize _ h _)).trans (takeRaise _ h)).trans (leaveIfFull _ h)
    · exact refl v
  · split
    · exact (startProg v h _).trans (leaveIfFull _ h)
    · exact refl v
  · exact refl v

/-- The service reaches no programme off the list. -/
theorem serve (v : ProgSide) (off : p ∉ v.dmc.wait) : Spares p v v.serve :=
  List.foldlRecOn (motive := Spares p v) v.dmc.wait ProgSide.serveWaiter (refl v) fun w hw _ hq =>
    hw.trans (serveWaiter w fun e => off (e ▸ hq))

theorem event {f : ProgSide → ProgSide} {v : ProgSide} (h : Spares p v (f v)) : Spares p v (ProgSide.event f v) := by
  unfold ProgSide.event
  dsimp only
  split
  · exact h
  · exact h.trans (onPanel _ (Panel.observe_isRaised _ _ _ (by simp) (by simp)))

end ProgSide.Spares

/-- With no programme on the list the service does nothing. -/
theorem ProgSide.serve_none {v : ProgSide} (none : v.dmc.wait = []) : v.serve = v := by
  rw [ProgSide.serve, none]
  rfl

/-! ## A holding delay that has fallen (R70, R91) -/

/-- A programme that leaves the list is off it, its deficit alarm clear if it was on it. -/
theorem ProgSide.leaveWait_off (v : ProgSide) (p : ProgId) : p ∉ (v.leaveWait p).dmc.wait
    ∧ (p ∈ v.dmc.wait → (v.leaveWait p).panel.wch.isRaised (.delayDeficit p) = false) := by
  unfold ProgSide.leaveWait
  split
  · exact ⟨by simp, fun _ => Panel.clear_isRaised _ _ (by simp)⟩
  · next off => exact ⟨off, fun on => absurd on off⟩

/-- Leaving the list takes the programme from it, and clears its deficit alarm if it was on it. -/
theorem ProgSide.leaveWait_fields (v : ProgSide) (p : ProgId) :
    (v.leaveWait p).dmc = { v.dmc with wait := v.dmc.wait.filter fun q => !(q == p) }
      ∧ (v.leaveWait p).panel = if p ∈ v.dmc.wait then v.panel.clear (.delayDeficit p) else v.panel := by
  unfold ProgSide.leaveWait
  split
  · exact ⟨rfl, rfl⟩
  · next off =>
    rw [List.filter_eq_self.2 fun q hq => by simpa using fun e : q = p => off (e ▸ hq)]
    exact ⟨rfl, rfl⟩

@[simp] theorem ProgSide.leaveWait_prog (v : ProgSide) (p q : ProgId) : (v.leaveWait p).prog q = v.prog q := by
  unfold ProgSide.leaveWait
  split <;> rfl

/-- Off the wait list only rings change, of the programme itself. -/
theorem ProgSide.holdingFell_off (v : ProgSide) {p : ProgId} (off : p ∉ v.dmc.wait) : ∃ ms : List Member,
    ms.map (fun m => { m with ring := none }) = (v.prog p).members.map (fun m => { m with ring := none })
      ∧ (v.holdingFell p).prog p = { v.prog p with members := ms } ∧ (v.holdingFell p).dmc.wait.Sublist v.dmc.wait
      ∧ (v.holdingFell p).panel.wch.isRaised (.delayDeficit p) = v.panel.wch.isRaised (.delayDeficit p) := by
  unfold ProgSide.holdingFell
  dsimp only
  split
  · generalize pagesFor (v.prog p).delay.holding = k
    have served := ProgSide.Spares.serve (p := p) (v.resize p k) (by rwa [ProgSide.resize_wait])
    refine ⟨_, v.dmc.resizeMembers_members k (v.prog p).newest (v.prog p).members, ?_, ?_, ?_⟩
    · rw [ProgSide.event_prog, served.prog, ProgSide.resize_prog_self]
    · rw [ProgSide.event_dmc]
      exact served.wait.trans (v.resize_wait p k ▸ .refl _)
    · rw [ProgSide.event_panel]
      split
      · exact served.deficit
      · rw [Panel.observe_isRaised _ _ _ (by simp) (by simp)]
        exact served.deficit
  · exact ⟨_, rfl, rfl, .refl _, rfl⟩

theorem Prog.pagesPerChannel_holds {x : Prog} {pages : Nat} (some_ : x.members ≠ []) (rings : ∀ m ∈ x.members, m.Holds pages) :
    x.pagesPerChannel = pages := by
  obtain ⟨m, ms, members⟩ := List.exists_cons_of_ne_nil some_
  obtain ⟨r, ring, length⟩ := rings m (by simp [members])
  rw [Prog.pagesPerChannel, members, ← length]
  simp [ring, Ring.pages]

/-- Off the wait list, with rings of one length that is no less than the holding delay needs, the rings are trimmed to what it needs. -/
theorem ProgSide.holdingFell_trims {v : ProgSide} {p : ProgId} {pages : Nat} (off : p ∉ v.dmc.wait)
    (rings : ∀ m ∈ (v.prog p).members, m.Holds pages) (needs : pagesFor (v.prog p).delay.holding ≤ pages) :
    (v.holdingFell p).prog p = { v.prog p with
        members := (v.prog p).members.map (Member.trimmed (pages - pagesFor (v.prog p).delay.holding)) }
      ∧ (v.dmc.wait = [] →
          (v.holdingFell p).dmc.free
              = v.dmc.free ++ (v.prog p).members.flatMap (Member.oldest (pages - pagesFor (v.prog p).delay.holding))
            ∧ (v.holdingFell p).dmc.wait = [] ∧ (∀ q, q ≠ p → (v.holdingFell p).prog q = v.prog q)
            ∧ (v.holdingFell p).panel = if (v.holdingFell p).dmc.free.length = v.dmc.free.length then v.panel
                else v.panel.observe .pool (freePages (v.holdingFell p).dmc.free.length)) := by
  by_cases fewer : pagesFor (v.prog p).delay.holding < (v.prog p).pagesPerChannel
  · have holds : (v.prog p).pagesPerChannel = pages :=
      Prog.pagesPerChannel_holds (fun none => by simp [Prog.pagesPerChannel, none] at fewer) rings
    have fell : v.holdingFell p = ProgSide.event (fun v => (v.resize p (pagesFor (v.prog p).delay.holding)).serve) v := if_pos fewer
    rw [holds] at fewer
    obtain ⟨prog, dmc⟩ := ProgSide.resize_trims fewer rings
    have served := ProgSide.Spares.serve (p := p) (v.resize p (pagesFor (v.prog p).delay.holding)) (by rwa [ProgSide.resize_wait])
    refine ⟨by rw [fell, ProgSide.event_prog, served.prog, prog], fun alone => ?_⟩
    have still := ProgSide.serve_none ((v.resize_wait p (pagesFor (v.prog p).delay.holding)).trans alone)
    rw [fell, ProgSide.event_dmc, ProgSide.event_panel, still, ProgSide.resize_wait, dmc, Dmc.trimMembers_free]
    exact ⟨rfl, alone, fun q other => by rw [ProgSide.event_prog, still, ProgSide.resize_prog_other _ _ other], rfl⟩
  · have stays : v.holdingFell p = v := if_neg fewer
    have none (m : Member) (hm : m ∈ (v.prog p).members) : pages - pagesFor (v.prog p).delay.holding = 0 := by
      rw [Prog.pagesPerChannel_holds (List.ne_nil_of_mem hm) rings] at fewer
      omega
    rw [stays]
    refine ⟨?_, fun alone => ⟨?_, alone, fun q _ => rfl, by rw [if_pos rfl]⟩⟩
    · rw [List.map_congr_left (g := id) fun m hm => by rw [none m hm, Member.trimmed_zero, id], List.map_id]
    · rw [List.flatMap_eq_nil_iff.2 fun m hm => ?_, List.append_nil]
      rw [none m hm, Member.oldest]
      cases m.ring <;> rfl

end Sys2Proof.Machine

/-! The end of a programme: undefinition, the release and its end; and PROG_RESET, which starts one again (R51, R52, R57, R63, R69, R158). -/
namespace Sys2Proof.Machine

/-! ## The end of the release fade (R52, R69) -/

/-- Dissolved with no programme waiting, a programme gives its pages back and is UNDEFINED. -/
theorem ProgSide.dissolve_alone {v : ProgSide} (p : ProgId) (alone : v.dmc.wait = []) : v.dissolve p
    = { v with
        dmc := { v.dmc with free := v.dmc.free ++ (v.prog p).members.flatMap Member.givenBack }
        progs := v.progs.set p Prog.undefined } := ProgSide.serve_none alone

/-- A command that works on the programmes: what its work leaves, field by field. -/
theorem State.carry_onProgs_fields {s : State} (on : s.powered = true) (f : ProgSide → ProgSide) :
    ∃ t, s.carry (fun s => s.onProgs f) = .next t ∧ (∀ q, t.prog q = (f s.progSide).prog q) ∧ t.dmc = (f s.progSide).dmc
      ∧ t.wch = (f s.progSide).panel.wch ∧ t.front = s.front ∧ t.refu = s.refu ∧ t.pfu = s.pfu ∧ t.out = s.out :=
  ⟨_, State.carry_on on _, fun _ => rfl, rfl, rfl, rfl, rfl, rfl, rfl⟩

/-- Settles O38: the rings are dissolved, the pool's watches judge, and then the programme's watches restart. -/
theorem releaseEndsWithThePagesGivenBack : Obligations.ReleaseEndsWithThePagesGivenBack := by
  intro s p on releasing ended alone
  have due : (s.progSide.prog p).releaseDue = true := by
    rw [show s.progSide.prog p = s.prog p from rfl, Prog.releaseDue, releasing, ended]
    rfl
  have dissolved := ProgSide.dissolve_alone (v := s.progSide) p alone
  have panel : (s.progSide.dissolve p).panel = s.progSide.panel := by rw [dissolved]
  obtain ⟨t, step, progs, dmc, wch, rest⟩ := State.carry_onProgs_fields on (ProgSide.releaseEnd p)
  rw [ProgSide.releaseEnd, if_pos due] at dmc wch
  simp only [ProgSide.releaseEnd, if_pos due, ProgSide.onPanel_prog, ProgSide.event_prog] at progs
  rw [ProgSide.onPanel_dmc, ProgSide.event_dmc] at dmc
  rw [ProgSide.onPanel_panel] at wch
  have gone : t.prog p = Prog.undefined := by rw [progs, dissolved, ProgSide.replaced_self]
  refine ⟨t, step, congrArg Prog.state gone, congrArg Prog.members gone, congrArg Prog.inputStamp gone,
    congrArg (fun x : Prog => x.gain.cues) gone, congrArg (fun x : Prog => x.delay.pending) gone,
    fun q other => ?_, ?_, fun w enabled object => ?_, rest⟩
  · rw [progs, dissolved, ProgSide.replaced_other _ _ _ other]
    rfl
  · rw [dmc, dissolved]
    rfl
  · have same := ProgSide.event_watch_other panel (w := w) (ne_of_eq_of_ne object (by simp))
    rw [wch]
    obtain ⟨clear, restarted⟩ := Panel.restartWatches_on (p := p) (v := (ProgSide.event (ProgSide.dissolve p) s.progSide).panel) (w := w)
      (by rw [same]; exact ⟨enabled, object⟩)
    rw [same] at restarted
    exact ⟨clear, restarted⟩

/-! ## PROG_UNDEFINE (R51) -/

/-- The request is answered OK, in the state that the undefinition gives. -/
theorem exec_progUndefine {s : State} {tag : Byte} {p : ProgId} (takes : s.Takes 0x21 tag [BitVec.ofNat 8 p.val])
    (defined : (s.prog p).state = .waiting ∨ (s.prog p).state = .running) : exec .progUndefine s = .next
      ((s.onProgs (if (s.prog p).state = .waiting then ProgSide.undefineWaiting p else ProgSide.beginRelease p)).reply
        0x21 tag .ok .empty) := by
  have admitted : ProgState.refusesSetting (s.prog p).state = none := by rcases defined with st | st <;> rw [st] <;> rfl
  refine State.carry_body takes (ofKind := (· == 0x21)) rfl (bodyNumber_byte _)
    (onProg_admitted (progOf_byte p) admitted progUndefineAnswer) (Eq.trans ?_ takes.restart)
  refine State.onProgs_restart ?_
  split
  · exact .undefineWaiting _ p
  · exact .beginRelease _ p

/-- The watches' restart turn by turn, each watch's record being that of a panel whose watches are still the same. -/
theorem Panel.restartTurns_eq (p : ProgId) (u : Wch) {ws : List WatchId} (once : ws.Nodup) {v : Panel}
    (same : ∀ w ∈ ws, v.wch.watches[w] = u.watches[w]) :
    ws.foldl (Panel.restartTurn p) v = ws.foldl (fun (v : Panel) (w : WatchId) =>
      if (u.watches[w]).record.enable = true ∧ (u.watches[w]).record.object = .programme p then
        (v.clear (.watch w)).setWatch w (u.watches[w]).restarted
      else v) v := by
  induction ws generalizing v with
  | nil => rfl
  | cons w ws ih =>
    obtain ⟨first, others⟩ := List.nodup_cons.1 once
    have here := same w (.head ws)
    have turn : v.restartTurn p w = if (u.watches[w]).record.enable = true ∧ (u.watches[w]).record.object = .programme p then
        (v.clear (.watch w)).setWatch w (u.watches[w]).restarted else v := by
      split
      · next on =>
        rw [Panel.restartTurn_on (by rw [here]; exact on), Panel.restartWatch, here, Watch.On.start on]
      · next off => exact Panel.restartTurn_off (by rw [here]; exact off)
    rw [List.foldl_cons, List.foldl_cons, ← turn]
    refine ih others fun x hx => ?_
    rw [(v.restartTurn_other p (fun e : x = w => first (e ▸ hx))).1, same x (.tail w hx)]

/-- A WAITING programme on the list, undefined. -/
theorem ProgSide.undefineWaiting_eq {v : ProgSide} {p : ProgId} (on : p ∈ v.dmc.wait) : v.undefineWaiting p =
    ({ v with
      dmc := { v.dmc with wait := v.dmc.wait.filter fun q => q != p }
      progs := v.progs.set p Prog.undefined } : ProgSide).onPanel
        fun w => (w.clear (.delayDeficit p)).restartWatches p := by
  rw [ProgSide.undefineWaiting, ProgSide.leaveWait, if_pos on]
  rfl

/-- What work on the programmes leaves, field by field. -/
theorem State.onProgs_fields (s : State) (f : ProgSide → ProgSide) : (∀ q, (s.onProgs f).prog q = (f s.progSide).prog q)
    ∧ (s.onProgs f).dmc = (f s.progSide).dmc ∧ (s.onProgs f).wch = (f s.progSide).panel.wch
    ∧ (s.onProgs f).lnk = (f s.progSide).panel.lnk
    ∧ (s.onProgs f).front = s.front ∧ (s.onProgs f).refu = s.refu ∧ (s.onProgs f).pfu = s.pfu ∧ (s.onProgs f).out = s.out :=
  ⟨fun _ => rfl, rfl, rfl, rfl, rfl, rfl, rfl, rfl⟩

/-- The turns of the restart with the watches' records read beforehand are the restart of the watches. -/
theorem Panel.restartTurns_restart (p : ProgId) {u : Wch} {v : Panel} (same : v.wch.watches = u.watches) :
    allWatches.foldl (fun (v : Panel) (w : WatchId) =>
      if (u.watches[w]).record.enable = true ∧ (u.watches[w]).record.object = .programme p then
        (v.clear (.watch w)).setWatch w (u.watches[w]).restarted
      else v) v = v.restartWatches p := by
  rw [Panel.restartWatches_eq]
  exact (Panel.restartTurns_eq p u (List.nodup_finRange 32) fun w _ => by rw [same]).symm

/-- PROG_UNDEFINE on a WAITING programme on the list. -/
theorem State.undefineWaiting_fields {s : State} {p : ProgId} (on : p ∈ s.dmc.wait) :
    let u := s.onProgs (ProgSide.undefineWaiting p)
    let cleared := s.panel.clear (.delayDeficit p)
    u.prog p = Prog.undefined ∧ (∀ q, q ≠ p → u.prog q = s.prog q)
      ∧ u.dmc = { s.dmc with wait := s.dmc.wait.filter fun q => q != p }
      ∧ u.wch = (cleared.restartWatches p).wch ∧ u.lnk = (cleared.restartWatches p).lnk
      ∧ u.front = s.front ∧ u.refu = s.refu ∧ u.pfu = s.pfu ∧ u.out = s.out := by
  obtain ⟨progs, dmc, wch, lnk, rest⟩ := s.onProgs_fields (ProgSide.undefineWaiting p)
  simp only [ProgSide.undefineWaiting_eq (v := s.progSide) on, ProgSide.onPanel_prog, ProgSide.onPanel_dmc, ProgSide.onPanel_panel]
    at progs dmc wch lnk
  exact ⟨(progs p).trans (s.progSide.replaced_self _ p _), fun q other => (progs q).trans (s.progSide.replaced_other _ _ other),
    dmc, wch, lnk, rest⟩

/-! ## The release begins (R51, R52, R78, R102) -/

/-- The factor of the delay fade of a programme that is RUNNING (R100). -/
theorem Prog.fadeFactor_running {x : Prog} (running : x.state = .running) : x.fadeFactor = match x.delay.change with
    | .steady => 480 | .gliding => 480 | .fadeOut => x.delay.fadePos | .filling => 0 | .fadeIn => x.delay.fadePos := by
  refine Eq.trans (if_neg (by simp [running])) ?_
  cases x.delay.change <;> rfl

/-- Once released a programme's holding delay is the whole part of its delay. -/
theorem Prog.toReleasing_holding (x : Prog) : x.toReleasing.delay.holding = x.delay.current / 64 := by
  show max (64 * (x.delay.current / 64) / 64) (x.delay.current / 64) = _
  rw [Nat.mul_div_cancel_left _ (by decide), max_self]

/-- A member once its programme's delay has stopped at its whole part and its meter has stopped. -/
def Member.released (current : Nat) (m : Member) : Member :=
  { m with tap := m.tap + ((64 * (current / 64) : Int) - current), energy := 0 }

theorem Prog.toReleasing_members (x : Prog) : x.toReleasing.members = x.members.map (Member.released x.delay.current) := by
  show (x.members.map _).map _ = _
  rw [List.map_map]
  refine List.map_congr_left fun m _ => ?_
  simp [Member.released, DelayRec.whole]

theorem Member.released_ring (current : Nat) (m : Member) : (m.released current).ring = m.ring := rfl

/-- The release begins: the record, but for the rings, and the wait list. -/
theorem ProgSide.beginRelease_fields (v : ProgSide) (p : ProgId) : ∃ ms : List Member,
    ms.map (fun m => { m with ring := none })
        = (v.prog p).members.map (fun m => { m.released (v.prog p).delay.current with ring := none })
      ∧ (v.beginRelease p).prog p = { (v.prog p).toReleasing with members := ms } ∧ p ∉ (v.beginRelease p).dmc.wait
      ∧ (p ∈ v.dmc.wait → (v.beginRelease p).panel.wch.isRaised (.delayDeficit p) = false) := by
  obtain ⟨off, cleared⟩ := ProgSide.leaveWait_off (v.modProg p Prog.toReleasing) p
  obtain ⟨ms, same, prog, wait, deficit⟩ := ProgSide.holdingFell_off _ off
  rw [ProgSide.leaveWait_prog, ProgSide.modProg_prog_self] at same prog
  refine ⟨ms, ?_, prog, fun on => off (wait.subset on), fun on => deficit.trans (cleared on)⟩
  rw [same, Prog.toReleasing_members, List.map_map]
  rfl

/-- The release trims the rings to the pages of the whole delay, and with no other programme waiting that is all it does. -/
theorem ProgSide.beginRelease_trims {v : ProgSide} {p : ProgId} {pages : Nat} (rings : ∀ m ∈ (v.prog p).members, m.Holds pages)
    (needs : pagesFor ((v.prog p).delay.current / 64) ≤ pages) :
    ((v.beginRelease p).prog p).members = (v.prog p).members.map
        (fun m => (m.released (v.prog p).delay.current).trimmed (pages - pagesFor ((v.prog p).delay.current / 64)))
      ∧ ((∀ q ∈ v.dmc.wait, q = p) → (v.beginRelease p).dmc.wait = [] ∧ (∀ q, q ≠ p → (v.beginRelease p).prog q = v.prog q)
        ∧ (v.beginRelease p).dmc.free
            = v.dmc.free ++ (v.prog p).members.flatMap (Member.oldest (pages - pagesFor ((v.prog p).delay.current / 64)))
        ∧ (v.beginRelease p).panel =
            (let cleared := if p ∈ v.dmc.wait then v.panel.clear (.delayDeficit p) else v.panel
             if (v.beginRelease p).dmc.free.length = v.dmc.free.length then cleared
             else cleared.observe .pool (freePages (v.beginRelease p).dmc.free.length))) := by
  obtain ⟨off, -⟩ := ProgSide.leaveWait_off (v.modProg p Prog.toReleasing) p
  obtain ⟨dmc, panel⟩ := ProgSide.leaveWait_fields (v.modProg p Prog.toReleasing) p
  have prog : ((v.modProg p Prog.toReleasing).leaveWait p).prog p = (v.prog p).toReleasing := by
    rw [ProgSide.leaveWait_prog, ProgSide.modProg_prog_self]
  have trims := ProgSide.holdingFell_trims (pages := pages) off
    (by
      rw [prog, Prog.toReleasing_members]
      intro m hm
      obtain ⟨n, hn, rfl⟩ := List.mem_map.1 hm
      exact rings n hn)
    (by rwa [prog, Prog.toReleasing_holding])
  rw [prog, Prog.toReleasing_holding, Prog.toReleasing_members, List.map_map, List.flatMap_map] at trims
  obtain ⟨record, alone⟩ := trims
  refine ⟨congrArg Prog.members record, fun only => ?_⟩
  have empty : ((v.modProg p Prog.toReleasing).leaveWait p).dmc.wait = [] := by
    rw [dmc]
    exact List.filter_eq_nil_iff.2 fun q hq => by simp [only q hq]
  obtain ⟨free, wait, others, seen⟩ := alone empty
  refine ⟨wait, fun q other => ?_, ?_, ?_⟩
  · rw [ProgSide.beginRelease, others q other, ProgSide.leaveWait_prog, ProgSide.modProg_prog_other _ _ other]
  · rw [ProgSide.beginRelease, free, dmc]
    rfl
  · rw [ProgSide.beginRelease, seen, panel, dmc]
    rfl

/-- Settles O34: an undefinition discards a WAITING programme and releases a RUNNING one, by the lemmas on each; PROG_RESET is the
restart of the record. -/
theorem progUndefineAndProgReset : Obligations.ProgUndefineAndProgReset := by
  refine ⟨fun s tag p takes => ⟨fun waiting on => ?_, fun running => ?_⟩, fun s tag p takes running => ?_⟩
  · have step := exec_progUndefine takes (.inl waiting)
    rw [if_pos waiting] at step
    obtain ⟨gone, others, dmc, wch, lnk, rest⟩ := State.undefineWaiting_fields on
    generalize s.onProgs (ProgSide.undefineWaiting p) = u at *
    have watches := (s.panel.clear_kept (.delayDeficit p)).watches
    have watch (w : WatchId) : (s.panel.clear (.delayDeficit p)).wch.watches[w] = s.wch.watches[w] := by rw [watches]; rfl
    have turns := Panel.restartTurns_restart p (u := s.wch) watches
    refine ⟨u, step, gone, dmc, ?_, others, fun w => ⟨fun watched => ?_, fun off => ?_⟩, ⟨?_, ?_⟩, rest⟩
    · rw [State.reply_wch, wch, Panel.restartWatches_isRaised _ _ (by simp) (by simp)]
      exact Panel.clear_isRaised _ _ (by simp)
    · rw [State.reply_wch, wch, ← watch w]
      exact Panel.restartWatches_on (by rw [watch]; exact watched)
    · rw [State.reply_wch, wch, ← watch w]
      obtain ⟨raised, same⟩ := Panel.restartWatches_off (p := p) (v := s.panel.clear (.delayDeficit p)) (w := w) (by rw [watch]; exact off)
      exact ⟨raised.trans (Panel.clear_isRaised_other _ _ (by simp) (by simp)), same⟩
    · rw [wch, ← turns]
      rfl
    · rw [lnk, ← turns]
      rfl
  · have step := exec_progUndefine takes (.inr running)
    rw [if_neg (by simp [running])] at step
    obtain ⟨progs, dmc, wch, lnk, rest⟩ := s.onProgs_fields (ProgSide.beginRelease p)
    obtain ⟨ms, unringed, record, off, cleared⟩ := s.progSide.beginRelease_fields p
    have trims {pages : Nat} := s.progSide.beginRelease_trims (p := p) (pages := pages)
    simp only [State.progSide_prog, State.progSide_dmc, State.progSide_panel] at unringed record cleared trims
    generalize s.onProgs (ProgSide.beginRelease p) = u at *
    generalize s.progSide.beginRelease p = v at *
    have release : u.prog p = { (s.prog p).toReleasing with members := ms } := (progs p).trans record
    have kept {α : Type} (f : Member → α) (h : ∀ m : Member, f { m with ring := none } = f m) :
        ms.map f = (s.prog p).members.map fun m => f (m.released (s.prog p).delay.current) := by
      have same := congrArg (List.map f) unringed
      rw [List.map_map, List.map_map] at same
      exact (List.map_congr_left fun m _ => (h m).symm).trans (same.trans (List.map_congr_left fun m _ => h _))
    have still : ∀ e ∈ ms.map Member.energy, e = 0 := by
      rw [kept Member.energy fun _ => rfl]
      simp [Member.released]
    refine ⟨u, step, congrArg Prog.state release, (congrArg Prog.delay release).trans ?_,
      (congrArg (fun x : Prog => x.members.map (·.spec)) release).trans (kept (·.spec) fun _ => rfl), ?_,
      congrArg (fun x : Prog => x.meter.frameCount) release, (congrArg Prog.gain release).trans rfl,
      (congrArg Prog.inputStamp release).trans rfl,
      (congrArg (fun x : Prog => x.members.map fun m => { m with ring := none }) release).trans unringed, ?_, fun on => ?_,
      fun laws => ?_, rest⟩
    · exact congrArg (fun factor : Nat => { (s.prog p).delay with
          current := 64 * ((s.prog p).delay.current / 64), funded := (s.prog p).delay.current / 64, change := .steady, fadePos := 0,
          fill := 0, ahead := false, releasePos := 480, entryLevel := factor }) (Prog.fadeFactor_running running)
    · rw [State.reply_prog, release]
      exact List.forall_mem_map.1 still
    · rw [State.reply_dmc, dmc]
      exact off
    · rw [State.reply_wch, wch]
      exact cleared on
    · obtain ⟨rings, -⟩ := laws.1 p ((ProgState.live_iff _).2 (.inl running))
      obtain ⟨trimmed, alone⟩ := trims rings (Nat.succ_le_succ (Nat.div_le_div_right (le_max_left _ _)))
      rw [← progs p] at trimmed
      have surplus {m : Member} {r : Ring} (hm : m ∈ (s.prog p).members) (ring : m.ring = some r) :
          max ((s.prog p).delay.current / 64) (s.prog p).delay.funded / 1024 + 1 - pagesFor ((s.prog p).delay.current / 64)
            = r.rest.length - (s.prog p).delay.current / 64 / 1024
          ∧ (s.prog p).delay.current / 64 / 1024 ≤ r.rest.length := by
        obtain ⟨r', ring', length⟩ := rings m hm
        obtain rfl : r' = r := Option.some.inj (ring'.symm.trans ring)
        have least := Nat.div_le_div_right (c := 1024) (le_max_left ((s.prog p).delay.current / 64) (s.prog p).delay.funded)
        rw [pagesFor]
        omega
      refine ⟨?_, fun only => ?_⟩
      · rw [State.reply_prog, trimmed]
        intro m hm
        obtain ⟨n, hn, rfl⟩ := List.mem_map.1 hm
        obtain ⟨r, ring, -⟩ := rings n hn
        obtain ⟨same, enough⟩ := surplus hn ring
        refine ⟨_, congrArg (Option.map _) ((Member.released_ring _ n).trans ring), ?_⟩
        rw [List.length_drop, same]
        omega
      · obtain ⟨wait, others, free, seen⟩ := alone only
        have freed : u.dmc.free = s.dmc.free ++ (s.prog p).members.flatMap (fun m =>
            match m.ring with | none => [] | some r => r.rest.take (r.rest.length - (s.prog p).delay.current / 64 / 1024)) := by
          rw [dmc, free]
          refine congrArg (s.dmc.free ++ ·) (List.flatMap_congr fun m hm => ?_)
          obtain ⟨r, ring, -⟩ := rings m hm
          rw [Member.oldest, ring, (surplus hm ring).1]
        refine ⟨?_, fun q other => (progs q).trans (others q other), freed, ?_, ?_⟩
        · rw [State.reply_dmc, dmc, wait]
        · rw [State.reply_prog, trimmed, List.map_map]
          refine List.map_congr_left fun m hm => ?_
          obtain ⟨r, ring, -⟩ := rings m hm
          rw [Function.comp_apply, Member.trimmed, Member.released_ring, ring, (surplus hm ring).1]
          rfl
        · rw [wch, lnk, seen, ← dmc]
          exact ⟨rfl, rfl⟩
  · have admitted : ProgState.refusesReset (s.prog p).state = none := by rw [running]; rfl
    have step : exec .progReset s = .next ((s.modProg p Prog.restart).reply 0x23 tag .ok .empty) :=
      State.carry_body takes (ofKind := (· == 0x23)) rfl (bodyNumber_byte _)
        (onProg_admitted (progOf_byte p) admitted progResetAnswer) takes.restart
    rw [step, State.modProg_eq_setProg]
    rfl

end Sys2Proof.Machine

/-! PROG_DEFINE: members judged one by one, and a definition funded at the least delay (R47, R48, R50, R74, R84, R146). -/
namespace Sys2Proof.Machine

/-! ## The first programme that holds something -/

/-- The ascending search over the programmes finds the lowest of which the property holds. -/
theorem find_allProgs_eq_some {f : ProgId → Bool} {q : ProgId} (holds : f q = true) (lowest : ∀ e, e < q → ¬f e = true) :
    allProgs.find? f = some q := by
  have ascending : allProgs.Pairwise (· < ·) := by decide
  cases found : allProgs.find? f with
  | none => exact absurd holds (List.find?_eq_none.1 found q (mem_allProgs q))
  | some e =>
    obtain ⟨he, before, after, split, none⟩ := List.find?_eq_some_iff_append.1 found
    rcases lt_trichotomy e q with below | rfl | above
    · exact absurd he (lowest e below)
    · rfl
    · have member := mem_allProgs q
      rw [split] at member ascending
      rcases List.mem_append.1 member with first | rest
      · exact absurd holds (by simpa using none q first)
      · rcases List.mem_cons.1 rest with rfl | last
        · exact absurd above (lt_irrefl _)
        · exact absurd (List.rel_of_pairwise_cons (List.pairwise_append.1 ascending).2.1 last) above.asymm

theorem find_allProgs_eq_none {f : ProgId → Bool} (free : ∀ q, ¬f q = true) : allProgs.find? f = none :=
  List.find?_eq_none.2 fun q _ => free q

/-! ## Members judged (R47) -/

theorem laneOf_outside {n : Nat} (h : 8 ≤ n) : laneOf n = none := laneOf_above (by omega)

theorem judgeMember_inputRange (progs : Vector Prog 16) (earlier : List MemberDef) {m : MemberBody} (outside : 8 ≤ m.lane ∨ 8 ≤ m.slot) :
    judgeMember progs earlier m = .error (.inputRange, none) := by
  unfold judgeMember
  split
  · next lane slot inLane inSlot =>
    rcases outside with h | h
    · rw [laneOf_outside h] at inLane
      cases inLane
    · rw [laneOf_outside h] at inSlot
      cases inSlot
  · rfl

theorem judgeMember_outputRange (progs : Vector Prog 16) (earlier : List MemberDef) {m : MemberBody} (inside : ¬(8 ≤ m.lane ∨ 8 ≤ m.slot))
    {o : Nat × Nat} (placed : m.placement = some o) (outside : 8 ≤ o.1 ∨ 8 ≤ o.2) :
    judgeMember progs earlier m = .error (.outputRange, none) := by
  have nowhere : placementOf o = none := by
    unfold placementOf
    split
    · next lane slot inLane inSlot =>
      rcases outside with h | h
      · rw [laneOf_outside h] at inLane
        cases inLane
      · rw [laneOf_outside h] at inSlot
        cases inSlot
    · rfl
  have lane : laneOf m.lane = some ⟨m.lane, by omega⟩ := dif_pos (by omega)
  have slot : laneOf m.slot = some ⟨m.slot, by omega⟩ := dif_pos (by omega)
  simp only [judgeMember, lane, slot, placed, Option.map_some, nowhere]

/-- A member within range is the body of a member. -/
theorem MemberBody.of_inside {m : MemberBody} (inside : ¬(8 ≤ m.lane ∨ 8 ≤ m.slot))
    (outInside : ¬∃ o, m.placement = some o ∧ (8 ≤ o.1 ∨ 8 ≤ o.2)) : ∃ d : MemberDef, d.body = m := by
  refine (MemberBody.range_iff m).1 ?_
  have lane : m.lane < 8 := by omega
  have slot : m.slot < 8 := by omega
  cases placed : m.placement with
  | none => simp [lane, slot]
  | some o =>
    have range : ¬(8 ≤ o.1 ∨ 8 ≤ o.2) := fun h => outInside ⟨o, placed, h⟩
    simp [lane, slot, show o.1 < 8 by omega, show o.2 < 8 by omega]

section
variable {progs : Vector Prog 16} {earlier : List MemberDef} {d : MemberDef}

/-- A programme holds a member's input channel. -/
def HoldsInput (progs : Vector Prog 16) (d : MemberDef) (q : ProgId) : Prop :=
  ∃ x ∈ (progs[q]).members, x.spec.lane = d.lane ∧ x.spec.slot = d.slot

/-- A programme holds a member's output slot. -/
def HoldsOutput (progs : Vector Prog 16) (d : MemberDef) (q : ProgId) : Prop :=
  ∃ x ∈ (progs[q]).members, ∃ o, x.spec.placement = some o ∧ d.placement = some o

/-- The lowest programme that holds the input channel is its holder. -/
theorem inputHolder_lowest {q : ProgId} (holds : HoldsInput progs d q) (lowest : ∀ e, e < q → ¬HoldsInput progs d e) :
    inputHolder progs d.lane d.slot = some q := by
  have any (e : ProgId) : ((progs[e]).members.any fun m => m.spec.lane == d.lane && m.spec.slot == d.slot) = true
      ↔ HoldsInput progs d e := by simp [HoldsInput]
  exact find_allProgs_eq_some ((any q).2 holds) fun e below => mt (any e).1 (lowest e below)

theorem inputHolder_none (free : ∀ q, ¬HoldsInput progs d q) : inputHolder progs d.lane d.slot = none := by
  refine find_allProgs_eq_none fun e held => free e ?_
  simpa [HoldsInput] using held

/-- The lowest programme that holds the output slot is its holder. -/
theorem outputHolder_lowest {q : ProgId} (holds : HoldsOutput progs d q) (lowest : ∀ e, e < q → ¬HoldsOutput progs d e) :
    (d.placement.bind fun o => outputHolder progs o.1 o.2) = some q := by
  obtain ⟨_, _, o, _, placed⟩ := id holds
  have any (e : ProgId) : ((progs[e]).members.any fun m => m.spec.placement == some (o.1, o.2)) = true ↔ HoldsOutput progs d e := by
    simp [HoldsOutput, placed]
  rw [placed, Option.bind_some]
  exact find_allProgs_eq_some ((any q).2 holds) fun e below => mt (any e).1 (lowest e below)

theorem outputHolder_none (free : ∀ q, ¬HoldsOutput progs d q) : (d.placement.bind fun o => outputHolder progs o.1 o.2) = none := by
  cases placed : d.placement with
  | none => rfl
  | some o =>
    rw [Option.bind_some]
    refine find_allProgs_eq_none fun e held => free e ?_
    simpa [HoldsOutput, placed] using held

/-- An earlier member of the request has the same input channel. -/
def RepeatsInput (earlier : List MemberDef) (d : MemberDef) : Prop := ∃ e ∈ earlier, e.lane = d.lane ∧ e.slot = d.slot

/-- An earlier member of the request has the same output slot. -/
def RepeatsOutput (earlier : List MemberDef) (d : MemberDef) : Prop := d.placement.isSome = true ∧ ∃ e ∈ earlier, e.placement = d.placement

theorem repeatsInput_iff : (earlier.any fun e => e.lane == d.lane && e.slot == d.slot) = true ↔ RepeatsInput earlier d := by
  simp [RepeatsInput]

theorem repeatsOutput_iff : (d.placement.isSome && earlier.any fun e => e.placement == d.placement) = true ↔ RepeatsOutput earlier d := by
  simp [RepeatsOutput]

theorem judgeMember_inputTaken {q : ProgId} (holds : HoldsInput progs d q) (lowest : ∀ e, e < q → ¬HoldsInput progs d e) :
    judgeMember progs earlier d.body = .error (.inputTaken, some q) := by
  rw [judgeMember_body, inputHolder_lowest holds lowest, if_pos Option.isSome_some]

theorem judgeMember_inputRepeated (free : ∀ q, ¬HoldsInput progs d q) (again : RepeatsInput earlier d) :
    judgeMember progs earlier d.body = .error (.inputRepeated, none) := by
  rw [judgeMember_body, inputHolder_none free, if_neg (by simp), if_pos (repeatsInput_iff.2 again)]

theorem judgeMember_outputTaken (free : ∀ q, ¬HoldsInput progs d q) (once : ¬RepeatsInput earlier d) {q : ProgId}
    (holds : HoldsOutput progs d q) (lowest : ∀ e, e < q → ¬HoldsOutput progs d e) :
    judgeMember progs earlier d.body = .error (.outputTaken, some q) := by
  rw [judgeMember_body, inputHolder_none free, if_neg (by simp), if_neg (mt repeatsInput_iff.1 once), outputHolder_lowest holds lowest,
    if_pos Option.isSome_some]

theorem judgeMember_outputRepeated (free : ∀ q, ¬HoldsInput progs d q) (once : ¬RepeatsInput earlier d)
    (outFree : ∀ q, ¬HoldsOutput progs d q) (again : RepeatsOutput earlier d) :
    judgeMember progs earlier d.body = .error (.outputRepeated, none) := by
  rw [judgeMember_body, inputHolder_none free, if_neg (by simp), if_neg (mt repeatsInput_iff.1 once), outputHolder_none outFree,
    if_neg (by simp), if_pos (repeatsOutput_iff.2 again)]

end

/-- The claims of the programmes of a table. -/
def claimsOf (progs : Vector Prog 16) : List MemberBody := allProgs.flatMap fun p => (progs[p]).members.map (·.spec.body)

theorem claimed_claimsOf (progs : Vector Prog 16) : Claimed progs (claimsOf progs) := by
  intro e
  simp [claimsOf, mem_allProgs]

/-- A member that meets no condition of R47 is taken as it was sent. -/
theorem judgeMember_fits {progs : Vector Prog 16} {earlier : List MemberDef} {m : MemberBody}
    (fits : MemberFits progs (earlier.map MemberDef.body) m) : ∃ d : MemberDef, d.body = m ∧ judgeMember progs earlier m = .ok d := by
  obtain ⟨lane, slot, placed, input, inputOnce, output, outputOnce⟩ := fits
  obtain ⟨d, rfl⟩ := MemberBody.of_inside (m := m) (by omega) fun ⟨o, ho, outside⟩ => by
    have := placed o ho
    omega
  refine ⟨d, rfl, judgeMember_clear (claimed_claimsOf progs) earlier d ((d.clearOf_iff _).2 fun e he clash => ?_)⟩
  rcases List.mem_append.1 he with claimed | before
  · obtain ⟨p, x, hx, rfl⟩ := (claimed_claimsOf progs e).1 claimed
    rcases clash with channel | ⟨isPlaced, same⟩
    · exact input p x hx channel
    · obtain ⟨o, ho⟩ := Option.isSome_iff_exists.1 isPlaced
      have there : x.spec.placement = some o := (x.spec.body_placement o.1 o.2).1 (by rw [same]; simp [MemberDef.body, ho])
      exact output (o.1.val, o.2.val) (by simp [MemberDef.body, ho]) p x hx o there ⟨rfl, rfl⟩
  · rcases clash with channel | ⟨isPlaced, same⟩
    · exact inputOnce e before channel
    · obtain ⟨o, ho⟩ := Option.isSome_iff_exists.1 isPlaced
      exact outputOnce (o.1.val, o.2.val) (by simp [MemberDef.body, ho]) e before (same.trans (by simp [MemberDef.body, ho]))

theorem judgeMembers_fits {progs : Vector Prog 16} (ms : List MemberBody) (earlier : List MemberDef)
    (fits : ∀ (i : Nat) (m : MemberBody), ms[i]? = some m → MemberFits progs (earlier.map MemberDef.body ++ ms.take i) m) :
    ∃ defs, judgeMembers progs earlier ms = .ok defs ∧ defs.map MemberDef.body = earlier.map MemberDef.body ++ ms := by
  induction ms generalizing earlier with
  | nil => exact ⟨earlier, rfl, by simp⟩
  | cons m ms ih =>
    obtain ⟨d, rfl, judged⟩ := judgeMember_fits (by simpa using fits 0 m rfl)
    obtain ⟨defs, others, bodies⟩ := ih (earlier ++ [d]) fun i n hn => by simpa using fits (i + 1) n hn
    exact ⟨defs, by rw [judgeMembers, judged]; exact others, by simpa using bodies⟩

theorem judgeMembers_append {progs : Vector Prog 16} {first : List MemberBody} (rest : List MemberBody) {earlier defs : List MemberDef}
    (taken : judgeMembers progs earlier first = .ok defs) :
    judgeMembers progs earlier (first ++ rest) = judgeMembers progs defs rest := by
  induction first generalizing earlier with
  | nil =>
    cases taken
    rfl
  | cons m first ih =>
    rw [judgeMembers] at taken
    rw [List.cons_append, judgeMembers]
    cases judged : judgeMember progs earlier m with
    | error c => rw [judged] at taken; cases taken
    | ok d =>
      rw [judged] at taken
      exact ih taken

/-- Those before it taken, the conflict of the member at an index is that of the request. -/
theorem judgeMembers_fails {progs : Vector Prog 16} {ms : List MemberBody} {i : Nat} {m : MemberBody} (here : ms[i]? = some m)
    (fits : ∀ (j : Nat) (n : MemberBody), j < i → ms[j]? = some n → MemberFits progs (ms.take j) n) :
    ∃ earlier : List MemberDef, earlier.map MemberDef.body = ms.take i
      ∧ ∀ c, judgeMember progs earlier m = .error c → judgeMembers progs [] ms = .error (i, c) := by
  obtain ⟨inside, rfl⟩ := List.getElem?_eq_some_iff.1 here
  obtain ⟨before, taken, bodies⟩ := judgeMembers_fits (progs := progs) (ms.take i) [] fun j n hn => by
    have small : j < i := (List.getElem?_eq_some_iff.1 hn).1.trans_le (List.length_take_le i ms)
    rw [List.getElem?_take_of_lt small] at hn
    simpa [List.take_take, small.le] using fits j n small hn
  refine ⟨before, bodies, fun c failed => ?_⟩
  have count : before.length = i := by
    have lengths := congrArg List.length bodies
    simpa [inside.le] using lengths
  have split : ms = ms.take i ++ ms[i] :: ms.drop (i + 1) := by rw [← List.drop_eq_getElem_cons inside, List.take_append_drop]
  rw [split, judgeMembers_append _ taken, judgeMembers, failed]
  show Except.error (before.length, c) = _
  rw [count]

end Sys2Proof.Machine

/-! A definition funded at the least delay, and PROG_DEFINE answered (R48, R50, R74, R80, R84, R146). -/
namespace Sys2Proof.Machine

/-! ## Rings of one page (R69) -/

/-- Rings of one page each take the head of the free list, one page for each member. -/
theorem Dmc.createRings_one (d : Dmc) (ms : List Member) (enough : ms.length ≤ d.free.length) :
    (d.createRings 1 ms).1 = { d with free := d.free.drop ms.length }
      ∧ ∀ m ∈ (d.createRings 1 ms).2, ∃ page ∈ d.free.take ms.length,
          m.ring = some { writePage := page, rest := [], writeOffset := 0, historyStart := 0 } := by
  induction ms generalizing d with
  | nil => exact ⟨rfl, by simp [Dmc.createRings]⟩
  | cons m ms ih =>
    obtain ⟨free, wait, dram⟩ := d
    cases free with
    | nil => simp at enough
    | cons page free =>
      obtain ⟨left, rings⟩ := ih { free := free, wait := wait, dram := dram } (by simpa using enough)
      refine ⟨left, fun x hx => ?_⟩
      rcases List.mem_cons.1 hx with rfl | hx
      · exact ⟨page, by simp, rfl⟩
      · obtain ⟨q, hq, ring⟩ := rings x hx
        exact ⟨q, by simp [hq], ring⟩

/-! ## A programme starts (R50, R84, R123, R146) -/

/-- The record of a programme that starts with a delay. -/
theorem ProgSide.startProg_prog_self (v : ProgSide) (p : ProgId) (delay : Nat) :
    (v.startProg p delay).prog p = { v.prog p with
      state := .running
      inputStamp := 0
      members := (v.dmc.createRings (pagesFor delay) (v.prog p).members).2.map fun m =>
        { m.clearMeter with tap := ((64 * delay : Nat) : Int) - 64 * v.latencies[m.spec.lane] }
      delay := { (v.prog p).delay with funded := delay, current := 64 * delay, change := .steady, ahead := false }
      meter := (v.prog p).meter.cleared
      gain := (v.prog p).gain.start
      report := { (v.prog p).report with counter := 0 } } := by
  unfold ProgSide.startProg
  dsimp only
  rw [ProgSide.replaced_self]
  simp only [Prog.startMeter, Prog.setTaps, List.map_map]
  rfl

/-- The default gain of 0 dB is the factor 1. -/
theorem GainRec.fresh_start_factor : GainRec.fresh.start.factor = 2 ^ 20 := by decide +kernel

/-! ## A definition (R48, R74) -/

/-- A definition needs one page a channel. -/
theorem Prog.defined_pages (defs : List MemberDef) : pagesFor (Prog.defined defs).delay.requested = 1 := by
  rw [show (Prog.defined defs).delay.requested = 48 from rfl, pagesFor, Nat.div_eq_of_lt (by decide)]

/-- With a page for each member free a definition starts at the least delay, and the pool's watches judge what is left. -/
theorem ProgSide.define_starts {v : ProgSide} {p : ProgId} {defs : List MemberDef} (some_ : 1 ≤ defs.length)
    (enough : defs.length ≤ v.dmc.free.length) :
    (v.define p (Prog.defined defs)).prog p = { Prog.defined defs with
        state := .running
        members := (v.dmc.createRings 1 (Prog.defined defs).members).2.map fun m =>
          { m.clearMeter with tap := ((64 * 48 : Nat) : Int) - 64 * v.latencies[m.spec.lane] }
        delay := { DelayRec.fresh with funded := 48, current := 64 * 48 }
        meter := (Prog.defined defs).meter.cleared
        gain := GainRec.fresh.start }
      ∧ (v.define p (Prog.defined defs)).dmc = { v.dmc with free := v.dmc.free.drop defs.length }
      ∧ (v.define p (Prog.defined defs)).panel = v.panel.observe .pool (freePages (v.dmc.free.length - defs.length)) := by
  have self : ProgSide.prog { v with progs := v.progs.set p (Prog.defined defs) } p = Prog.defined defs := v.replaced_self v.dmc p _
  have members : (Prog.defined defs).members.length = defs.length := List.length_map _
  have funded : ProgSide.fundNew p { v with progs := v.progs.set p (Prog.defined defs) }
      = ProgSide.startProg p 48 { v with progs := v.progs.set p (Prog.defined defs) } := by
    unfold ProgSide.fundNew
    dsimp only
    rw [self, members]
    exact if_pos (by rw [Prog.defined_pages]; omega)
  have dmc : (ProgSide.startProg p 48 { v with progs := v.progs.set p (Prog.defined defs) }).dmc
      = { v.dmc with free := v.dmc.free.drop defs.length } := by
    have rings := (Dmc.createRings_one v.dmc (Prog.defined defs).members (by omega)).1
    unfold ProgSide.startProg
    rw [self]
    rw [members] at rings
    exact rings
  refine ⟨?_, ?_, ?_⟩
  · rw [ProgSide.define, ProgSide.event_prog, funded, ProgSide.startProg_prog_self, self]
    rfl
  · rw [ProgSide.define, ProgSide.event_dmc, funded, dmc]
  · rw [ProgSide.define, ProgSide.event_panel, funded, dmc]
    dsimp only
    rw [List.length_drop, if_neg (by omega)]
    rfl

/-- With fewer pages free than members a definition waits on the list, its deficit alarm raised. -/
theorem ProgSide.define_waits {v : ProgSide} {p : ProgId} {defs : List MemberDef} (short : v.dmc.free.length < defs.length)
    (off : p ∉ v.dmc.wait) :
    (v.define p (Prog.defined defs)).prog p = { Prog.defined defs with state := .waiting }
      ∧ (v.define p (Prog.defined defs)).dmc = { v.dmc with wait := v.dmc.wait ++ [p] }
      ∧ (v.define p (Prog.defined defs)).panel = v.panel.raise (.delayDeficit p) := by
  have self : ProgSide.prog { v with progs := v.progs.set p (Prog.defined defs) } p = Prog.defined defs := v.replaced_self v.dmc p _
  have members : (Prog.defined defs).members.length = defs.length := List.length_map _
  have none : pagesWithin v.dmc.free.length defs.length = 0 := by
    rw [pagesWithin, Nat.div_eq_of_lt short, Nat.min_zero]
  have waits : ProgSide.fundNew p { v with progs := v.progs.set p (Prog.defined defs) }
      = (ProgSide.modProg { v with progs := v.progs.set p (Prog.defined defs) } p fun x => { x with state := .waiting }).joinWait p := by
    unfold ProgSide.fundNew
    dsimp only
    rw [self, members]
    rw [if_neg (by rw [Prog.defined_pages]; omega), none]
    exact if_neg (by decide)
  have joined (u : ProgSide) (wait : u.dmc.wait = v.dmc.wait) : u.joinWait p
      = ({ u with dmc := { u.dmc with wait := u.dmc.wait ++ [p] } } : ProgSide).onPanel (Panel.raise (.delayDeficit p)) :=
    if_neg (wait ▸ off)
  have view := waits.trans (joined _ rfl)
  refine ⟨?_, ?_, ?_⟩
  · rw [ProgSide.define, ProgSide.event_prog, waits, ProgSide.joinWait_prog, ProgSide.modProg_prog_self, self]
  · rw [ProgSide.define, ProgSide.event_dmc, view, ProgSide.onPanel_dmc]
    rfl
  · rw [ProgSide.define, ProgSide.event_panel, view, ProgSide.onPanel_dmc, ProgSide.onPanel_panel]
    exact if_pos rfl

/-- A definition writes nothing into the delay memory. -/
theorem ProgSide.define_dram (v : ProgSide) (p : ProgId) (x : Prog) : (v.define p x).dmc.dram = v.dmc.dram := by
  have joined (u : ProgSide) : (u.joinWait p).dmc.dram = u.dmc.dram := by
    unfold ProgSide.joinWait
    split <;> rfl
  have started (u : ProgSide) (delay : Nat) : (u.startProg p delay).dmc.dram = u.dmc.dram := Dmc.createRings_dram _ _ _
  rw [ProgSide.define, ProgSide.event_dmc]
  unfold ProgSide.fundNew
  dsimp only
  split
  · rw [started]
  · split
    · rw [joined, started]
    · rw [joined, ProgSide.modProg_dmc]

/-! ## PROG_DEFINE answered -/

/-- A definition for an UNDEFINED programme is answered as its members are judged. -/
theorem exec_progDefine {s : State} {tag : Byte} {body : List Byte} {ms : List MemberBody} {p : ProgId} (takes : s.Takes 0x20 tag body)
    (read : bodyProgDefine body = some (p.val, ms)) (undefined : (s.prog p).state = .undefined) {status : Status} {b : ReplyBody}
    {t : State} (answer : progDefineAnswer ms p s = (status, b, t)) (restart : t.lnk.restart = .none) :
    exec .progDefine s = .next (t.reply 0x20 tag status b) :=
  State.carry_body takes (ofKind := (· == 0x20)) rfl read
    ((onProg_admitted (progOf_val p) (by rw [undefined]; rfl) (progDefineAnswer ms)).trans answer) restart

/-- A member that fails makes the request CONFLICT, and nothing changes. -/
theorem exec_progDefine_conflict {s : State} {tag : Byte} {body : List Byte} {ms : List MemberBody} {p : ProgId}
    (takes : s.Takes 0x20 tag body) (read : bodyProgDefine body = some (p.val, ms)) (undefined : (s.prog p).state = .undefined)
    {i : Nat} {kind : ConflictKind} {holder : Option ProgId} (failed : judgeMembers s.progs [] ms = .error (i, kind, holder)) :
    exec .progDefine s = .next (s.reply 0x20 tag .conflict (.conflict i kind holder)) :=
  exec_progDefine takes read undefined (by rw [progDefineAnswer, failed]) takes.restart

/-- A definition taken is answered OK with the new state. -/
theorem exec_progDefine_taken {s : State} {tag : Byte} {body : List Byte} {ms : List MemberBody} {p : ProgId}
    (takes : s.Takes 0x20 tag body) (read : bodyProgDefine body = some (p.val, ms)) (undefined : (s.prog p).state = .undefined)
    {defs : List MemberDef} (taken : judgeMembers s.progs [] ms = .ok defs) :
    let u := s.onProgs (ProgSide.define p (Prog.defined defs))
    exec .progDefine s = .next (u.reply 0x20 tag .ok (.defined (u.prog p).state)) :=
  exec_progDefine takes read undefined (by rw [progDefineAnswer, taken]) ((State.onProgs_restart (.define _ p _)).trans takes.restart)

theorem State.latencies_lane (s : State) (l : LaneId) : s.latencies[l] = (s.lane l).latency := by simp [State.latencies, State.lane]

theorem freePages_sub {all taken : Nat} (h : taken ≤ all) :
    freePages (all - taken) = fun | .freePages => some ((all : Int) - taken) | _ => none := by
  funext m
  cases m <;> simp [freePages, h]

/-- The programme defined carries the members as they were sent. -/
theorem Prog.FundedAs.of_bodies {defs : List MemberDef} {x : Prog} (funded : (Prog.defined defs).FundedAs x) :
    List.Forall₂ MemberDef.Of (x.members.map (·.spec)) (defs.map MemberDef.body) := by
  have specs : x.members.map (·.spec) = defs := funded.specs.trans (by
    rw [Prog.defined, List.map_map]
    exact List.map_id defs)
  rw [specs]
  exact List.forall₂_map_right_iff.2 (List.forall₂_same.2 fun d _ => (MemberDef.of_iff d _).2 rfl)

/-- Settles O33: the members are judged in order up to the first that fails; a definition taken is funded at the least delay. -/
theorem progDefineTakenOrConflict : Obligations.ProgDefineTakenOrConflict := by
  intro s tag body ms p takes read undefined
  refine ⟨fun i m here fits => ?_, fun fits => ?_⟩
  · obtain ⟨earlier, bodies, fails⟩ := judgeMembers_fails here fits
    have answer {kind : ConflictKind} {holder : Option ProgId} (failed : judgeMember s.progs earlier m = .error (kind, holder)) :=
      exec_progDefine_conflict takes read undefined (fails _ failed)
    intro answers outside outputOutside holds again feeds outputAgain
    refine ⟨fun out => answer (judgeMember_inputRange _ _ out),
      fun inside ⟨o, placed, out⟩ => answer (judgeMember_outputRange _ _ inside placed out), fun inside outInside => ?_⟩
    obtain ⟨d, rfl⟩ := MemberBody.of_inside inside outInside
    have input (q : ProgId) : holds q ↔ HoldsInput s.progs d q :=
      exists_congr fun x => and_congr_right fun _ => and_congr Fin.ext_iff.symm Fin.ext_iff.symm
    have output (q : ProgId) : feeds q ↔ HoldsOutput s.progs d q :=
      exists_congr fun x => and_congr_right fun _ => exists_congr fun o => and_congr_right fun _ => d.body_placement o.1 o.2
    have repeated : again ↔ RepeatsInput earlier d := by
      simp only [again, ← bodies, List.mem_map, exists_exists_and_eq_and]
      exact exists_congr fun e => and_congr_right fun _ => e.body_channel d.lane d.slot
    have outRepeated (h : outputAgain) : RepeatsOutput earlier d := by
      simp only [outputAgain, ← bodies, List.mem_map, exists_exists_and_eq_and] at h
      obtain ⟨e, he, placed, same⟩ := h
      obtain ⟨o, ho⟩ := Option.isSome_iff_exists.1 (same ▸ placed)
      obtain ⟨q, hq, rfl⟩ := Option.map_eq_some_iff.1 ho
      exact ⟨Option.isSome_iff_exists.2 ⟨q, hq⟩, e, he, ((e.body_placement q.1 q.2).1 (same.trans ho)).trans hq.symm⟩
    refine ⟨fun q held lowest => ?_, fun free twice => ?_, fun free once q fed lowest => ?_, fun free once outFree twice => ?_⟩
    · exact answer (judgeMember_inputTaken ((input q).1 held) fun e below => mt (input e).2 (lowest e below))
    · exact answer (judgeMember_inputRepeated (fun q => mt (input q).2 (free q)) (repeated.1 twice))
    · exact answer (judgeMember_outputTaken (fun q => mt (input q).2 (free q)) (mt repeated.2 once) ((output q).1 fed)
        fun e below => mt (output e).2 (lowest e below))
    · exact answer (judgeMember_outputRepeated (fun q => mt (input q).2 (free q)) (mt repeated.2 once)
        (fun q => mt (output q).2 (outFree q)) (outRepeated twice))
  · have least := (bodyProgDefine_length read).1
    obtain ⟨defs, taken, bodies⟩ := judgeMembers_fits ms [] fits
    obtain rfl : defs.map MemberDef.body = ms := bodies
    have funded := s.progSide.define_funded p (x := Prog.defined defs) rfl
    have others (q : ProgId) (h : q ≠ p) := s.progSide.define_prog_other (Prog.defined defs) h
    have starts := ProgSide.define_starts (v := s.progSide) (p := p) (defs := defs)
    have waits := ProgSide.define_waits (v := s.progSide) (p := p) (defs := defs)
    have dram := s.progSide.define_dram p (Prog.defined defs)
    have step := exec_progDefine_taken takes read undefined taken
    obtain ⟨progs, dmc, wch, -, rest⟩ := s.onProgs_fields (ProgSide.define p (Prog.defined defs))
    simp only [State.progSide_prog, State.progSide_dmc, State.progSide_panel, ← dmc, ← progs] at funded others starts waits dram
    generalize s.onProgs (ProgSide.define p (Prog.defined defs)) = u at *
    have settings := funded.settings
    rw [List.length_map] at least
    refine ⟨u, step, funded.of_bodies, settings.window, settings.relGate, settings.minCount, funded.paused, settings.gain,
      settings.period, congrArg ReportRec.selection funded.report, fun enough => ?_, fun short off => ?_, others, dram, rest⟩
    · rw [List.length_map] at enough ⊢
      obtain ⟨record, memory, panel⟩ := starts least enough
      rw [State.reply_dmc, State.reply_wch, memory, wch, panel, record]
      refine ⟨rfl, rfl, rfl, rfl, rfl, GainRec.fresh_start_factor, rfl, rfl, rfl, rfl, rfl, fun m hm => ?_, rfl, rfl, ?_⟩
      · obtain ⟨n, hn, rfl⟩ := List.mem_map.1 hm
        obtain ⟨page, among, ring⟩ := (Dmc.createRings_one s.dmc (Prog.defined defs).members (by simpa [Prog.defined] using enough)).2 n hn
        rw [show (Prog.defined defs).members.length = defs.length from List.length_map _] at among
        refine ⟨?_, rfl, page, among, ring⟩
        show ((64 * 48 : Nat) : Int) - 64 * (s.latencies[n.spec.lane] : Nat) = 64 * (48 - ((s.lane n.spec.lane).latency : Int))
        rw [State.latencies_lane]
        omega
      · exact congrArg (fun left => (Panel.observe .pool left s.panel).wch) (freePages_sub enough)
    · rw [List.length_map] at short
      obtain ⟨record, memory, panel⟩ := waits short off
      rw [State.reply_dmc, State.reply_wch, memory, wch, panel, record]
      refine ⟨rfl, rfl, fun m hm => ?_, rfl, rfl, rfl, Panel.raise_isRaised _ _⟩
      obtain ⟨d, -, rfl⟩ := List.mem_map.1 hm
      rfl

end Sys2Proof.Machine

/-! The programmes at an output frame boundary: the record and the delay memory that each one's turn leaves (R54, R55, R65, R89, R92, R95
to R97, R102, R105). -/
namespace Sys2Proof.Machine

/-! ## A step of a glide (R89, R92) -/

/-- The current delay after a boundary. -/
def Prog.nextCurrent (x : Prog) : Nat :=
  if x.state = .running ∧ x.delay.change = .gliding then
    if x.delay.current < 64 * x.delay.funded then x.delay.current + 1
    else if 64 * x.delay.funded < x.delay.current then x.delay.current - 1
    else x.delay.current
  else x.delay.current

theorem Prog.moveDelay_self (x : Prog) : x.moveDelay x.delay.current = x := by
  have still : x.members.map (fun m : Member => { m with tap := m.tap + ((x.delay.current : Int) - x.delay.current) }) = x.members := by
    simp
  rw [Prog.moveDelay, still]

/-- The delay moves to its next value, and every tap with it. -/
theorem Prog.glideStep_eq (x : Prog) : x.glideStep = x.moveDelay x.nextCurrent := by
  unfold Prog.glideStep Prog.nextCurrent
  dsimp only
  split
  · split
    · rfl
    · split
      · rfl
      · exact x.moveDelay_self.symm
  · exact x.moveDelay_self.symm

/-! ## The bus written (R54, R65) -/

/-- A member's sample written at its ring's write point. -/
def Front.writeMember (f : Front) (dram : Memory) (m : Member) : Memory :=
  match m.ring with
  | none => dram
  | some r => writeSample dram r.writePage r.writeOffset (f.busSample m)

/-- A member whose ring's write point has moved on. -/
def Member.advanced (m : Member) : Member := { m with ring := m.ring.map Ring.advance }

/-- The bus frame is written member by member, and each write point moves on. -/
theorem writeBus_eq (f : Front) (dram : Memory) (ms : List Member) :
    writeBus dram ms (ms.map f.busSample) = (ms.foldl f.writeMember dram, ms.map Member.advanced) := by
  induction ms generalizing dram with
  | nil => rfl
  | cons m ms ih =>
    have first : writeMember1 dram m (f.busSample m) = (f.writeMember dram m, m.advanced) := by
      obtain ⟨_, _, ring, _, _, _, _⟩ := m
      cases ring <;> rfl
    rw [List.map_cons, writeBus, first, ih]
    rfl

/-! ## The record carried over a boundary (R55, R89, R105) -/

/-- A member's history after a boundary of a programme in this state. -/
def Front.nextHistory (f : Front) (state : ProgState) (m : Member) : List Int :=
  if state = .running then takeSample (f.busSample m) m.history else m.history

/-- A member after a boundary of a programme in this state whose delay has risen by so much, but for its output sample. -/
def Front.carryMember (f : Front) (state : ProgState) (rise : Int) (m : Member) : Member :=
  { m with
    tap := m.tap + rise
    ring := m.ring.map Ring.advance
    history := f.nextHistory state m
    energy := if state = .running then m.energy + (weightedSample (f.nextHistory state m)).natAbs ^ 2 else m.energy }

/-- The product of the pair's weighted samples of a boundary. -/
def Front.crossOf (f : Front) (x : Prog) : Int :=
  match firstOfRole .l x.members, firstOfRole .r x.members with
  | some a, some b => weightedSample (f.nextHistory x.state a) * weightedSample (f.nextHistory x.state b)
  | _, _ => 0

/-- A programme's record after a boundary, but for its gain record and the output samples. -/
def Front.carryProg (f : Front) (x : Prog) : Prog :=
  { x with
    members := x.members.map (f.carryMember x.state ((x.nextCurrent : Int) - x.delay.current))
    inputStamp := (x.inputStamp + 1) % 2 ^ 48
    delay := ({ x.delay with current := x.nextCurrent } : DelayRec).moveFades x.state
    meter := if x.state = .running then
        { x.meter with frameCount := x.meter.frameCount + 1, cross := x.meter.cross + f.crossOf x }
      else x.meter }

theorem firstOfRole_map (role : Role) (g : Member → Member) (spec : ∀ m, (g m).spec = m.spec) (ms : List Member) :
    firstOfRole role (ms.map g) = (firstOfRole role ms).map g := by
  rw [firstOfRole, firstOfRole, List.find?_map]
  simp only [Function.comp_def, spec]

/-- The cross sum takes the product of the pair's weighted samples. -/
theorem Front.crossTerm_eq (f : Front) (x : Prog) (g : Member → Member) (spec : ∀ m, (g m).spec = m.spec)
    (history : ∀ m, (g m).history = f.nextHistory x.state m) : crossTerm (x.members.map g) = f.crossOf x := by
  unfold crossTerm correlationPair Front.crossOf
  rw [firstOfRole_map _ g spec, firstOfRole_map _ g spec]
  cases firstOfRole .l x.members with
  | none => rfl
  | some a =>
    cases firstOfRole .r x.members with
    | none => rfl
    | some b => simp only [Option.map_some, history]

theorem Prog.carryBus_eq (f : Front) (x : Prog) :
    x.glideStep.carryBus (f.bus x.glideStep) (x.glideStep.members.map Member.advanced) = f.carryProg x := by
  have members : x.glideStep.members
      = x.members.map fun m => { m with tap := m.tap + ((x.nextCurrent : Int) - x.delay.current) } := by
    rw [Prog.glideStep_eq]
    rfl
  unfold Prog.carryBus
  dsimp only
  rw [Prog.glideStep_state]
  by_cases running : x.state = .running
  · have metered : List.zipWith Member.meter (x.glideStep.members.map Member.advanced) (f.bus x.glideStep)
        = x.members.map (f.carryMember x.state ((x.nextCurrent : Int) - x.delay.current)) := by
      rw [Front.bus, List.zipWith_map, List.zipWith_self, members, List.map_map]
      refine List.map_congr_left fun m _ => ?_
      simp [Member.meter, Member.advanced, Front.carryMember, Front.nextHistory, Front.busSample, running]
    have cross : crossTerm (x.members.map (f.carryMember x.state ((x.nextCurrent : Int) - x.delay.current))) = f.crossOf x :=
      f.crossTerm_eq x _ (fun _ => rfl) fun _ => rfl
    rw [if_pos running, Prog.meterFrame]
    dsimp only
    rw [metered, cross, Prog.glideStep_eq, Front.carryProg, if_pos running]
    rfl
  · rw [if_neg running, members, List.map_map, Prog.glideStep_eq, Front.carryProg, if_neg running]
    have carried : (Member.advanced ∘ fun m : Member => { m with tap := m.tap + ((x.nextCurrent : Int) - x.delay.current) })
        = f.carryMember x.state ((x.nextCurrent : Int) - x.delay.current) := by
      funext m
      simp [Member.advanced, Front.carryMember, Front.nextHistory, running]
    rw [carried]
    rfl

/-! ## The output samples and the gain record (R90, R95, R100, R137, R142) -/

/-- The current delay that the gain stage sees: the funded target at a jump's faded point (log 18). -/
def Prog.heardDelay (x : Prog) : Nat := if x.jumpDue then 64 * x.delay.funded else x.delay.current

/-- The tap at which a member is read, moved with the delay that the gain stage sees, and with its lane's latency. -/
def Prog.heardTap (shift : LaneId → Int) (x : Prog) (m : Member) : Member :=
  { m with tap := m.tap + ((x.heardDelay : Int) - x.delay.current) + 64 * shift m.spec.lane }

/-- The gain record that a boundary's samples pass, before its clips are counted. -/
def Prog.heardGain (x : Prog) : GainRec := x.gain.boundary ((64 * (x.inputStamp : Int) - x.heardDelay) / 64)

/-- A member's output sample. -/
def Prog.heardOut (dram : Memory) (shift : LaneId → Int) (x : Prog) (m : Member) : Int :=
  roundAway (gained x.heardGain.factor ((x.heardTap shift m).readTap dram x.newest) * x.fadeFactor) 480

theorem Prog.jumped_fadeFactor {x : Prog} (due : x.jumpDue = true) : x.jumped.fadeFactor = x.fadeFactor := by
  simp only [Prog.jumpDue, Bool.and_eq_true, beq_iff_eq, decide_eq_true_eq] at due
  obtain ⟨⟨running, fadeOut⟩, pos⟩ := due
  have running' : x.jumped.state = .running := running
  have still : x.fadeFactor = 0 := by simp [Prog.fadeFactor, running, fadeOut, pos]
  rw [still, Prog.fadeFactor, running', if_neg (by simp), Prog.jumped]
  dsimp only
  split_ifs <;> rfl

/-- The gain stage and the fade at a boundary, at a jump's faded point too. -/
theorem Prog.boundaryOutput_eq (dram : Memory) (shift : LaneId → Int) (x : Prog) : x.boundaryOutput dram shift = { x with
    gain := x.heardGain.countClips (x.members.map fun m => (x.heardTap shift m).readTap dram x.newest)
    members := x.members.map fun m => { m with out := x.heardOut dram shift m } } := by
  unfold Prog.boundaryOutput
  by_cases due : x.jumpDue = true
  · have delay : x.heardDelay = 64 * x.delay.funded := if_pos due
    have moved : x.jumped.members
        = x.members.map fun m => { m with tap := m.tap + (((64 * x.delay.funded : Nat) : Int) - x.delay.current) } := rfl
    have reads : x.jumped.members.map (fun m => ({ m with tap := m.tap + 64 * shift m.spec.lane } : Member).readTap dram x.jumped.newest)
        = x.members.map fun m => (x.heardTap shift m).readTap dram x.newest := by
      rw [moved, List.map_map]
      refine List.map_congr_left fun m _ => ?_
      rw [Prog.heardTap, delay]
      rfl
    have gain : x.jumped.gain.boundary x.jumped.outputStamp = x.heardGain := by
      rw [Prog.heardGain, delay]
      rfl
    rw [if_pos due]
    simp only [Prog.outputStage, reads, gain, x.jumped_fadeFactor due]
    rw [moved, List.zipWith_map, List.zipWith_self, List.zipWith_map_right, List.zipWith_self]
    rfl
  · have delay : x.heardDelay = x.delay.current := if_neg due
    have reads : x.members.map (fun m => ({ m with tap := m.tap + 64 * shift m.spec.lane } : Member).readTap dram x.newest)
        = x.members.map fun m => (x.heardTap shift m).readTap dram x.newest := by
      refine List.map_congr_left fun m _ => ?_
      rw [Prog.heardTap, delay, Int.sub_self, Int.add_zero]
    have gain : x.gain.boundary x.outputStamp = x.heardGain := by rw [Prog.heardGain, delay, Prog.outputStamp]
    rw [if_neg due]
    simp only [Prog.outputStage, reads, gain]
    rw [List.zipWith_map_right, List.zipWith_self]
    rfl

/-! ## A programme's turn -/

/-- A programme's record after a boundary at which these are the delay memory's contents. -/
def Front.turnProg (f : Front) (dram : Memory) (x : Prog) : Prog := (f.carryProg x).boundaryOutput dram f.tapShift

/-- The turn of a RUNNING or RELEASING programme. -/
theorem ProgSide.boundaryProg_live {f : Front} {v : ProgSide} {p : ProgId} (live : (v.prog p).state.live = true) :
    v.boundaryProg f p =
      (let dram := (v.prog p).members.foldl f.writeMember v.dmc.dram
       { v with dmc := { v.dmc with dram := dram }, progs := v.progs.set p (f.turnProg dram (v.prog p)) }) := by
  have written : (v.prog p).glideStep.members.foldl f.writeMember v.dmc.dram = (v.prog p).members.foldl f.writeMember v.dmc.dram := by
    rw [Prog.glideStep_eq, Prog.moveDelay, List.foldl_map]
    rfl
  unfold ProgSide.boundaryProg
  dsimp only
  rw [Prog.glideStep_state, if_pos live, Front.bus, writeBus_eq, ← Front.bus, Prog.carryBus_eq, written]
  rfl

theorem ProgSide.boundaryProg_idle {f : Front} {v : ProgSide} {p : ProgId} (idle : ¬(v.prog p).state.live = true) :
    v.boundaryProg f p = v := by
  unfold ProgSide.boundaryProg
  dsimp only
  rw [Prog.glideStep_state, if_neg idle]

theorem ProgSide.boundaryProg_other (f : Front) (v : ProgSide) {p q : ProgId} (h : q ≠ p) : (v.boundaryProg f p).prog q = v.prog q := by
  by_cases live : (v.prog p).state.live = true
  · rw [ProgSide.boundaryProg_live live]
    exact v.replaced_other _ _ h
  · rw [ProgSide.boundaryProg_idle live]

/-- The members whose samples a programme's turn writes. -/
def Prog.heard (x : Prog) : List Member := if x.state.live then x.members else []

theorem ProgSide.boundaryProg_dmc (f : Front) (v : ProgSide) (p : ProgId) :
    (v.boundaryProg f p).dmc = { v.dmc with dram := (v.prog p).heard.foldl f.writeMember v.dmc.dram } := by
  by_cases live : (v.prog p).state.live = true
  · rw [ProgSide.boundaryProg_live live, Prog.heard, if_pos live]
  · rw [ProgSide.boundaryProg_idle live, Prog.heard, if_neg live]
    rfl

/-! ## All programmes, ascending (log 19) -/

/-- Turns of other programmes leave a record alone. -/
theorem ProgSide.turns_other (f : Front) (ps : List ProgId) (v : ProgSide) {q : ProgId} (h : q ∉ ps) :
    (ps.foldl (ProgSide.boundaryProg f) v).prog q = v.prog q := by
  induction ps generalizing v with
  | nil => rfl
  | cons p ps ih =>
    obtain ⟨first, others⟩ := not_or.1 (mt List.mem_cons.2 h)
    exact (ih _ others).trans (v.boundaryProg_other f first)

/-- The turns write the samples of their programmes' members, one after the other. -/
theorem ProgSide.turns_dmc (f : Front) {ps : List ProgId} (once : ps.Nodup) (v : ProgSide) :
    (ps.foldl (ProgSide.boundaryProg f) v).dmc
      = { v.dmc with dram := (ps.flatMap fun p => (v.prog p).heard).foldl f.writeMember v.dmc.dram } := by
  induction ps generalizing v with
  | nil => rfl
  | cons p ps ih =>
    obtain ⟨first, others⟩ := List.nodup_cons.1 once
    have later : (ps.flatMap fun q => ((v.boundaryProg f p).prog q).heard) = ps.flatMap fun q => (v.prog q).heard :=
      List.flatMap_congr fun q hq => by rw [v.boundaryProg_other f fun e : q = p => first (e ▸ hq)]
    rw [List.foldl_cons, ih others, later, ProgSide.boundaryProg_dmc, List.flatMap_cons, List.foldl_append]

theorem allProgs_eq : allProgs = List.finRange 16 := by decide

/-- What a boundary leaves of a programme: its own turn's work, over the samples written up to its turn; those of the later
programmes follow. -/
theorem ProgSide.boundary_turn (f : Front) (v : ProgSide) (p : ProgId) : ∃ (before : Memory) (later : List ProgId), p ∉ later
    ∧ (v.boundary f).dmc.dram
        = (later.flatMap fun q => (v.prog q).heard).foldl f.writeMember ((v.prog p).heard.foldl f.writeMember before)
    ∧ ((v.prog p).state.live = true →
        (v.boundary f).prog p = f.turnProg ((v.prog p).heard.foldl f.writeMember before) (v.prog p))
    ∧ (¬(v.prog p).state.live = true → (v.boundary f).prog p = v.prog p) := by
  obtain ⟨first, later, split⟩ := List.append_of_mem (mem_allProgs p)
  have once : (first ++ p :: later).Nodup := split ▸ (by decide : allProgs.Nodup)
  have apart := List.nodup_middle.1 once
  obtain ⟨away, rest⟩ := List.nodup_cons.1 apart
  obtain ⟨notFirst, notLater⟩ := not_or.1 (mt List.mem_append.2 away)
  have mine := v.turns_other (f := f) first notFirst
  have all : v.boundary f = later.foldl (ProgSide.boundaryProg f) ((first.foldl (ProgSide.boundaryProg f) v).boundaryProg f p) := by
    rw [ProgSide.boundary, split, List.foldl_append, List.foldl_cons]
  have still : ∀ q ∈ later, ((first.foldl (ProgSide.boundaryProg f) v).boundaryProg f p).prog q = v.prog q := fun q hq => by
    have after : q ∉ first := fun h => (List.nodup_append.1 rest).2.2 q h q hq rfl
    rw [ProgSide.boundaryProg_other f _ fun e : q = p => notLater (e ▸ hq), v.turns_other f first after]
  generalize first.foldl (ProgSide.boundaryProg f) v = w at mine all still
  have written : (w.boundaryProg f p).dmc.dram = (v.prog p).heard.foldl f.writeMember w.dmc.dram := by
    rw [ProgSide.boundaryProg_dmc, mine]
  have kept : (v.boundary f).prog p = (w.boundaryProg f p).prog p := by rw [all, ProgSide.turns_other f later _ notLater]
  refine ⟨w.dmc.dram, later, notLater, ?_, fun live => ?_, fun idle => ?_⟩
  · rw [all, ProgSide.turns_dmc f (List.nodup_append.1 rest).2.1, ← written, List.flatMap_congr fun q hq => by rw [still q hq]]
  · have turn := ProgSide.boundaryProg_live (f := f) (v := w) (p := p) (mine.symm ▸ live)
    rw [kept, turn]
    rw [mine, Prog.heard, if_pos live]
    exact w.replaced_self _ _ _
  · rw [kept, ProgSide.boundaryProg_idle (mine.symm ▸ idle), mine]

end Sys2Proof.Machine

/-! The output frame boundary told of the whole state: what the programmes' turns leave, and the pages given up after them (R70, R91). -/
namespace Sys2Proof.Machine

/-! ## The pages given up (R70, R91) -/

theorem freePages_eq (n : Nat) : freePages n = fun | .freePages => some (n : Int) | _ => none := by
  funext m
  cases m <;> rfl

/-- A glide's programme gives pages up when its holding delay needs fewer, and then the list is served and the pool observed. -/
theorem ProgSide.glidePages_eq (v : ProgSide) (p : ProgId) : v.glidePages p =
    (let x := v.prog p
     let pages := max (x.delay.current / 64) x.delay.funded / 1024 + 1
     if x.state = .running ∧ x.delay.change = .gliding ∧ pages < x.pagesPerChannel then
       let w := (v.resize p pages).serve
       if w.dmc.free.length = v.dmc.free.length then w
       else w.onPanel (Panel.observe .pool (freePages w.dmc.free.length))
     else v) := by
  unfold ProgSide.glidePages
  dsimp only
  by_cases gliding : (v.prog p).state = .running ∧ (v.prog p).delay.change = .gliding
  · rw [if_pos gliding]
    simp only [gliding.1, gliding.2, true_and]
    rfl
  · rw [if_neg gliding, if_neg fun h => gliding ⟨h.1, h.2.1⟩]

theorem State.glidesGiveUp_eq (u : State) : u.glidesGiveUp = u.onProgs ProgSide.givePages := by
  have steps : ProgSide.glidePages = fun v p =>
      (let x := v.prog p
       let pages := max (x.delay.current / 64) x.delay.funded / 1024 + 1
       if x.state = .running ∧ x.delay.change = .gliding ∧ pages < x.pagesPerChannel then
         let w := (v.resize p pages).serve
         if w.dmc.free.length = v.dmc.free.length then w
         else w.onPanel (Panel.observe .pool fun | .freePages => some (w.dmc.free.length : Int) | _ => none)
       else v) := by
    funext v p
    simp only [ProgSide.glidePages_eq, freePages_eq]
  rw [State.glidesGiveUp, ← allProgs_eq]
  refine congrArg u.onProgs (funext fun v => ?_)
  exact congrArg (fun step => List.foldl step v allProgs) steps.symm

/-- Where no glide's holding delay needs fewer pages, none is given up. -/
theorem ProgSide.givePages_self {v : ProgSide} (h : ∀ p, (v.prog p).state = .running → (v.prog p).delay.change = .gliding →
    (v.prog p).pagesPerChannel ≤ max ((v.prog p).delay.current / 64) (v.prog p).delay.funded / 1024 + 1) : v.givePages = v := by
  refine List.foldl_fixed' (fun p => ?_) _
  rw [ProgSide.glidePages_eq]
  exact if_neg fun ⟨running, gliding, fewer⟩ => absurd fewer (Nat.not_lt.2 (h p running gliding))

/-! ## The state in which the outputs go out -/

theorem State.lanesAdvanced_prog (s : State) (p : ProgId) : s.lanesAdvanced.progSide.prog p = s.prog p := by
  rw [State.lanesAdvanced]
  rfl

theorem State.lanesAdvanced_dmc (s : State) : s.lanesAdvanced.progSide.dmc = s.dmc := by
  rw [State.lanesAdvanced]
  rfl

theorem State.advanced_prog (s : State) (p : ProgId) :
    s.advanced.prog p = (s.lanesAdvanced.progSide.boundary s.lanesAdvanced.front).prog p := by
  rw [State.advanced, State.onProgs_prog]

theorem State.advanced_dmc (s : State) : s.advanced.dmc = (s.lanesAdvanced.progSide.boundary s.lanesAdvanced.front).dmc := by
  rw [State.advanced, State.onProgs_dmc, State.progSide]

theorem State.advanced_front (s : State) : s.advanced.front = s.lanesAdvanced.front := by
  rw [State.advanced, State.onProgs_front]

theorem State.lanesAdvanced_lnk (s : State) : s.lanesAdvanced.lnk = s.lnk := by
  rw [State.lanesAdvanced, State.onLanes_lnk, LaneSide.boundary_panel]
  rfl

theorem State.advanced_lnk (s : State) : s.advanced.lnk = s.lnk := by
  rw [State.advanced, State.onProgs_lnk, (ProgSide.boundary_statesKept _ _).panel]
  exact s.lanesAdvanced_lnk

/-- What a boundary leaves of one programme and of the delay memory's contents. -/
theorem State.advanced_turn (s : State) (p : ProgId) : ∃ (before : Memory) (later : List ProgId), p ∉ later
    ∧ s.advanced.dmc.dram = (later.flatMap fun q => (s.prog q).heard).foldl s.advanced.front.writeMember
        ((s.prog p).heard.foldl s.advanced.front.writeMember before)
    ∧ ((s.prog p).state.live = true →
        s.advanced.prog p = s.advanced.front.turnProg ((s.prog p).heard.foldl s.advanced.front.writeMember before) (s.prog p))
    ∧ (¬(s.prog p).state.live = true → s.advanced.prog p = s.prog p) := by
  have turn := ProgSide.boundary_turn s.lanesAdvanced.front s.lanesAdvanced.progSide p
  rw [← s.advanced_prog, ← s.advanced_dmc, ← s.advanced_front] at turn
  simpa only [State.lanesAdvanced_prog] using turn

/-- The delay memory after a boundary: every live programme's bus samples written, in ascending number. -/
theorem State.advanced_written (s : State) : s.advanced.dmc = { s.dmc with
    dram := (allProgs.flatMap fun p => (s.prog p).heard).foldl s.advanced.front.writeMember s.dmc.dram } := by
  have written := ProgSide.turns_dmc s.lanesAdvanced.front (by decide : allProgs.Nodup) s.lanesAdvanced.progSide
  rw [s.advanced_dmc, s.advanced_front, ProgSide.boundary, written]
  simp only [State.lanesAdvanced_prog, State.lanesAdvanced_dmc]

/-! ## The record after a boundary -/

theorem Front.turnProg_members (f : Front) (dram : Memory) (x : Prog) : (f.turnProg dram x).members
    = x.members.map fun m => { f.carryMember x.state ((x.nextCurrent : Int) - x.delay.current) m with
        out := (f.carryProg x).heardOut dram f.tapShift (f.carryMember x.state ((x.nextCurrent : Int) - x.delay.current) m) } := by
  rw [Front.turnProg, Prog.boundaryOutput_eq, Front.carryProg, List.map_map]
  rfl

/-- A boundary leaves everything but the members and the gain record as the record carried over has it. -/
theorem Front.turnProg_rest (f : Front) (dram : Memory) (x : Prog) : f.turnProg dram x
    = { f.carryProg x with members := (f.turnProg dram x).members, gain := (f.turnProg dram x).gain } := by
  rw [Front.turnProg, Prog.boundaryOutput_eq]

theorem pagesPerChannel_map {x y : Prog} (g : Member → Member) (members : y.members = x.members.map g)
    (ring : ∀ m, (g m).ring = m.ring.map Ring.advance) : y.pagesPerChannel = x.pagesPerChannel := by
  rw [Prog.pagesPerChannel, Prog.pagesPerChannel, members, List.head?_map]
  cases x.members.head? with
  | none => rfl
  | some m =>
    simp only [Option.map_some, Option.bind_some, ring, Option.map_map]
    cases m.ring with
    | none => rfl
    | some r => simp

theorem Front.turnProg_pages (f : Front) (dram : Memory) (x : Prog) : (f.turnProg dram x).pagesPerChannel = x.pagesPerChannel :=
  pagesPerChannel_map _ (f.turnProg_members dram x) fun _ => rfl

theorem DelayRec.moveFades_change (state : ProgState) (r : DelayRec) : (r.moveFades state).change = r.change := by
  unfold DelayRec.moveFades
  split
  · rfl
  · cases change : r.change <;> simp [change]

theorem Front.carryProg_change (f : Front) (x : Prog) : (f.carryProg x).delay.change = x.delay.change :=
  DelayRec.moveFades_change x.state { x.delay with current := x.nextCurrent }

/-- A gliding programme's record is carried over with no fade moved. -/
theorem Front.carryProg_gliding (f : Front) {x : Prog} (running : x.state = .running) (gliding : x.delay.change = .gliding) :
    (f.carryProg x).delay = { x.delay with current := x.nextCurrent } := by
  simp [Front.carryProg, DelayRec.moveFades, running, gliding]

/-- Where the glides' next steps need all pages, none is given up after them. -/
theorem State.NoPageGivenUp.glidesGiveUp {s : State} (h : s.NoPageGivenUp) : s.advanced.drive.glidesGiveUp = s.advanced.drive := by
  rw [State.glidesGiveUp_eq]
  refine State.onProgs_self (ProgSide.givePages_self fun p running gliding => ?_)
  change (s.advanced.prog p).state = .running at running
  change (s.advanced.prog p).delay.change = .gliding at gliding
  change (s.advanced.prog p).pagesPerChannel ≤ max ((s.advanced.prog p).delay.current / 64) (s.advanced.prog p).delay.funded / 1024 + 1
  have before := (s.advanced_prog_state p).symm.trans running
  obtain ⟨dram, -, -, -, turn, -⟩ := s.advanced_turn p
  have mine := turn ((ProgState.live_iff _).2 (.inl before))
  generalize List.foldl _ dram _ = m at mine
  have delay : (s.advanced.prog p).delay = (s.advanced.front.carryProg (s.prog p)).delay := by rw [mine, Front.turnProg_rest]
  have change : (s.prog p).delay.change = .gliding := by
    rw [delay, Front.carryProg_change] at gliding
    exact gliding
  have bound := h p before change
  rw [Prog.glideStep_eq] at bound
  rw [delay, Front.carryProg_gliding _ before change, mine, Front.turnProg_pages]
  exact bound

end Sys2Proof.Machine

/-! Rounding to the nearest unit, ties away from zero (R104, R142), and the weighting filter's output (R104, log 10). -/
namespace Sys2Proof.Machine

theorem roundAway_nonneg {num : Int} (h : 0 ≤ num) (den : Nat) : roundAway num den = roundHalfUp num den := by
  rw [roundAway, if_pos h]
  rfl

/-- A rounded value is within half a unit of the exact one, and beyond it where it is a tie. -/
def RoundsTo (exact : ℚ) (r : Int) : Prop := |(r : ℚ) - exact| ≤ 1 / 2 ∧ (|(r : ℚ) - exact| = 1 / 2 → |exact| < |(r : ℚ)|)

theorem RoundsTo.neg {exact : ℚ} {r : Int} (h : RoundsTo exact r) : RoundsTo (-exact) (-r) := by
  obtain ⟨near, tie⟩ := h
  have flip : |((-r : Int) : ℚ) - -exact| = |(r : ℚ) - exact| := by
    rw [Int.cast_neg, ← abs_neg]
    congr 1
    ring
  rw [RoundsTo, flip, Int.cast_neg, abs_neg, abs_neg]
  exact ⟨near, tie⟩

theorem roundAway_roundsTo (num : Int) {den : Nat} (pos : 0 < den) : RoundsTo ((num : ℚ) / den) (roundAway num den) := by
  have up (n : Int) (h : 0 ≤ n) : RoundsTo ((n : ℚ) / den) (roundAway n den) := by
    rw [roundAway_nonneg h]
    have above := Int.floor_le ((n : ℚ) / den + 1 / 2)
    have below := Int.lt_floor_add_one ((n : ℚ) / den + 1 / 2)
    rw [← roundHalfUp_eq_floor n pos] at above below
    have exact_nonneg : (0 : ℚ) ≤ (n : ℚ) / den := by positivity
    refine ⟨abs_le.2 ⟨by linarith, by linarith⟩, fun tie => ?_⟩
    rcases (abs_eq (by norm_num)).1 tie with e | e
    · rw [abs_of_nonneg exact_nonneg, abs_of_nonneg (by linarith)]
      linarith
    · linarith
  rcases le_total 0 num with h | h
  · exact up num h
  · have flipped := (up (-num) (by omega)).neg
    rw [roundAway_neg _ _ pos, neg_neg, Int.cast_neg, neg_div, neg_neg] at flipped
    exact flipped

theorem roundRat_roundsTo (q : ℚ) : RoundsTo q (roundRat q) := by
  have near := roundAway_roundsTo q.num q.pos
  rwa [Rat.num_div_den] at near

/-! ## The weighted sum (R104) -/

theorem weightedSum_eq (history : List Int) (k : Nat) :
    weightedSum history k = ((history.zipIdx k).map fun e => Config.weightTap e.2 * e.1).sum := by
  induction history generalizing k with
  | nil => rfl
  | cons x rest ih =>
    rw [weightedSum, ih, List.zipIdx_cons, List.map_cons, List.sum_cons]
    split
    · next zero => rw [zero, Int.cast_zero, mul_zero, zero_add]
    · rfl

/-- The taps of a history's ages add up to no more than the response's magnitudes do. -/
theorem weightedSum_bound {history : List Int} {B : Nat} (bounded : ∀ x ∈ history, |x| ≤ B) (k : Nat) :
    |(weightedSum history k : ℝ)| ≤ B * ∑ i ∈ Finset.range history.length, |(Config.weightTap (k + i) : ℝ)| := by
  induction history generalizing k with
  | nil => simp [weightedSum]
  | cons x rest ih =>
    obtain ⟨first, others⟩ := List.forall_mem_cons.1 bounded
    have later := ih others (k + 1)
    have head : |(Config.weightTap k * x : ℝ)| ≤ B * |(Config.weightTap k : ℝ)| := by
      rw [abs_mul, mul_comm]
      exact mul_le_mul_of_nonneg_right (by exact_mod_cast first) (abs_nonneg _)
    have shape : (weightedSum (x :: rest) k : ℝ) = Config.weightTap k * x + weightedSum rest (k + 1) := by
      rw [weightedSum]
      split
      · next zero => rw [zero, Int.cast_zero, mul_zero, zero_add]
      · push_cast
        rfl
    have sums : ∑ i ∈ Finset.range (x :: rest).length, |(Config.weightTap (k + i) : ℝ)|
        = ∑ i ∈ Finset.range rest.length, |(Config.weightTap (k + 1 + i) : ℝ)| + |(Config.weightTap k : ℝ)| := by
      rw [List.length_cons, Finset.sum_range_succ']
      simp only [add_zero, Nat.add_assoc, Nat.add_comm 1]
    rw [shape, sums, mul_add]
    exact (abs_add_le _ _).trans (by linarith)

/-- The exact output of the filter stays below 4, by more than rounding can take (R104). -/
theorem weightedSum_lt {history : List Int} (bounded : ∀ x ∈ history, |x| ≤ 2 ^ 23) :
    |128 * weightedSum history 0| < 2 ^ 32 - 1 / 2 := by
  obtain ⟨summable, total, -⟩ := Config.weightTap_law
  have sum := weightedSum_bound (B := 2 ^ 23) (by exact_mod_cast bounded) 0
  simp only [Nat.zero_add] at sum
  have part := summable.sum_le_tsum (Finset.range history.length) fun i _ => abs_nonneg (Config.weightTap i : ℝ)
  push_cast at sum
  refine (Rat.cast_lt (K := ℝ)).1 ?_
  rw [abs_mul, abs_of_pos (by norm_num : (0 : ℚ) < 128)]
  push_cast
  linarith

/-- The filter's output, rounded, stays below 4 in units of 2^-30. -/
theorem weightedSample_lt {history : List Int} (bounded : ∀ x ∈ history, |x| ≤ 2 ^ 23) : |weightedSample history| < 2 ^ 32 := by
  have exact := weightedSum_lt bounded
  obtain ⟨near, -⟩ := roundRat_roundsTo (128 * weightedSum history 0)
  have total := abs_sub_abs_le_abs_sub (roundRat (128 * weightedSum history 0) : ℚ) (128 * weightedSum history 0)
  have bound : |(roundRat (128 * weightedSum history 0) : ℚ)| < 2 ^ 32 := by linarith
  exact_mod_cast bound

end Sys2Proof.Machine

/-! O30: what an output frame boundary does to the programmes. -/
namespace Sys2Proof.Machine

theorem exec_outputFrameBoundary {s : State} (on : s.powered = true) (quiet : s.NothingOutstanding) :
    exec .outputFrameBoundary s = .next s.advanced.drive.glidesGiveUp.transmit := by
  rw [exec, execOutputFrameBoundary, State.carry_on on, State.frameBoundary_eq quiet, State.glidesGiveUp_eq]

theorem Prog.heard_eq (x : Prog) : x.heard = if x.state = .running ∨ x.state = .releasing then x.members else [] :=
  if_congr (ProgState.live_iff x.state) rfl rfl

/-- A member after its programme's turn, with the output sample put out. -/
def Front.turnMember (f : Front) (x : Prog) (m : Member) (out : Int) : Member :=
  { f.carryMember x.state ((x.nextCurrent : Int) - x.delay.current) m with out := out }

/-- A programme's turn leaves each member carried over, with some output sample. -/
theorem Front.turnProg_carried (f : Front) (dram : Memory) (x : Prog) : ∃ outs : List Int, outs.length = x.members.length
    ∧ (f.turnProg dram x).members = List.zipWith (f.turnMember x) x.members outs :=
  ⟨x.members.map fun m => (f.carryProg x).heardOut dram f.tapShift
      (f.carryMember x.state ((x.nextCurrent : Int) - x.delay.current) m), List.length_map _, by
    rw [Front.turnProg_members, List.zipWith_map_right, List.zipWith_self]
    rfl⟩

/-- Settles O30: `State.advanced_written` says what the delay memory then holds, and `State.advanced_turn` what each programme's turn
leaves of its record. -/
theorem frameBoundaryAdvancesTheProgrammes : Obligations.FrameBoundaryAdvancesTheProgrammes := by
  refine ⟨fun s on quiet => ⟨s.advanced.drive, exec_outputFrameBoundary on quiet, State.NoPageGivenUp.glidesGiveUp,
    s.advanced_frame.2.1, s.advanced_lnk, ?_⟩, ?_, Config.weightTap_law, fun history bounded => ?_⟩
  · intro bus heard
    have heard_eq : heard = allProgs.flatMap fun p => (s.prog p).heard := by
      simp only [heard, allProgs_eq, Prog.heard_eq]
    have write_eq : (fun (dram : Memory) (m : Member) => match m.ring with
        | none => dram
        | some r => writeSample dram r.writePage r.writeOffset (bus m)) = s.advanced.front.writeMember := by
      funext dram m
      unfold Front.writeMember
      cases m.ring <;> rfl
    refine ⟨?_, fun p => ?_⟩
    · rw [heard_eq]
      exact s.advanced_written.trans (congrArg (fun write => ({ s.dmc with
        dram := List.foldl write s.dmc.dram (allProgs.flatMap fun p => (s.prog p).heard) } : Dmc)) write_eq.symm)
    obtain ⟨before, -, -, -, turn, still⟩ := s.advanced_turn p
    refine ⟨fun running releasing => still fun live => ((ProgState.live_iff _).1 live).elim running releasing, fun live => ?_⟩
    have mine := turn ((ProgState.live_iff _).2 live)
    generalize List.foldl _ before _ = dram at mine
    intro r target current delay history weighted cross
    have delay_eq : delay = (s.advanced.front.carryProg (s.prog p)).delay := by
      simp only [delay, r, Front.carryProg, DelayRec.moveFades]
      split
      · rfl
      · cases (s.prog p).delay.change <;> rfl
    have cross_eq : cross = s.advanced.front.crossOf (s.prog p) := by
      simp only [cross, Front.crossOf]
      cases firstOfRole .l (s.prog p).members with
      | none => rfl
      | some a => cases firstOfRole .r (s.prog p).members <;> rfl
    obtain ⟨outs, length, members⟩ := s.advanced.front.turnProg_carried dram (s.prog p)
    have record : s.advanced.drive.prog p = s.advanced.front.turnProg dram (s.prog p) := mine
    rw [record, delay_eq, cross_eq]
    exact ⟨⟨outs, length, members⟩, s.advanced.front.turnProg_rest dram (s.prog p)⟩
  · intro v p pages k x w rings fewer
    obtain ⟨record, dmc⟩ := ProgSide.resize_trims fewer rings
    have free := congrArg Dmc.free dmc
    rw [Dmc.trimMembers_free] at free
    exact ⟨free, record, dmc, fun q other => v.resize_prog_other k other, v.resize_wait p k, rfl, rfl⟩
  · intro exact
    have exact_eq : 128 * weightedSum history 0 = exact := by
      rw [weightedSum_eq]
      norm_num [exact]
    have rounds : RoundsTo exact (weightedSample history) := exact_eq ▸ roundRat_roundsTo (128 * weightedSum history 0)
    obtain ⟨near, tie⟩ := rounds
    refine ⟨near, fun h => ?_, weightedSample_lt fun x hx => ?_⟩
    · rw [Int.cast_abs]
      exact tie h
    · obtain ⟨low, high⟩ := bounded x hx
      exact abs_le.2 ⟨low, high.le⟩

end Sys2Proof.Machine

/-! What a boundary's delay output rests on: a write is not read at another page (R61), no page stands in two rings (R62), and pages given
up leave a sounding programme's gain alone (R91, log 19). -/
namespace Sys2Proof.Machine

/-! ## Reads beside a write -/

theorem Memory.read_put_other {a c : Nat} (h : c ≠ a) (b : Byte) (m : Memory) : (Memory.put a b m).read c = m.read c := by
  unfold Memory.put
  split
  · rfl
  · rw [Memory.read, if_neg h.symm]

theorem Memory.read_write_other {a c : Nat} (h : c ≠ a) (b : Byte) (m : Memory) : (m.write a b).read c = m.read c := by
  induction m with
  | nil => exact Memory.read_put_other h b []
  | cons cell rest ih =>
    obtain ⟨k, d⟩ := cell
    rw [Memory.write]
    split
    · exact Memory.read_put_other h b _
    · split
      · next same => rw [Memory.read_put_other h, Memory.read.eq_2, if_neg (same ▸ h.symm)]
      · rw [Memory.read.eq_2, Memory.read.eq_2, ih]

theorem Memory.read_writeBytes_other {a c : Nat} {bs : List Byte} (h : c < a ∨ a + bs.length ≤ c) (m : Memory) :
    (m.writeBytes a bs).read c = m.read c := by
  induction bs generalizing m a with
  | nil => rfl
  | cons b bs ih =>
    rw [List.length_cons] at h
    rw [Memory.writeBytes, ih (by omega), Memory.read_write_other (by omega)]

/-- A sample written to one page is not read at another. -/
theorem readSample_writeSample_other {page other : PageId} (h : page ≠ other) (m : Memory) (x y : Fin 1024) (sample : Int) :
    readSample (writeSample m other y sample) page x = readSample m page x := by
  have pages : page.val ≠ other.val := fun e => h (Fin.ext e)
  have bytes (k : Nat) (hk : k < 4) : (writeSample m other y sample).read (positionAddress page x + k)
      = m.read (positionAddress page x + k) := by
    refine Memory.read_writeBytes_other ?_ m
    simp only [positionAddress, List.length_cons, List.length_nil]
    omega
  have first := bytes 0 (by decide)
  rw [Nat.add_zero] at first
  simp only [readSample, first, bytes 1 (by decide), bytes 2 (by decide)]

/-! ## Reads of a ring -/

theorem Ring.place_mem (r : Ring) (distance : Nat) : (r.place distance).1 ∈ r.chain := by
  rw [Ring.place, List.getD_eq_getElem?_getD]
  cases e : r.chain[(r.writeOffset.val + r.capacity - 1 - distance) % r.capacity / 1024]? with
  | none => exact List.mem_cons_self
  | some page => exact List.mem_of_getElem? e

/-- Two contents of the delay memory agree on a page. -/
def Memory.AgreeOn (m n : Memory) (page : PageId) : Prop := ∀ x, readSample m page x = readSample n page x

theorem Ring.frameAt_agree {m n : Memory} {r : Ring} (h : ∀ page ∈ r.chain, m.AgreeOn n page) (newest : Int) (distance : Nat) :
    r.frameAt m newest distance = r.frameAt n newest distance := by
  unfold Ring.frameAt
  dsimp only
  rw [h _ (r.place_mem distance)]

theorem Member.readTap_agree {m n : Memory} {x : Member} (h : ∀ page ∈ x.pages, m.AgreeOn n page) (newest : Int) :
    x.readTap m newest = x.readTap n newest := by
  unfold Member.readTap
  unfold Member.pages at h
  cases ring : x.ring with
  | none => rfl
  | some r =>
    rw [ring] at h
    simp only [Ring.frameAt_agree h]

/-- Samples written to other pages leave a page's. -/
theorem Front.writeMembers_agree (f : Front) {ms : List Member} {page : PageId} (apart : ∀ m ∈ ms, page ∉ m.pages) (dram : Memory) :
    (ms.foldl f.writeMember dram).AgreeOn dram page := by
  induction ms generalizing dram with
  | nil => exact fun _ => rfl
  | cons m ms ih =>
    obtain ⟨first, others⟩ := List.forall_mem_cons.1 apart
    have written : (f.writeMember dram m).AgreeOn dram page := fun x => by
      unfold Front.writeMember
      unfold Member.pages at first
      cases ring : m.ring with
      | none => rfl
      | some r =>
        rw [ring] at first
        have elsewhere : page ≠ r.writePage := fun same => first (by rw [same]; exact List.mem_cons_self)
        exact readSample_writeSample_other elsewhere dram x _ _
    exact fun x => (ih others _ x).trans (written x)

/-! ## Rings apart (R62) -/

/-- No page stands in the rings of two programmes. -/
theorem State.PagesConserved.apart {s : State} (h : s.PagesConserved) {p q : ProgId} (ne : p ≠ q) {m n : Member}
    (hm : m ∈ (s.prog p).members) (hn : n ∈ (s.prog q).members) {page : PageId} (mine : page ∈ m.pages) : page ∉ n.pages := by
  intro theirs
  obtain ⟨perm, -⟩ := h
  have once : (heldPages s.progs).Nodup := (List.nodup_append.1 (perm.nodup_iff.2 (List.nodup_finRange 2048))).2.1
  have symmetric : Std.Symm (Function.onFun List.Disjoint fun p : ProgId => (s.progs[p].members).flatMap Member.pages) :=
    ⟨fun _ _ disjoint => List.Disjoint.symm disjoint⟩
  exact (List.nodup_flatMap.1 once).2.forall (mem_allProgs p) (mem_allProgs q) ne (List.mem_flatMap.2 ⟨m, hm, mine⟩)
    (List.mem_flatMap.2 ⟨n, hn, theirs⟩)

/-! ## The gain through pages given up (R91, log 19) -/

/-- Every programme that sounds goes on sounding, under the same gain record. -/
def ProgSide.GainsKept (v w : ProgSide) : Prop :=
  ∀ p, (v.prog p).state.live = true → (w.prog p).state.live = true ∧ (w.prog p).gain = (v.prog p).gain

namespace ProgSide.GainsKept

theorem refl (v : ProgSide) : v.GainsKept v := fun _ live => ⟨live, rfl⟩

theorem trans {u v w : ProgSide} (a : u.GainsKept v) (b : v.GainsKept w) : u.GainsKept w := fun p live => by
  obtain ⟨sounds, gain⟩ := a p live
  exact ⟨(b p sounds).1, (b p sounds).2.trans gain⟩

theorem foldl {α : Type} (f : ProgSide → α → ProgSide) (h : ∀ (v : ProgSide) (a : α), v.GainsKept (f v a)) (xs : List α)
    (v : ProgSide) : v.GainsKept (xs.foldl f v) :=
  List.foldlRecOn (motive := v.GainsKept) xs f (refl v) fun w hw a _ => hw.trans (h w a)

/-- One programme's record replaced by one that keeps the gain if it sounds. -/
theorem set (v : ProgSide) (d : Dmc) {p : ProgId} {x : Prog}
    (h : (v.prog p).state.live = true → x.state.live = true ∧ x.gain = (v.prog p).gain) :
    v.GainsKept { v with dmc := d, progs := v.progs.set p x } := by
  intro q live
  by_cases e : q = p
  · subst e
    rw [v.replaced_self d q x]
    exact h live
  · rw [v.replaced_other d x e]
    exact ⟨live, rfl⟩

theorem modDelay (v : ProgSide) (p : ProgId) (f : DelayRec → DelayRec) : v.GainsKept (v.modDelay p f) :=
  set v v.dmc fun live => ⟨live, rfl⟩

theorem moveDelay (v : ProgSide) (p : ProgId) (d : Nat) : v.GainsKept (v.modProg p (Prog.moveDelay d)) :=
  set v v.dmc fun live => ⟨live, rfl⟩

theorem resize (v : ProgSide) (p : ProgId) (k : Nat) : v.GainsKept (v.resize p k) := set v _ fun live => ⟨live, rfl⟩

theorem onPanel (v : ProgSide) (f : Panel → Panel) : v.GainsKept (v.onPanel f) := fun _ live => ⟨live, rfl⟩

theorem leaveIfFull (v : ProgSide) (p : ProgId) : v.GainsKept (v.leaveIfFull p) := by
  unfold ProgSide.leaveIfFull ProgSide.leaveWait
  split
  · split <;> exact fun _ live => ⟨live, rfl⟩
  · exact refl v

theorem event {f : ProgSide → ProgSide} {v : ProgSide} (h : v.GainsKept (f v)) : v.GainsKept (ProgSide.event f v) := by
  unfold ProgSide.event
  dsimp only
  split
  · exact h
  · exact h.trans (onPanel _ _)

theorem completeGlide (v : ProgSide) (p : ProgId) : v.GainsKept (v.completeGlide p) := (modDelay v p _).trans (onPanel _ _)

theorem judgeGlide (v : ProgSide) (p : ProgId) : v.GainsKept (v.judgeGlide p) := by
  unfold ProgSide.judgeGlide
  dsimp only
  split
  · split
    · exact completeGlide v p
    · exact refl v
  · refine (moveDelay v p (64 * (v.prog p).delay.whole)).trans ?_
    split
    · exact completeGlide _ p
    · exact modDelay _ p _

theorem takeRaise (v : ProgSide) (p : ProgId) : v.GainsKept (v.takeRaise p) := by
  unfold ProgSide.takeRaise
  dsimp only
  split
  · split
    · exact refl v
    · exact modDelay v p _
  · exact judgeGlide v p
  · exact refl v
  · exact (moveDelay v p _).trans (modDelay _ p _)
  · exact modDelay v p _

/-- Only a WAITING programme starts in the service, and one that sounds does not wait. -/
theorem startProg {v : ProgSide} {p : ProgId} (waiting : (v.prog p).state = .waiting) (delay : Nat) :
    v.GainsKept (v.startProg p delay) :=
  set v _ fun live => absurd (waiting ▸ live) (by decide)

theorem serveWaiter (v : ProgSide) (p : ProgId) : v.GainsKept (v.serveWaiter p) := by
  unfold ProgSide.serveWaiter
  dsimp only
  split
  · split
    · exact (((modDelay v p _).trans (resize _ p _)).trans (takeRaise _ p)).trans (leaveIfFull _ p)
    · exact refl v
  · next waiting =>
    split
    · exact (startProg waiting _).trans (leaveIfFull _ p)
    · exact refl v
  · exact refl v

theorem holdingFell (v : ProgSide) (p : ProgId) : v.GainsKept (v.holdingFell p) := by
  unfold ProgSide.holdingFell
  dsimp only
  split
  · exact event ((resize v p _).trans (foldl _ serveWaiter _ _))
  · exact refl v

theorem givePages (v : ProgSide) : v.GainsKept v.givePages := by
  refine foldl _ (fun u p => ?_) _ v
  unfold ProgSide.glidePages
  split
  · exact holdingFell u p
  · exact refl u

end ProgSide.GainsKept

end Sys2Proof.Machine

/-! O31: the delay output of a boundary (R55, R66, R90, R93, R100, R102, R137, R140, R142, R143). -/
namespace Sys2Proof.Machine

/-! ## The samples of the later programmes are not heard -/

theorem Prog.boundaryOutput_agree {m n : Memory} {x : Prog} (h : ∀ k ∈ x.members, ∀ page ∈ k.pages, m.AgreeOn n page)
    (shift : LaneId → Int) : x.boundaryOutput m shift = x.boundaryOutput n shift := by
  have reads : ∀ k ∈ x.members, (x.heardTap shift k).readTap m x.newest = (x.heardTap shift k).readTap n x.newest :=
    fun k hk => Member.readTap_agree (x := x.heardTap shift k) (h k hk) x.newest
  have outs : x.members.map (fun k => { k with out := x.heardOut m shift k })
      = x.members.map fun k => { k with out := x.heardOut n shift k } :=
    List.map_congr_left fun k hk => by rw [Prog.heardOut, Prog.heardOut, reads k hk]
  rw [Prog.boundaryOutput_eq, Prog.boundaryOutput_eq, List.map_congr_left reads, outs]

/-- A member carried over a boundary holds the pages that it held. -/
theorem Front.mem_pages_carryMember {f : Front} {state : ProgState} {rise : Int} {m : Member} {page : PageId} :
    page ∈ (f.carryMember state rise m).pages ↔ page ∈ m.pages := by
  unfold Member.pages Front.carryMember
  cases m.ring with
  | none => rfl
  | some r => exact r.advance_chain_perm.mem_iff

/-- The output of a sounding programme, as if all bus samples of the boundary were written before it (R62). -/
theorem State.advanced_sounds {s : State} (pages : s.PagesConserved) {p : ProgId} (live : (s.prog p).state.live = true) :
    s.advanced.prog p
      = (s.advanced.front.carryProg (s.prog p)).boundaryOutput s.advanced.dmc.dram s.advanced.front.tapShift := by
  obtain ⟨before, later, notLater, dram, turn, -⟩ := s.advanced_turn p
  rw [turn live, Front.turnProg]
  refine (Prog.boundaryOutput_agree (fun k hk page mine => ?_) _).symm
  obtain ⟨m, hm, rfl⟩ := List.mem_map.1 hk
  rw [dram]
  refine s.advanced.front.writeMembers_agree (fun n hn => ?_) _
  obtain ⟨q, hq, sounds⟩ := List.mem_flatMap.1 hn
  have theirs : n ∈ (s.prog q).members := by
    rw [Prog.heard] at sounds
    split at sounds
    · exact sounds
    · simp at sounds
  exact pages.apart (fun e : p = q => notLater (e ▸ hq)) hm theirs (Front.mem_pages_carryMember.1 mine)

/-! ## What the pages given up leave (R91, log 19) -/

theorem State.glidesGiveUp_sounds {s : State} {p : ProgId} (live : (s.advanced.prog p).state.live = true) :
    (s.advanced.drive.glidesGiveUp.transmit.prog p).gain = (s.advanced.prog p).gain
      ∧ (s.advanced.drive.glidesGiveUp.transmit.prog p).outs = (s.advanced.prog p).outs := by
  rw [State.transmit_prog, State.glidesGiveUp_eq, State.givePages_outs, State.onProgs_prog]
  exact ⟨(ProgSide.GainsKept.givePages s.advanced.drive.progSide p live).2, rfl⟩

/-! ## The gain stage (R142, R143) -/

theorem gained_eq (factor : Nat) (x : Int) :
    gained factor x = max (-(2 ^ 23)) (min (roundAway (x * factor) (2 ^ 20)) (2 ^ 23 - 1)) :=
  clampInt_eq _ _ _ (by decide)

theorem clipped_cons (factor : Nat) (x : Int) (xs : List Int) :
    clipped factor (x :: xs) = clipped factor [x] + clipped factor xs := by
  simp only [clipped, ← List.length_append, ← List.filter_append]
  rfl

/-- A sample is counted as clipped when its product lies outside the range of a sample. -/
theorem clipped_one (factor : Nat) (x : Int) : clipped factor [x]
    = if roundAway (x * factor) (2 ^ 20) < -(2 ^ 23) ∨ 2 ^ 23 - 1 < roundAway (x * factor) (2 ^ 20) then 1 else 0 := by
  have product : gainProduct factor x = roundAway (x * factor) (2 ^ 20) := rfl
  have outside : gained factor x ≠ gainProduct factor x
      ↔ roundAway (x * factor) (2 ^ 20) < -(2 ^ 23) ∨ 2 ^ 23 - 1 < roundAway (x * factor) (2 ^ 20) := by
    rw [gained_eq, product]
    omega
  rw [clipped, List.filter_cons, List.filter_nil]
  simp only [decide_eq_true_eq, outside]
  split <;> rfl

/-! ## The statement's own words -/

theorem Prog.jumpDue_iff (x : Prog) : x.jumpDue = true ↔ x.state = .running ∧ x.delay.change = .fadeOut ∧ x.delay.fadePos = 0 := by
  simp [Prog.jumpDue, and_assoc]

theorem Front.tapShift_eq (f : Front) (l : LaneId) : f.tapShift l =
    (let c := (f.lanes[l]).conv
     if (f.lanes[l]).state = .running ∧ c.fade = .fadeOut ∧ c.fadePos = 0 ∧ c.granted ≠ c.effective then
       ((f.lanes[l]).latency : Int) - c.granted.latency
     else 0) := by
  unfold Front.tapShift
  refine if_congr ?_ rfl rfl
  simp [Lane.fadedDue, and_assoc]

/-- Settles O31: `State.advanced_sounds` gives a programme's turn over the whole boundary's samples, and `Prog.boundaryOutput_eq` what
the turn hears and puts out. -/
theorem delayOutputReadsGainsAndFades : Obligations.DelayOutputReadsGainsAndFades := by
  refine ⟨fun s on quiet pages => ⟨s.advanced.drive, s.advanced.drive.glidesGiveUp.transmit, exec_outputFrameBoundary on quiet, rfl,
    State.NoPageGivenUp.glidesGiveUp, fun p sounding => ?_⟩, fun factor x => ?_, fun num den pos => roundAway_roundsTo num pos⟩
  · have live := (ProgState.live_iff _).2 sounding
    have mine : s.advanced.drive.prog p
        = (s.advanced.front.carryProg (s.prog p)).boundaryOutput s.advanced.dmc.dram s.advanced.front.tapShift :=
      State.advanced_sounds pages live
    obtain ⟨gainKept, outsKept⟩ := State.glidesGiveUp_sounds (s := s) (p := p) (by rw [State.advanced_prog_state]; exact live)
    rw [Prog.boundaryOutput_eq] at mine
    intro y r faded delay stamp g h shift read position
    have state : y.state = (s.advanced.front.carryProg (s.prog p)).state := (congrArg Prog.state mine).trans rfl
    have record : r = (s.advanced.front.carryProg (s.prog p)).delay := (congrArg Prog.delay mine).trans rfl
    have inputStamp : y.inputStamp = (s.advanced.front.carryProg (s.prog p)).inputStamp := (congrArg Prog.inputStamp mine).trans rfl
    have gain : (s.advanced.front.carryProg (s.prog p)).gain = (s.prog p).gain := rfl
    have gainAfter := congrArg Prog.gain mine
    have membersAfter := congrArg Prog.members mine
    generalize s.advanced.front.carryProg (s.prog p) = c at mine state record inputStamp gain gainAfter membersAfter
    have faded_iff : faded ↔ c.jumpDue = true := by rw [Prog.jumpDue_iff, ← state, ← record]
    have delay_eq : delay = c.heardDelay := by
      rw [Prog.heardDelay, ← record]
      exact if_congr faded_iff rfl rfl
    have h_eq : h = c.heardGain := by
      rw [Prog.heardGain, ← delay_eq, ← inputStamp, gain]
      rfl
    have shift_eq : shift = s.advanced.front.tapShift := by
      funext l
      rw [Front.tapShift_eq]
      refine if_congr Iff.rfl (congrArg (fun latency : Int => ((s.advanced.front.lanes[l]).latency : Int) - latency) ?_) rfl
      change _ = ((s.advanced.drive.lane l).conv.granted.latency : Int)
      cases (s.advanced.drive.lane l).conv.granted <;> rfl
    have read_eq (m : Member) : read m = (c.heardTap s.advanced.front.tapShift m).readTap s.advanced.dmc.dram c.newest := by
      rw [← shift_eq, Prog.heardTap, ← delay_eq, ← record, Prog.newest, ← inputStamp]
      simp only [read, Member.readTap]
      cases m.ring <;> rfl
    have position_eq : position = c.fadeFactor := by
      have own : position = y.fadeFactor := rfl
      rw [own, Prog.fadeFactor, Prog.fadeFactor, state, show y.delay = c.delay from record]
    refine ⟨fun m hm => ?_, gainKept, outsKept, ?_⟩
    · rw [membersAfter] at hm
      obtain ⟨n, -, rfl⟩ := List.mem_map.1 hm
      rw [h_eq, position_eq, read_eq]
      rfl
    · have reads : y.members.map read
          = c.members.map fun m => (c.heardTap s.advanced.front.tapShift m).readTap s.advanced.dmc.dram c.newest := by
        rw [membersAfter, List.map_map]
        exact List.map_congr_left fun m _ => read_eq _
      rw [h_eq, reads]
      exact gainAfter
  · exact ⟨gained_eq factor x, clipped_one factor x, clipped_cons factor x⟩

end Sys2Proof.Machine

/-! Pages are conserved (R62): no operation on the programmes loses or doubles a page, and none brings an UNDEFINED programme to life but a
definition. -/
namespace Sys2Proof.Machine

/-! ## The pages of one programme -/

/-- The pages of a programme's rings. -/
def Prog.pages (x : Prog) : List PageId := x.members.flatMap Member.pages

/-- The second record has the first's state and rings. -/
structure Prog.RingsKept (x y : Prog) : Prop where
  state : y.state = x.state
  rings : y.members.map (·.ring) = x.members.map (·.ring)

theorem Prog.RingsKept.refl (x : Prog) : x.RingsKept x := ⟨rfl, rfl⟩

theorem Prog.RingsKept.trans {x y z : Prog} (a : x.RingsKept y) (b : y.RingsKept z) : x.RingsKept z :=
  ⟨b.state.trans a.state, b.rings.trans a.rings⟩

/-- A record whose members have been changed one by one, their rings left alone. -/
theorem Prog.RingsKept.map {x y : Prog} (g : Member → Member) (ring : ∀ m, (g m).ring = m.ring) (state : y.state = x.state)
    (members : y.members = x.members.map g) : x.RingsKept y :=
  ⟨state, by rw [members, List.map_map]; exact List.map_congr_left fun m _ => ring m⟩

theorem Prog.pages_of_rings (x : Prog) : x.pages = (x.members.map (·.ring)).flatMap fun r => (r.map Ring.chain).getD [] := by
  rw [Prog.pages, List.flatMap_map]
  rfl

theorem Prog.RingsKept.pages {x y : Prog} (h : x.RingsKept y) : y.pages = x.pages := by
  rw [y.pages_of_rings, x.pages_of_rings, h.rings]

/-- The records of one programme replaced, the pages of the others stand. -/
theorem heldPages_set (progs : Vector Prog 16) (p : ProgId) (x : Prog) : ∃ rest : List PageId,
    (heldPages progs).Perm (progs[p].pages ++ rest) ∧ (heldPages (progs.set p x)).Perm (x.pages ++ rest) := by
  obtain ⟨first, later, split⟩ := List.append_of_mem (mem_allProgs p)
  have once : (first ++ p :: later).Nodup := split ▸ (by decide : allProgs.Nodup)
  obtain ⟨away, -⟩ := List.nodup_cons.1 (List.nodup_middle.1 once)
  have other (q : ProgId) (hq : q ∈ first ++ later) : (progs.set p x)[q] = progs[q] := by
    have apart : p.val ≠ q.val := fun e => away (Fin.ext e ▸ hq)
    simp [apart]
  have middle (all : Vector Prog 16) (rest : List PageId)
      (same : (first ++ later).flatMap (fun q => all[q].pages) = rest) : (heldPages all).Perm (all[p].pages ++ rest) := by
    rw [← same, List.flatMap_append]
    show (allProgs.flatMap fun q => all[q].pages).Perm _
    rw [split, List.flatMap_append, List.flatMap_cons]
    exact List.perm_append_comm_assoc _ _ _
  refine ⟨(first ++ later).flatMap fun q => progs[q].pages, middle progs _ rfl, ?_⟩
  have placed := middle (progs.set p x) _ (List.flatMap_congr fun q hq => by rw [other q hq])
  simpa using placed

theorem Prog.moveDelay_ringsKept (d : Nat) (x : Prog) : x.RingsKept (x.moveDelay d) :=
  .map (fun m => { m with tap := m.tap + ((d : Int) - x.delay.current) }) (fun _ => rfl) rfl rfl

theorem Prog.startMeter_ringsKept (x : Prog) : x.RingsKept x.startMeter := .map Member.clearMeter (fun _ => rfl) rfl rfl

theorem Prog.setTaps_ringsKept (ls : Vector Nat 8) (x : Prog) : x.RingsKept (x.setTaps ls) :=
  .map (fun m => { m with tap := (x.delay.current : Int) - 64 * ls[m.spec.lane] }) (fun _ => rfl) rfl rfl

/-- Resizing gives a member without a ring none. -/
theorem Dmc.resizeMembers_ringless (k : Nat) (newest : Int) (d : Dmc) {ms : List Member} (none : ∀ m ∈ ms, m.ring = none) :
    ∀ m ∈ (d.resizeMembers k newest ms).2, m.ring = .none := by
  induction ms generalizing d with
  | nil => exact fun m hm => nomatch hm
  | cons m ms ih =>
    obtain ⟨first, others⟩ := List.forall_mem_cons.1 none
    have stays : d.resizeMember k newest m = (d, m) := by rw [Dmc.resizeMember, first]
    rw [Dmc.resizeMembers, stays]
    exact List.forall_mem_cons.2 ⟨first, ih d others⟩

/-- A dissolved programme gives back the pages of its rings. -/
theorem Prog.givenBack_perm (x : Prog) : (x.members.flatMap Member.givenBack).Perm x.pages :=
  List.Perm.flatMap_left _ fun m _ => m.givenBack_perm

/-! ## The programmes' pages -/

/-- R62 of the programmes and the delay memory; an UNDEFINED programme has no members, a WAITING one no rings. -/
structure ProgSide.Whole (v : ProgSide) : Prop where
  pages : (v.dmc.free ++ heldPages v.progs).Perm allPages
  empty : ∀ p, (v.prog p).state = .undefined → (v.prog p).members = []
  ringless : ∀ p, (v.prog p).state = .waiting → ∀ m ∈ (v.prog p).members, m.ring = none

/-- From the first view to the second no page is lost or doubled, and no UNDEFINED programme comes to life. -/
structure ProgSide.PagesKept (v w : ProgSide) : Prop where
  whole : v.Whole → w.Whole
  undefined : ∀ p, (v.prog p).state = .undefined → (w.prog p).state = .undefined

/-- One programme's record replaced, with the pages between it and the free list. -/
theorem ProgSide.Whole.replaced {v : ProgSide} (h : v.Whole) {d : Dmc} {p : ProgId} {x : Prog}
    (pages : (d.free ++ x.pages).Perm (v.dmc.free ++ (v.prog p).pages))
    (empty : x.state = .undefined → x.members = []) (ringless : x.state = .waiting → ∀ m ∈ x.members, m.ring = none) :
    ProgSide.Whole { v with dmc := d, progs := v.progs.set p x } := by
  refine ⟨?_, fun q => ?_, fun q => ?_⟩
  · obtain ⟨rest, before, after⟩ := heldPages_set v.progs p x
    calc (d.free ++ heldPages (v.progs.set p x)).Perm (d.free ++ (x.pages ++ rest)) := after.append_left _
      _ |>.Perm (v.dmc.free ++ ((v.prog p).pages ++ rest)) := by
          rw [← List.append_assoc, ← List.append_assoc]
          exact pages.append_right _
      _ |>.Perm (v.dmc.free ++ heldPages v.progs) := before.symm.append_left _
      _ |>.Perm allPages := h.pages
  · by_cases e : q = p
    · subst e; rw [v.replaced_self]; exact empty
    · rw [v.replaced_other _ _ e]; exact h.empty q
  · by_cases e : q = p
    · subst e; rw [v.replaced_self]; exact ringless
    · rw [v.replaced_other _ _ e]; exact h.ringless q

namespace ProgSide.PagesKept

theorem refl (v : ProgSide) : v.PagesKept v := ⟨id, fun _ => id⟩

theorem trans {u v w : ProgSide} (a : u.PagesKept v) (b : v.PagesKept w) : u.PagesKept w :=
  ⟨b.whole ∘ a.whole, fun p h => b.undefined p (a.undefined p h)⟩

theorem foldl {α : Type} (f : ProgSide → α → ProgSide) (h : ∀ (v : ProgSide) (a : α), v.PagesKept (f v a)) (xs : List α)
    (v : ProgSide) : v.PagesKept (xs.foldl f v) :=
  List.foldlRecOn (motive := v.PagesKept) xs f (refl v) fun w hw a _ => hw.trans (h w a)

/-- The wait list, the delay memory's contents and the panel hold no page. -/
theorem ofFree (v : ProgSide) {d : Dmc} (free : d.free = v.dmc.free) (q : Panel) : v.PagesKept { v with dmc := d, panel := q } :=
  ⟨fun h => ⟨by rw [free]; exact h.pages, h.empty, h.ringless⟩, fun _ => id⟩

theorem onPanel (v : ProgSide) (f : Panel → Panel) : v.PagesKept (v.onPanel f) := ofFree v rfl _

/-- One programme's record replaced by one that no definition makes. -/
theorem replaced (v : ProgSide) {d : Dmc} {p : ProgId} {x : Prog}
    (pages : v.Whole → (d.free ++ x.pages).Perm (v.dmc.free ++ (v.prog p).pages))
    (undefined : (v.prog p).state = .undefined → x.state = .undefined)
    (empty : v.Whole → x.state = .undefined → x.members = [])
    (ringless : v.Whole → x.state = .waiting → ∀ m ∈ x.members, m.ring = none) :
    v.PagesKept { v with dmc := d, progs := v.progs.set p x } := by
  refine ⟨fun h => h.replaced (pages h) (empty h) (ringless h), fun q => ?_⟩
  by_cases e : q = p
  · subst e; rw [v.replaced_self]; exact undefined
  · rw [v.replaced_other _ _ e]; exact id

/-- One programme's record replaced by one with the same rings. -/
theorem set (v : ProgSide) {d : Dmc} (free : d.free = v.dmc.free) {p : ProgId} {x : Prog} (h : (v.prog p).RingsKept x) :
    v.PagesKept { v with dmc := d, progs := v.progs.set p x } := by
  refine replaced v (fun _ => ?_) (h.state.trans ·) (fun whole undefined => ?_) fun whole waiting m hm => ?_
  · rw [h.pages, free]
  · have none := whole.empty p (h.state.symm.trans undefined)
    have rings := h.rings
    rw [none] at rings
    exact List.map_eq_nil_iff.1 rings
  · have mem : m.ring ∈ (v.prog p).members.map (·.ring) := h.rings ▸ List.mem_map_of_mem hm
    obtain ⟨n, hn, same⟩ := List.mem_map.1 mem
    exact same ▸ whole.ringless p (h.state.symm.trans waiting) n hn

theorem modProg (v : ProgSide) (p : ProgId) {f : Prog → Prog} (h : (v.prog p).RingsKept (f (v.prog p))) :
    v.PagesKept (v.modProg p f) := set v (d := v.dmc) rfl h

theorem modDelay (v : ProgSide) (p : ProgId) (f : DelayRec → DelayRec) : v.PagesKept (v.modDelay p f) := modProg v p ⟨rfl, rfl⟩

theorem moveDelay (v : ProgSide) (p : ProgId) (d : Nat) : v.PagesKept (v.modProg p (Prog.moveDelay d)) :=
  modProg v p (Prog.moveDelay_ringsKept d _)

/-! ## The delay memory -/

theorem resize (v : ProgSide) (p : ProgId) (k : Nat) : v.PagesKept (v.resize p k) := by
  have pages := v.dmc.resizeMembers_perm k (v.prog p).newest (v.prog p).members
  refine replaced v (fun _ => pages) id (fun whole undefined => ?_) fun whole waiting =>
    v.dmc.resizeMembers_ringless k _ (whole.ringless p waiting)
  refine List.eq_nil_of_length_eq_zero ((Dmc.resizeMembers_length _ _ _ _).trans ?_)
  exact congrArg List.length (whole.empty p undefined)

theorem joinWait (v : ProgSide) (p : ProgId) : v.PagesKept (v.joinWait p) := by
  unfold ProgSide.joinWait
  split
  · exact refl v
  · exact ofFree v (d := { v.dmc with wait := v.dmc.wait ++ [p] }) rfl _

theorem leaveWait (v : ProgSide) (p : ProgId) : v.PagesKept (v.leaveWait p) := by
  unfold ProgSide.leaveWait
  split
  · exact ofFree v (d := { v.dmc with wait := v.dmc.wait.filter fun q => !(q == p) }) rfl _
  · exact refl v

theorem fund (v : ProgSide) (p : ProgId) (request : Nat) : v.PagesKept (v.fund p request) := by
  unfold ProgSide.fund
  dsimp only
  split
  · exact ((modDelay v p _).trans (resize _ p _)).trans (leaveWait _ p)
  · exact ((modDelay v p _).trans (resize _ p _)).trans (joinWait _ p)

theorem event {f : ProgSide → ProgSide} {v : ProgSide} (h : v.PagesKept (f v)) : v.PagesKept (ProgSide.event f v) := by
  unfold ProgSide.event
  dsimp only
  split
  · exact h
  · exact h.trans (onPanel _ _)

/-! ## Changes of delay, starts, the service of the wait list -/

theorem completeGlide (v : ProgSide) (p : ProgId) : v.PagesKept (v.completeGlide p) := (modDelay v p _).trans (onPanel _ _)

theorem judgeGlide (v : ProgSide) (p : ProgId) : v.PagesKept (v.judgeGlide p) := by
  unfold ProgSide.judgeGlide
  dsimp only
  split
  · split
    · exact completeGlide v p
    · exact refl v
  · refine (moveDelay v p (64 * (v.prog p).delay.whole)).trans ?_
    split
    · exact completeGlide _ p
    · exact modDelay _ p _

theorem takeRaise (v : ProgSide) (p : ProgId) : v.PagesKept (v.takeRaise p) := by
  unfold ProgSide.takeRaise
  dsimp only
  split
  · split
    · exact refl v
    · exact modDelay v p _
  · exact judgeGlide v p
  · exact refl v
  · exact (moveDelay v p _).trans (modDelay _ p _)
  · exact modDelay v p _

/-- A programme that holds no ring starts with rings made of free pages. -/
theorem startProg_whole {v : ProgSide} (h : v.Whole) {p : ProgId} (ringless : ∀ m ∈ (v.prog p).members, m.ring = none) (delay : Nat) :
    (v.startProg p delay).Whole := by
  have made := v.dmc.createRings_perm (pagesFor delay) (v.prog p).members
  have none : (v.prog p).pages = [] := List.flatMap_eq_nil_iff.2 fun m hm => by rw [Member.pages, ringless m hm]; rfl
  refine h.replaced ?_ (fun undefined => nomatch undefined) fun waiting => nomatch waiting
  rwa [none, List.append_nil, (Prog.setTaps_ringsKept _ _).pages, (Prog.startMeter_ringsKept _).pages]

theorem startProg {v : ProgSide} {p : ProgId} (waiting : (v.prog p).state = .waiting) (delay : Nat) :
    v.PagesKept (v.startProg p delay) := by
  refine ⟨fun h => startProg_whole h (h.ringless p waiting) delay, fun q undefined => ?_⟩
  have other : q ≠ p := by rintro rfl; rw [waiting] at undefined; cases undefined
  rwa [v.startProg_prog_other delay other]

theorem leaveIfFull (v : ProgSide) (p : ProgId) : v.PagesKept (v.leaveIfFull p) := by
  unfold ProgSide.leaveIfFull
  split
  · exact leaveWait v p
  · exact refl v

theorem serveWaiter (v : ProgSide) (p : ProgId) : v.PagesKept (v.serveWaiter p) := by
  unfold ProgSide.serveWaiter
  dsimp only
  split
  · split
    · exact (((modDelay v p _).trans (resize _ p _)).trans (takeRaise _ p)).trans (leaveIfFull _ p)
    · exact refl v
  · next waiting =>
    split
    · exact (startProg waiting _).trans (leaveIfFull _ p)
    · exact refl v
  · exact refl v

theorem serve (v : ProgSide) : v.PagesKept v.serve := foldl _ serveWaiter _ v

theorem serveAfter (v : ProgSide) (p : ProgId) (before : Nat) : v.PagesKept (v.serveAfter p before) := by
  unfold ProgSide.serveAfter
  split
  · exact serve v
  · exact refl v

theorem holdingFell (v : ProgSide) (p : ProgId) : v.PagesKept (v.holdingFell p) := by
  unfold ProgSide.holdingFell
  dsimp only
  split
  · exact event ((resize v p _).trans (serve _))
  · exact refl v

/-! ## Requests -/

theorem fundEvent (v : ProgSide) (p : ProgId) (request : Nat) : v.PagesKept (v.fundEvent p request) :=
  event ((fund v p request).trans (serveAfter _ p _))

theorem actSteady (v : ProgSide) (p : ProgId) (request : Nat) : v.PagesKept (v.actSteady p request) := by
  unfold ProgSide.actSteady
  dsimp only
  refine (fundEvent v p request).trans ?_
  split
  · exact onPanel _ _
  · exact modDelay _ p _

theorem newRequest (v : ProgSide) (p : ProgId) : v.PagesKept (v.newRequest p) := by
  unfold ProgSide.newRequest
  dsimp only
  split
  · split
    · exact actSteady v p _
    · exact ((fundEvent v p _).trans (judgeGlide _ p)).trans (holdingFell _ p)
    · exact modDelay v p _
  · exact modDelay v p _

/-- A WAITING programme holds no page to be lost with it. -/
theorem undefineWaiting {v : ProgSide} {p : ProgId} (waiting : (v.prog p).state = .waiting) : v.PagesKept (v.undefineWaiting p) := by
  unfold ProgSide.undefineWaiting
  dsimp only
  refine ((leaveWait v p).trans ?_).trans (onPanel _ _)
  have waits : ((v.leaveWait p).prog p).state = .waiting := by rw [ProgSide.leaveWait_prog]; exact waiting
  refine replaced (v.leaveWait p) (d := (v.leaveWait p).dmc) (fun whole => ?_) (fun _ => rfl) (fun _ _ => rfl)
    fun _ undefined => nomatch undefined
  have none : ((v.leaveWait p).prog p).pages = [] :=
    List.flatMap_eq_nil_iff.2 fun m hm => by rw [Member.pages, whole.ringless p waits m hm]; rfl
  rw [none]
  exact .refl _

theorem beginRelease {v : ProgSide} {p : ProgId} (running : (v.prog p).state = .running) : v.PagesKept (v.beginRelease p) := by
  have rings : ((v.prog p).members.map (·.ring)) = (v.prog p).toReleasing.members.map (·.ring) := by
    rw [Prog.toReleasing_members, List.map_map]
    rfl
  have released : v.PagesKept (v.modProg p Prog.toReleasing) := by
    refine replaced v (d := v.dmc) (fun _ => ?_) (fun undefined => ?_) (fun _ undefined => nomatch undefined)
      fun _ waiting => nomatch waiting
    · rw [(v.prog p).pages_of_rings, rings, ← Prog.pages_of_rings]
      exact .refl _
    · rw [running] at undefined; cases undefined
  exact (released.trans (leaveWait _ p)).trans (holdingFell _ p)

/-! ## Completions -/

theorem glideEnd (v : ProgSide) (p : ProgId) : v.PagesKept (v.glideEnd p) := by
  unfold ProgSide.glideEnd
  split
  · exact completeGlide v p
  · exact refl v

theorem jumpFaded (v : ProgSide) (p : ProgId) : v.PagesKept (v.jumpFaded p) := by
  unfold ProgSide.jumpFaded
  split
  · refine (modProg v p ?_).trans (holdingFell _ p)
    exact ⟨rfl, (Prog.moveDelay_ringsKept (64 * (v.prog p).delay.funded) (v.prog p)).rings⟩
  · exact refl v

theorem fillEnd (v : ProgSide) (p : ProgId) : v.PagesKept (v.fillEnd p) := by
  unfold ProgSide.fillEnd
  split
  · exact modDelay v p _
  · exact refl v

theorem afterJump (v : ProgSide) (p : ProgId) (ahead : Bool) : v.PagesKept (v.afterJump p ahead) := by
  unfold ProgSide.afterJump
  split
  · exact (modDelay v p _).trans (actSteady _ p _)
  · split
    · exact modDelay v p _
    · exact refl v

theorem fadeInEnd (v : ProgSide) (p : ProgId) : v.PagesKept (v.fadeInEnd p) := by
  unfold ProgSide.fadeInEnd
  dsimp only
  split
  · exact (((modDelay v p _).trans (onPanel _ _)).trans (modDelay _ p _)).trans (afterJump _ p _)
  · exact refl v

/-- A dissolved programme's pages go back to the free list. -/
theorem dissolve (v : ProgSide) (p : ProgId) : v.PagesKept (v.dissolve p) := by
  unfold ProgSide.dissolve
  dsimp only
  refine .trans ?_ (serve _)
  refine replaced v (d := { v.dmc with free := _ }) (fun _ => ?_) (fun _ => rfl) (fun _ _ => rfl) fun _ undefined => nomatch undefined
  show ((v.dmc.free ++ _) ++ []).Perm _
  rw [List.append_nil]
  exact List.Perm.append_left _ (v.prog p).givenBack_perm

theorem releaseEnd (v : ProgSide) (p : ProgId) : v.PagesKept (v.releaseEnd p) := by
  unfold ProgSide.releaseEnd
  split
  · exact (event (dissolve v p)).trans (onPanel _ _)
  · exact refl v

/-! ## The boundary -/

theorem boundaryProg (f : Front) (v : ProgSide) (p : ProgId) : v.PagesKept (v.boundaryProg f p) := by
  by_cases live : (v.prog p).state.live = true
  · rw [ProgSide.boundaryProg_live live]
    dsimp only
    generalize (v.prog p).members.foldl f.writeMember v.dmc.dram = dram
    have state : (f.turnProg dram (v.prog p)).state = (v.prog p).state := by rw [Front.turnProg_rest]; rfl
    have members := f.turnProg_members dram (v.prog p)
    refine replaced v (d := { v.dmc with dram := dram }) (fun _ => ?_) (state.trans ·) (fun _ undefined => ?_) fun _ waiting => ?_
    · rw [Prog.pages, members, List.flatMap_map]
      refine List.Perm.append_left _ (List.Perm.flatMap_left _ fun m _ => ?_)
      show Member.pages { m with ring := m.ring.map Ring.advance } |>.Perm m.pages
      unfold Member.pages
      cases m.ring with
      | none => exact .refl _
      | some r => exact r.advance_chain_perm
    · rw [← state, undefined] at live; cases live
    · rw [← state, waiting] at live; cases live
  · rw [ProgSide.boundaryProg_idle live]
    exact refl v

theorem boundary (f : Front) (v : ProgSide) : v.PagesKept (v.boundary f) := foldl _ (boundaryProg f) _ v

theorem givePages (v : ProgSide) : v.PagesKept v.givePages := by
  refine foldl _ (fun u p => ?_) _ v
  unfold ProgSide.glidePages
  split
  · exact holdingFell u p
  · exact refl u

end ProgSide.PagesKept

/-! ## Definitions (R48, R74) -/

/-- A start does not ask what state the programme was in. -/
theorem ProgSide.startProg_modState (v : ProgSide) (p : ProgId) (delay : Nat) (state : ProgState) :
    (v.modProg p fun x => { x with state := state }).startProg p delay = v.startProg p delay := by
  have self := v.modProg_prog_self p fun x => { x with state := state }
  unfold ProgSide.startProg
  dsimp only
  rw [self]
  simp [ProgSide.modProg]

/-- A new programme waits until it is funded. -/
theorem ProgSide.fundNew_eq (v : ProgSide) (p : ProgId) : v.fundNew p =
    (let n := (v.prog p).members.length
     let request := (v.prog p).delay.requested
     let pages := pagesWithin v.dmc.free.length n
     let w := v.modProg p fun x => { x with state := .waiting }
     if n * pagesFor request ≤ v.dmc.free.length then w.startProg p request
     else if 1 ≤ pages then (w.startProg p (fundedBy pages request)).joinWait p
     else w.joinWait p) := by
  simp only [ProgSide.startProg_modState]
  rfl

/-- A definition where none was makes rings of free pages, if any. -/
theorem ProgSide.Whole.define {v : ProgSide} (h : v.Whole) {p : ProgId} (undefined : (v.prog p).state = .undefined) {x : Prog}
    (ringless : ∀ m ∈ x.members, m.ring = none) : (v.define p x).Whole := by
  have none : (v.prog p).pages = [] := by rw [Prog.pages, h.empty p undefined]; rfl
  have waits : ProgSide.Whole { v with progs := v.progs.set p { x with state := .waiting } } := by
    refine h.replaced (d := v.dmc) ?_ (fun undefined => nomatch undefined) fun _ => ringless
    have none' : Prog.pages { x with state := .waiting } = [] :=
      List.flatMap_eq_nil_iff.2 fun m hm => by rw [Member.pages, ringless m hm]; rfl
    rw [none, none']
  have same : ProgSide.modProg { v with progs := v.progs.set p x } p (fun x => { x with state := .waiting })
      = { v with progs := v.progs.set p { x with state := .waiting } } := by
    simp [ProgSide.modProg]
  have start (delay : Nat) : ProgSide.Whole (ProgSide.startProg p delay { v with progs := v.progs.set p { x with state := .waiting } }) :=
    PagesKept.startProg_whole waits (by rw [v.replaced_self v.dmc]; exact ringless) delay
  have funded : ProgSide.Whole (ProgSide.fundNew p { v with progs := v.progs.set p x }) := by
    rw [ProgSide.fundNew_eq, same]
    dsimp only
    split
    · exact start _
    · split
      · exact (PagesKept.joinWait _ p).whole (start _)
      · exact (PagesKept.joinWait _ p).whole waits
  unfold ProgSide.define ProgSide.event
  dsimp only
  split
  · exact funded
  · exact (PagesKept.onPanel _ _).whole funded

end Sys2Proof.Machine

/-! DELAY_DEFICIT (R79): no report of another block raises or clears it; on the lane side none of the operations does. -/
namespace Sys2Proof.Machine

/-! ## What the panel takes from other blocks -/

theorem Panel.acknowledge_isRaised (id : AlarmId) (v : Panel) {a : AlarmId} (loss : a ≠ .noticeLoss) :
    (v.acknowledge id).wch.isRaised a = v.wch.isRaised a := by
  unfold Panel.acknowledge
  split
  · rfl
  · split
    · rfl
    · rw [Panel.offer_isRaised _ _ loss, Panel.setTable_isRaised, List.any_map, Wch.isRaised]
      refine congrArg (List.any _) (funext fun e => ?_)
      simp only [Function.comp]
      split <;> rfl

/-- A programme's DELAY_DEFICIT is raised. -/
def Panel.deficit (v : Panel) (p : ProgId) : Bool := v.wch.isRaised (.delayDeficit p)

@[simp] theorem Panel.offer_deficit (n : Notice) (v : Panel) (p : ProgId) : (v.offer n).deficit p = v.deficit p :=
  Panel.offer_isRaised _ _ (by simp)

theorem Panel.raise_deficit {id : AlarmId} (v : Panel) {p : ProgId} (h : .delayDeficit p ≠ id) : (v.raise id).deficit p = v.deficit p :=
  Panel.raise_isRaised_other _ _ h (by simp)

theorem Panel.clear_deficit {id : AlarmId} (v : Panel) {p : ProgId} (h : .delayDeficit p ≠ id) : (v.clear id).deficit p = v.deficit p :=
  Panel.clear_isRaised_other _ _ h (by simp)

@[simp] theorem Panel.observe_deficit (o : WatchObject) (vs : Measure → Option Int) (v : Panel) (p : ProgId) :
    (v.observe o vs).deficit p = v.deficit p := Panel.observe_isRaised _ _ _ (by simp) (by simp)

@[simp] theorem Panel.acknowledge_deficit (id : AlarmId) (v : Panel) (p : ProgId) : (v.acknowledge id).deficit p = v.deficit p :=
  Panel.acknowledge_isRaised _ _ (by simp)

@[simp] theorem Panel.restartWatches_deficit (q : ProgId) (v : Panel) (p : ProgId) : (v.restartWatches q).deficit p = v.deficit p :=
  Panel.restartWatches_isRaised _ _ (by simp) (by simp)

@[simp] theorem Panel.takeResults_deficit (q : ProgId) (x : Prog) (v : Panel) (p : ProgId) :
    (v.takeResults q x).deficit p = v.deficit p := by
  unfold Panel.takeResults
  split
  · rfl
  · dsimp only
    split <;> simp

@[simp] theorem Panel.refChanged_deficit (new left : RefState) (latch : Bool) (v : Panel) (p : ProgId) :
    (v.refChanged new left latch).deficit p = v.deficit p := by
  unfold Panel.refChanged
  dsimp only
  split
  · rw [Panel.raise_deficit _ (by simp), Panel.observe_deficit, Panel.offer_deficit]
  · split
    · rw [Panel.clear_deficit _ (by simp), Panel.observe_deficit, Panel.offer_deficit]
    · rw [Panel.observe_deficit, Panel.offer_deficit]

/-! ## The lane side -/

/-- From the first view to the second no DELAY_DEFICIT is raised or cleared. -/
def LaneSide.DeficitsKept (v w : LaneSide) : Prop := ∀ p, w.panel.deficit p = v.panel.deficit p

namespace LaneSide.DeficitsKept

theorem refl (v : LaneSide) : v.DeficitsKept v := fun _ => rfl

theorem trans {u v w : LaneSide} (a : u.DeficitsKept v) (b : v.DeficitsKept w) : u.DeficitsKept w := fun p => (b p).trans (a p)

theorem foldl {α : Type} (f : LaneSide → α → LaneSide) (h : ∀ (v : LaneSide) (a : α), v.DeficitsKept (f v a)) (xs : List α)
    (v : LaneSide) : v.DeficitsKept (xs.foldl f v) :=
  List.foldlRecOn (motive := v.DeficitsKept) xs f (refl v) fun w hw a _ => hw.trans (h w a)

/-- The lanes and the queue stand apart from the panel. -/
theorem front (v : LaneSide) (f : Front) : v.DeficitsKept { v with front := f } := fun _ => rfl

theorem raise (v : LaneSide) {id : AlarmId} (h : ∀ p, .delayDeficit p ≠ id) : v.DeficitsKept (v.onPanel (Panel.raise id)) :=
  fun p => v.panel.raise_deficit (h p)

theorem clear (v : LaneSide) {id : AlarmId} (h : ∀ p, .delayDeficit p ≠ id) : v.DeficitsKept (v.onPanel (Panel.clear id)) :=
  fun p => v.panel.clear_deficit (h p)

theorem noticeLane (v : LaneSide) (l : LaneId) (left : LaneState) : v.DeficitsKept (v.noticeLane l left) :=
  fun _ => Panel.offer_deficit _ _ _

theorem modLane (v : LaneSide) (l : LaneId) (f : Lane → Lane) : v.DeficitsKept (v.modLane l f) := front v _

theorem move (v : LaneSide) (l : LaneId) (f : Lane → Lane) : v.DeficitsKept (v.move l f) := (modLane v l f).trans (noticeLane _ l _)

/-! ## The arbiter (R36, R37, R42) -/

theorem regrant (v : LaneSide) (l : LaneId) (m : ConvMode) : v.DeficitsKept (v.regrant l m) := modLane v l _

theorem enterRunning (v : LaneSide) (l : LaneId) (m : ConvMode) : v.DeficitsKept (v.enterRunning l m) :=
  ((modLane v l _).trans (noticeLane _ l _)).trans (clear _ (by simp))

theorem grant (v : LaneSide) (l : LaneId) (m : ConvMode) : v.DeficitsKept (v.grant l m) := by
  unfold LaneSide.grant
  split
  · exact enterRunning v l m
  · exact regrant v l m

theorem downgrade (need : Nat) (ds : List LaneId) (v : LaneSide) : v.DeficitsKept (v.downgrade need ds) := by
  induction ds generalizing v with
  | nil => exact refl v
  | cons d ds ih =>
    unfold LaneSide.downgrade
    split
    · exact refl v
    · split
      · exact (regrant v d _).trans (ih _)
      · exact ih v

theorem waitForBudget (v : LaneSide) (l : LaneId) : v.DeficitsKept (v.waitForBudget l) := by
  unfold LaneSide.waitForBudget
  split
  · exact (modLane v l _).trans (front _ _)
  · exact front v _

theorem ask (v : LaneSide) (l : LaneId) : v.DeficitsKept (v.ask l) := by
  unfold LaneSide.ask
  dsimp only
  split
  · exact grant v l _
  · refine .trans (downgrade (ConvMode.short.cost * (v.lane l).channels) allLanes.reverse v) ?_
    split
    · exact grant _ l _
    · exact waitForBudget _ l

theorem leaveQueue (v : LaneSide) (l : LaneId) : v.DeficitsKept (v.leaveQueue l) := front v _

theorem serve (v : LaneSide) (l : LaneId) : v.DeficitsKept (v.serve l) := by
  unfold LaneSide.serve
  dsimp only
  split
  · exact refl v
  · split
    · exact (leaveQueue v l).trans (enterRunning _ l _)
    · exact ((leaveQueue v l).trans (modLane _ l _)).trans (regrant _ l _)

theorem upgrade (v : LaneSide) (l : LaneId) : v.DeficitsKept (v.upgrade l) := by
  unfold LaneSide.upgrade
  dsimp only
  split
  · exact regrant v l _
  · exact refl v

theorem upgradePass (v : LaneSide) : v.DeficitsKept v.upgradePass := foldl _ upgrade _ v

theorem release (v : LaneSide) : v.DeficitsKept v.release := (foldl _ serve _ v).trans (upgradePass _)

theorem quit (v : LaneSide) (l : LaneId) (was : Lane) : v.DeficitsKept (v.quit l was) := by
  have stopped : v.DeficitsKept (((v.modConv l Converter.cleared).onPanel (Panel.clear (.slip l))).leaveQueue l) :=
    ((modLane v l _).trans (clear _ (by simp))).trans (leaveQueue _ l)
  unfold LaneSide.quit LaneSide.leaveEngine
  split
  · dsimp only
    split
    · exact stopped.trans (release _)
    · exact stopped
  · exact leaveQueue v l
  · exact refl v

theorem fillMoved (v : LaneSide) (l : LaneId) : v.DeficitsKept (v.fillMoved l) := by
  have exits (u : LaneSide) (due : Prop) [Decidable due] : u.DeficitsKept (if due then u.leaveBypass l else u) := by
    split
    · exact ask u l
    · exact refl u
  unfold LaneSide.fillMoved
  dsimp only
  refine .trans ?_ (exits _ _)
  split
  · exact modLane v l _
  · exact refl v

/-! ## Changes of state, activity and frames (R2, R3, R8 to R14, R18) -/

theorem fallSilent (v : LaneSide) (l : LaneId) : v.DeficitsKept (v.fallSilent l) := by
  unfold LaneSide.fallSilent
  dsimp only
  split
  · exact (move v l _).trans (clear _ (by simp))
  · exact move v l _

theorem lose (v : LaneSide) (l : LaneId) : v.DeficitsKept (v.lose l) := by
  unfold LaneSide.lose
  dsimp only
  refine (move v l Lane.toAbsent).trans (.trans ?_ (quit _ l _))
  split
  · exact raise _ (by simp)
  · exact refl _

theorem clearLane (v : LaneSide) (l : LaneId) : v.DeficitsKept (v.onPanel fun p => (p.clear (.laneLost l)).clear (.laneRejected l)) :=
  (clear v (id := .laneLost l) (by simp)).trans (clear _ (by simp))

theorem disable (v : LaneSide) (l : LaneId) : v.DeficitsKept (v.disable l) :=
  ((move v l Lane.toDisabled).trans (clearLane _ l)).trans (quit _ l (v.lane l))

theorem reset (v : LaneSide) (l : LaneId) : v.DeficitsKept (v.reset l) :=
  ((move v l Lane.toAbsent).trans (quit _ l (v.lane l))).trans (clearLane _ l)

theorem activity (v : LaneSide) (l : LaneId) : v.DeficitsKept (v.activity l) := by
  unfold LaneSide.activity
  dsimp only
  split
  · exact (modLane v l _).trans (move _ l _)
  · exact modLane v l _

theorem closeFrame (v : LaneSide) (l : LaneId) (f : LaneFrame) : v.DeficitsKept (v.closeFrame l f) := by
  unfold LaneSide.closeFrame
  dsimp only
  refine (modLane v l (Lane.judgeFrame f)).trans ?_
  split
  · split
    · exact move _ l _
    · exact refl _
  · exact (modLane _ l _).trans (fillMoved _ l)
  · exact refl _

theorem marker (v : LaneSide) (l : LaneId) (f : LaneFrame) : v.DeficitsKept (v.marker l f) := by
  have arrived : v.DeficitsKept (if 0 < f.bitPeriods then v.activity l else v) := by
    split
    · exact activity v l
    · exact refl v
  unfold LaneSide.marker
  dsimp only
  generalize (if 0 < f.bitPeriods then v.activity l else v) = u at arrived ⊢
  split
  · exact (arrived.trans (modLane u l _)).trans (closeFrame _ l f)
  · exact arrived.trans (modLane u l _)

/-! ## Gate expiry and lane fades (R5 to R12, R29 to R34, R39) -/

theorem reject (v : LaneSide) (l : LaneId) : v.DeficitsKept (v.reject l) := (move v l _).trans (raise _ (by simp))

theorem judgeSense (v : LaneSide) (l : LaneId) (count : Nat) : v.DeficitsKept (v.judgeSense l count) := by
  unfold LaneSide.judgeSense
  dsimp only
  refine (modLane v l fun x => { x with senseGates := satSucc 10 x.senseGates }).trans ?_
  split
  · split
    · exact (move _ l _).trans (ask _ l)
    · split
      · exact reject _ l
      · exact modLane _ l _
  · split
    · exact reject _ l
    · exact modLane _ l _

theorem judgeGate (v : LaneSide) (l : LaneId) (count : Nat) : v.DeficitsKept (v.judgeGate l count) := by
  unfold LaneSide.judgeGate
  dsimp only
  split
  · exact lose v l
  · split
    · exact judgeSense v l count
    · split
      · exact fallSilent v l
      · exact refl v

theorem enterBypass (v : LaneSide) (l : LaneId) : v.DeficitsKept (v.enterBypass l) := by
  unfold LaneSide.enterBypass
  dsimp only
  split
  · exact (regrant v l _).trans (release _)
  · exact (regrant v l _).trans (release _)
  · split
    · exact (modLane v l _).trans (leaveQueue _ l)
    · exact refl v
  · exact refl v

theorem judgeBypass (v : LaneSide) (l : LaneId) (count : Nat) : v.DeficitsKept (v.judgeBypass l count) := by
  have entry (u : LaneSide) : u.DeficitsKept (if (u.lane l).eligible = true then u.enterBypass l else u) := by
    split
    · exact enterBypass u l
    · exact refl u
  unfold LaneSide.judgeBypass
  dsimp only
  refine .trans ?_ (entry _)
  split
  · exact ask v l
  · exact refl v

theorem settleSlips (v : LaneSide) (l : LaneId) : v.DeficitsKept (v.settleSlips l) := by
  rw [LaneSide.settleSlips_eq]
  refine .trans (modLane v l Lane.slipsSettled) fun p => ?_
  split
  · exact Panel.clear_deficit _ (by simp)
  · rfl

theorem gateFigures (v : LaneSide) (l : LaneId) (count : Nat) : v.DeficitsKept (v.gateFigures l count) := by
  have seen (u : LaneSide) : u.DeficitsKept (u.onPanel (Panel.observe (.lane l) ((u.lane l).observed count))) :=
    fun p => by rw [LaneSide.onPanel_panel, Panel.observe_deficit]
  have judged := (modLane v l fun x => { x with conv := x.conv.updateRatio count }).trans (judgeBypass _ l count)
  exact (judged.trans (seen _)).trans (settleSlips _ l)

theorem expireGate (v : LaneSide) (l : LaneId) : v.DeficitsKept (v.expireGate l) := by
  have figures (u : LaneSide) (count : Nat) : u.DeficitsKept (if (u.lane l).state = .running then u.gateFigures l count else u) := by
    split
    · exact gateFigures u l count
    · exact refl u
  unfold LaneSide.expireGate
  dsimp only
  split
  · exact (((modLane v l Lane.endGate).trans (judgeGate _ l _)).trans (figures _ _)).trans (modLane _ l _)
  · exact refl v

theorem fadedPoint (v : LaneSide) (l : LaneId) : v.DeficitsKept (v.fadedPoint l) := by
  rw [LaneSide.fadedPoint_eq]
  split
  · exact (front v _).trans (raise _ (by simp))
  · exact front v _

theorem boundary (v : LaneSide) : v.DeficitsKept v.boundary := (front v _).trans (foldl _ fillMoved _ _)

/-! ## LANE_SET (R14, R17, R38) -/

theorem preferenceEffect (v : LaneSide) (l : LaneId) (old : LaneSettings) : v.DeficitsKept (v.preferenceEffect l old) := by
  unfold LaneSide.preferenceEffect LaneSide.preferenceChanged
  dsimp only
  split
  · exact refl v
  · split
    · exact (regrant v l _).trans (release _)
    · exact upgradePass v
    · exact refl v

theorem bypassEffect (v : LaneSide) (l : LaneId) (old : LaneSettings) : v.DeficitsKept (v.bypassEffect l old) := by
  unfold LaneSide.bypassEffect LaneSide.bypassForbidden
  split
  · split
    · exact ask v l
    · exact refl v
  · exact refl v

theorem countingEffect (v : LaneSide) (l : LaneId) (old : LaneSettings) : v.DeficitsKept (v.countingEffect l old) := by
  unfold LaneSide.countingEffect
  split
  · exact modLane v l _
  · exact refl v

theorem enableEffect (v : LaneSide) (l : LaneId) (on : Option Bool) : v.DeficitsKept (v.enableEffect l on) := by
  unfold LaneSide.enableEffect
  split
  · split
    · exact refl v
    · exact disable v l
  · split
    · exact move v l _
    · exact refl v
  · exact refl v

theorem setLane (v : LaneSide) (l : LaneId) (b : LaneSetBody) : v.DeficitsKept (v.setLane l b) := by
  rw [LaneSide.setLane_eq]
  have stored : v.DeficitsKept (v.store l b) := modLane v l _
  exact (((stored.trans (preferenceEffect _ l _)).trans (bypassEffect _ l _)).trans (countingEffect _ l _)).trans (enableEffect _ l _)

end LaneSide.DeficitsKept

end Sys2Proof.Machine

/-! What a command does to the programmes: every step is a chain of turns, each of them an operation on the delays, a definition, a
reset, or one that moves no delay, no page and no DELAY_DEFICIT. -/
namespace Sys2Proof.Machine

/-! ## Operations that leave the delays alone -/

/-- The second record has the first's state and rings, and its delay stands and moves as the first's. -/
structure Prog.DelayKept (x y : Prog) : Prop extends x.RingsKept y where
  requested : y.delay.requested = x.delay.requested
  pending : y.delay.pending = x.delay.pending
  funded : y.delay.funded = x.delay.funded
  current : y.delay.current = x.delay.current
  change : y.delay.change = x.delay.change

theorem Prog.RingsKept.delayKept {x y : Prog} (h : x.RingsKept y) (delay : y.delay = x.delay) : x.DelayKept y :=
  ⟨h, by rw [delay], by rw [delay], by rw [delay], by rw [delay], by rw [delay]⟩

theorem Prog.DelayKept.refl (x : Prog) : x.DelayKept x := (Prog.RingsKept.refl x).delayKept rfl

theorem Prog.DelayKept.trans {x y z : Prog} (a : x.DelayKept y) (b : y.DelayKept z) : x.DelayKept z :=
  ⟨a.toRingsKept.trans b.toRingsKept, b.requested.trans a.requested, b.pending.trans a.pending, b.funded.trans a.funded,
    b.current.trans a.current, b.change.trans a.change⟩

theorem Prog.restart_delayKept (x : Prog) : x.DelayKept x.restart :=
  Prog.RingsKept.delayKept (.map Member.clearMeter (fun _ => rfl) rfl rfl) rfl

theorem Prog.realign_delayKept (l : LaneId) (old new : Nat) (x : Prog) : x.DelayKept (x.realign l old new) := by
  unfold Prog.realign
  split
  · exact Prog.RingsKept.delayKept
      (.map (fun m => if m.spec.lane = l then { m with tap := m.tap + 64 * ((old : Int) - new) } else m)
        (fun m => by split <;> rfl) rfl rfl) rfl
  · exact .refl x

theorem Prog.packSubBlock_delayKept (x : Prog) : x.DelayKept x.packSubBlock :=
  Prog.RingsKept.delayKept (.map Member.packSubBlock (fun _ => rfl) rfl rfl) rfl

theorem Prog.completeBlock_delayKept (x : Prog) : x.DelayKept x.completeBlock := by
  unfold Prog.completeBlock
  dsimp only
  split <;> exact ⟨⟨rfl, rfl⟩, rfl, rfl, rfl, rfl, rfl⟩

/-- From the first view to the second every delay, every ring, the free list, the page wait list and DELAY_DEFICIT stand. -/
structure ProgSide.DelaysKept (v w : ProgSide) : Prop where
  prog : ∀ p, (v.prog p).DelayKept (w.prog p)
  free : w.dmc.free = v.dmc.free
  wait : w.dmc.wait = v.dmc.wait
  deficit : ∀ p, w.panel.deficit p = v.panel.deficit p

namespace ProgSide.DelaysKept

theorem refl (v : ProgSide) : v.DelaysKept v := ⟨fun _ => .refl _, rfl, rfl, fun _ => rfl⟩

theorem trans {u v w : ProgSide} (a : u.DelaysKept v) (b : v.DelaysKept w) : u.DelaysKept w :=
  ⟨fun p => (a.prog p).trans (b.prog p), b.free.trans a.free, b.wait.trans a.wait, fun p => (b.deficit p).trans (a.deficit p)⟩

theorem onPanel (v : ProgSide) {f : Panel → Panel} (h : ∀ p, (f v.panel).deficit p = v.panel.deficit p) : v.DelaysKept (v.onPanel f) :=
  ⟨fun _ => .refl _, rfl, rfl, h⟩

theorem replaced (v : ProgSide) {p : ProgId} {x : Prog} (h : (v.prog p).DelayKept x) :
    v.DelaysKept { v with progs := v.progs.set p x } := by
  refine ⟨fun q => ?_, rfl, rfl, fun _ => rfl⟩
  by_cases e : q = p
  · subst e; rwa [v.replaced_self v.dmc]
  · rw [v.replaced_other v.dmc _ e]; exact .refl _

theorem modProg (v : ProgSide) (p : ProgId) {f : Prog → Prog} (h : (v.prog p).DelayKept (f (v.prog p))) :
    v.DelaysKept (v.modProg p f) := replaced v h

theorem completeSubBlock (v : ProgSide) (p : ProgId) : v.DelaysKept (v.completeSubBlock p) := by
  have packed := (v.prog p).packSubBlock_delayKept
  unfold ProgSide.completeSubBlock
  dsimp only
  split
  · split
    · have block := packed.trans (Prog.completeBlock_delayKept _)
      have counted := block.trans (z := (v.prog p).packSubBlock.completeBlock.afterBlock) (Prog.RingsKept.delayKept ⟨rfl, rfl⟩ rfl)
      exact (replaced v counted).trans (onPanel _ fun q => Panel.takeResults_deficit _ _ _ q)
    · exact replaced v packed
  · exact refl v

/-- No ring has changed, so no page has moved. -/
theorem pagesKept {v w : ProgSide} (h : v.DelaysKept w) : v.PagesKept w := by
  have pages : heldPages w.progs = heldPages v.progs := List.flatMap_congr fun p _ => (h.prog p).pages
  refine ⟨fun whole => ⟨by rw [h.free, pages]; exact whole.pages, fun p undefined => ?_, fun p waiting m hm => ?_⟩,
    fun p undefined => (h.prog p).state.trans undefined⟩
  · have none := (h.prog p).rings
    rw [whole.empty p ((h.prog p).state.symm.trans undefined)] at none
    exact List.map_eq_nil_iff.1 none
  · have same : m.ring ∈ (v.prog p).members.map (·.ring) := (h.prog p).rings ▸ List.mem_map_of_mem hm
    obtain ⟨n, hn, ring⟩ := List.mem_map.1 same
    exact ring ▸ whole.ringless p ((h.prog p).state.symm.trans waiting) n hn

end ProgSide.DelaysKept

/-! ## Turns -/

/-- One operation on the programmes that neither defines one nor resets them. -/
inductive ProgSide.Act : ProgSide → ProgSide → Prop
  | kept {v w : ProgSide} (h : v.DelaysKept w) : Act v w
  | newRequest (v : ProgSide) (p : ProgId) : Act v (v.newRequest p)
  | undefineWaiting (v : ProgSide) (p : ProgId) (waiting : (v.prog p).state = .waiting) : Act v (v.undefineWaiting p)
  | beginRelease (v : ProgSide) (p : ProgId) (running : (v.prog p).state = .running) : Act v (v.beginRelease p)
  | glideEnd (v : ProgSide) (p : ProgId) : Act v (v.glideEnd p)
  | jumpFaded (v : ProgSide) (p : ProgId) : Act v (v.jumpFaded p)
  | fillEnd (v : ProgSide) (p : ProgId) : Act v (v.fillEnd p)
  | fadeInEnd (v : ProgSide) (p : ProgId) : Act v (v.fadeInEnd p)
  | releaseEnd (v : ProgSide) (p : ProgId) : Act v (v.releaseEnd p)
  | boundary (v : ProgSide) (f : Front) : Act v (v.boundary f).givePages

theorem ProgSide.Act.pagesKept {v w : ProgSide} (h : v.Act w) : v.PagesKept w := by
  cases h with
  | kept h => exact h.pagesKept
  | newRequest p => exact .newRequest v p
  | undefineWaiting p waiting => exact .undefineWaiting waiting
  | beginRelease p running => exact .beginRelease running
  | glideEnd p => exact .glideEnd v p
  | jumpFaded p => exact .jumpFaded v p
  | fillEnd p => exact .fillEnd v p
  | fadeInEnd p => exact .fadeInEnd v p
  | releaseEnd p => exact .releaseEnd v p
  | boundary f => exact (PagesKept.boundary f v).trans (.givePages _)

/-- Such operations one after the other. -/
abbrev ProgSide.Acts : ProgSide → ProgSide → Prop := Relation.ReflTransGen ProgSide.Act

theorem ProgSide.Acts.pagesKept {v w : ProgSide} (h : v.Acts w) : v.PagesKept w := by
  induction h with
  | refl => exact .refl v
  | tail _ last ih => exact ih.trans last.pagesKept

theorem ProgSide.Acts.foldl {α : Type} {f : ProgSide → α → ProgSide} (h : ∀ (v : ProgSide) (a : α), v.Acts (f v a)) (xs : List α)
    (v : ProgSide) : v.Acts (xs.foldl f v) :=
  List.foldlRecOn (motive := v.Acts) xs f .refl fun w hw a _ => hw.trans (h w a)

/-- A programme's outstanding completions are made one after the other. -/
theorem ProgSide.settleProg_acts (v : ProgSide) (p : ProgId) : v.Acts (v.settleProg p) := by
  have ramp (u : ProgSide) : u.DelaysKept (u.modProg p fun x => { x with gain := x.gain.endRamp }) :=
    .modProg u p (Prog.RingsKept.delayKept ⟨rfl, rfl⟩ rfl)
  have jump : v.Acts (((v.jumpFaded p).fillEnd p).fadeInEnd p) :=
    ((Relation.ReflTransGen.single (.jumpFaded v p)).tail (.fillEnd _ p)).tail (.fadeInEnd _ p)
  exact (((jump.tail (.glideEnd _ p)).tail (.kept (ramp _))).tail (.releaseEnd _ p)).tail (.kept (.completeSubBlock _ p))

/-- A record that a definition stores: no rings, no pending target, and a requested delay within its bounds. -/
structure Prog.New (x : Prog) : Prop where
  ringless : ∀ m ∈ x.members, m.ring = none
  pending : x.delay.pending = none
  requested : 48 ≤ x.delay.requested ∧ x.delay.requested ≤ 96000

/-- The programmes and the delay memory as a reset leaves them. -/
structure ProgSide.AtReset (v : ProgSide) : Prop where
  prog : ∀ p, v.prog p = Prog.undefined
  free : v.dmc.free = allPages
  wait : v.dmc.wait = []
  deficit : ∀ p, v.panel.deficit p = false

/-- One operation on the programmes. -/
inductive ProgSide.Turn : ProgSide → ProgSide → Prop
  | act {v w : ProgSide} (h : v.Act w) : Turn v w
  | define (v : ProgSide) (p : ProgId) (x : Prog) (undefined : (v.prog p).state = .undefined) (new : x.New) : Turn v (v.define p x)
  | reset {v w : ProgSide} (h : w.AtReset) : Turn v w

/-- Operations one after the other. -/
abbrev ProgSide.Turns : ProgSide → ProgSide → Prop := Relation.ReflTransGen ProgSide.Turn

theorem ProgSide.Acts.turns {v w : ProgSide} (h : v.Acts w) : v.Turns w := by
  induction h with
  | refl => exact .refl
  | tail _ last ih => exact ih.tail (.act last)

theorem ProgSide.AtReset.whole {v : ProgSide} (h : v.AtReset) : v.Whole := by
  have none : heldPages v.progs = [] := List.flatMap_eq_nil_iff.2 fun p _ => by
    rw [show v.progs[p] = Prog.undefined from h.prog p]; rfl
  refine ⟨?_, fun p _ => by rw [h.prog p]; rfl, fun p _ => by rw [h.prog p]; exact fun m hm => nomatch hm⟩
  rw [h.free, none, List.append_nil]

theorem ProgSide.Turn.whole {v w : ProgSide} (h : v.Turn w) (hv : v.Whole) : w.Whole := by
  cases h with
  | act h => exact h.pagesKept.whole hv
  | define p x undefined new => exact hv.define undefined new.ringless
  | reset h => exact h.whole

theorem ProgSide.Turns.whole {v w : ProgSide} (h : v.Turns w) (hv : v.Whole) : w.Whole := by
  induction h with
  | refl => exact hv
  | tail _ last ih => exact last.whole ih

theorem Prog.defined_new (ms : List MemberDef) : (Prog.defined ms).New :=
  ⟨fun m hm => by obtain ⟨d, -, rfl⟩ := List.mem_map.1 hm; rfl, rfl,
    by simp [Prog.defined, Prog.undefined, DelayRec.fresh, Config.minDelay]⟩

theorem requestedDelay_bounds (video : Nat) (trim : Int) : 48 ≤ requestedDelay video trim ∧ requestedDelay video trim ≤ 96000 := by
  rw [requestedDelay, clampInt_eq _ _ _ (by decide)]
  simp only [Config.minDelay, Config.maxDelay]
  omega

theorem ProgRecord.stored_new (r : ProgRecord) (ms : List MemberDef) : (r.stored ms).New :=
  ⟨(Prog.defined_new ms).ringless, rfl, requestedDelay_bounds _ _⟩

end Sys2Proof.Machine

/-! Every step is a chain of turns on the programmes, a definition only ever of an UNDEFINED one; no programme is defined while the load
is in progress. -/
namespace Sys2Proof.Machine

/-- While the load is in progress every programme is UNDEFINED (R187, R189). -/
def State.LoadClear (s : State) : Prop := s.pfu.outcome = .loading → ∀ p : ProgId, (s.prog p).state = .undefined

/-- From a state whose load is clear, the second state is reached by turns, and its load is clear. -/
def State.Moves (s t : State) : Prop := s.LoadClear → s.progSide.Turns t.progSide ∧ t.LoadClear

theorem State.pagesConserved_iff (s : State) : s.PagesConserved ↔ s.progSide.Whole ∧ s.LoadClear :=
  ⟨fun ⟨pages, empty, ringless, clear⟩ => ⟨⟨pages, empty, ringless⟩, clear⟩,
    fun ⟨whole, clear⟩ => ⟨whole.pages, whole.empty, whole.ringless, clear⟩⟩

theorem ProgSide.boundary_panel (f : Front) (v : ProgSide) : (v.boundary f).panel = v.panel ∧ (v.boundary f).latencies = v.latencies := by
  refine List.foldlRecOn (motive := fun u : ProgSide => u.panel = v.panel ∧ u.latencies = v.latencies) _ _ ⟨rfl, rfl⟩
    fun u hu p _ => ?_
  unfold ProgSide.boundaryProg
  dsimp only
  split
  · exact hu
  · exact hu

namespace State.Moves

theorem trans {s t u : State} (a : s.Moves t) (b : t.Moves u) : s.Moves u := fun clear =>
  have ⟨first, between⟩ := a clear
  have ⟨then_, after⟩ := b between
  ⟨first.trans then_, after⟩

/-- An operation that leaves the delays alone and ends no load. -/
theorem kept {s t : State} (h : s.progSide.DelaysKept t.progSide) (outcome : t.pfu.outcome = s.pfu.outcome) : s.Moves t := fun clear =>
  ⟨.single (.act (.kept h)), fun loading p => (h.prog p).state.trans (clear (outcome ▸ loading) p)⟩

/-- Nothing of the programmes, the delay memory or the alarm table has changed. -/
theorem same {s t : State} (h : t.progSide = { s.progSide with panel := t.panel } := by rfl)
    (deficit : ∀ p, t.panel.deficit p = s.panel.deficit p := by exact fun _ => rfl)
    (outcome : t.pfu.outcome = s.pfu.outcome := by rfl) : s.Moves t :=
  kept (h ▸ ⟨fun _ => .refl _, rfl, rfl, deficit⟩) outcome

theorem refl (s : State) : s.Moves s := same

theorem foldl {α : Type} (f : State → α → State) (h : ∀ (s : State) (a : α), s.Moves (f s a)) (xs : List α) (s : State) :
    s.Moves (xs.foldl f s) :=
  List.foldlRecOn (motive := s.Moves) xs f (refl s) fun t ht a _ => ht.trans (h t a)

theorem onPanel (s : State) {f : Panel → Panel} (h : ∀ p, (f s.panel).deficit p = s.panel.deficit p) : s.Moves (s.onPanel f) :=
  same rfl h

theorem onLanes (s : State) {f : LaneSide → LaneSide} (h : s.laneSide.DeficitsKept (f s.laneSide)) : s.Moves (s.onLanes f) :=
  kept ⟨fun _ => .refl _, rfl, rfl, h⟩ rfl

/-- What the state keeps of a view of its programmes. -/
theorem written (s : State) (f : ProgSide → ProgSide) : (f s.progSide).DelaysKept (s.onProgs f).progSide :=
  ⟨fun _ => .refl _, rfl, rfl, fun _ => rfl⟩

theorem onActs (s : State) {f : ProgSide → ProgSide} (h : s.progSide.Acts (f s.progSide)) : s.Moves (s.onProgs f) := fun clear =>
  ⟨.tail h.turns (.act (.kept (written s f))),
    fun loading p => h.pagesKept.undefined p (clear loading p)⟩

theorem onProgs (s : State) {f : ProgSide → ProgSide} (h : s.progSide.Act (f s.progSide)) : s.Moves (s.onProgs f) := onActs s (.single h)

theorem modProg (s : State) (p : ProgId) {f : Prog → Prog} (h : (s.prog p).DelayKept (f (s.prog p))) : s.Moves (s.modProg p f) :=
  onProgs s (.kept (.modProg _ p h))

/-- A definition of an UNDEFINED programme, the load not in progress. -/
theorem define {s : State} {p : ProgId} (undefined : (s.prog p).state = .undefined) (loaded : s.pfu.outcome ≠ .loading) {x : Prog}
    (new : x.New) : s.Moves (s.onProgs (ProgSide.define p x)) := fun _ =>
  ⟨.tail (.single (.define s.progSide p x undefined new)) (.act (.kept (written s _))), fun loading => absurd loading loaded⟩

theorem afterReset (s : State) (rate : Nat) (dram mem : Memory) (pending : List Instr) :
    s.Moves (State.afterReset rate dram mem pending) := fun _ =>
  have reset : (State.afterReset rate dram mem pending).progSide.AtReset :=
    ⟨fun p => State.afterReset_prog rate dram mem pending p, by rw [State.progSide_dmc, State.afterReset],
      by rw [State.progSide_dmc, State.afterReset], fun _ => rfl⟩
  ⟨.single (.reset reset), fun _ p => by rw [State.afterReset_prog]; rfl⟩

/-! ## Requests (R177) -/

theorem answerRequest (req : Request) {s : State} {a : Answer} (h : s.Moves a.2.2) : s.Moves (answerRequest req a) := h.trans same

/-- A request taken, its block's answer being such a move; no block but STATUS and PROFILE_INFO answers while the load is in progress. -/
theorem take {s : State} {ofKind : Byte → Bool} {inLoad : Bool} {act : List Byte → State → Answer}
    (h : (inLoad = false → s.pfu.outcome ≠ .loading) → ∀ body, s.Moves (act body s).2.2) :
    s.Moves (State.takeRequest ofKind inLoad act s) := by
  unfold State.takeRequest
  split
  · exact refl s
  · split
    · split
      · exact answerRequest _ (refl s)
      · next free => exact answerRequest _ (h (fun always loading => free ⟨loading, always⟩) _)
    · exact refl s

theorem withBody {s : State} {α : Type} {read : List Byte → Option α} {act : α → State → Answer} {body : List Byte}
    (h : ∀ a, s.Moves (act a s).2.2) : s.Moves (withBody read act body s).2.2 := by
  unfold Machine.withBody
  split
  · exact refl s
  · exact h _

theorem takeBody {s : State} {ofKind : Byte → Bool} {inLoad : Bool} {α : Type} {read : List Byte → Option α} {act : α → State → Answer}
    (h : ∀ a, s.Moves (act a s).2.2) : s.Moves (State.takeRequest ofKind inLoad (Machine.withBody read act) s) :=
  take fun _ _ => withBody h

/-- A request on a programme acts in the states that allow it (R53). -/
theorem onProg {s : State} {refuses : ProgState → Option Status} {n : Nat} {act : ProgId → State → Answer}
    (h : ∀ p, refuses (s.prog p).state = none → s.Moves (act p s).2.2) : s.Moves (onProg refuses n act s).2.2 := by
  unfold Machine.onProg
  split
  · exact refl s
  · split
    · exact refl s
    · next admitted => exact h _ admitted

theorem onLane {s : State} {n : Nat} {act : LaneId → State → Answer} (h : ∀ l, s.Moves (act l s).2.2) :
    s.Moves (onLane n act s).2.2 := by
  unfold Machine.onLane
  split
  · exact refl s
  · exact h _

theorem laneResetAnswer (s : State) (l : LaneId) : s.Moves (laneResetAnswer l s).2.2 := by
  unfold Machine.laneResetAnswer
  split
  · exact refl s
  · exact onLanes s (.reset _ l)

theorem refusesDefine_none {q : ProgState} (h : q.refusesDefine = none) : q = .undefined := by
  cases q with
  | undefined => rfl
  | waiting => cases h
  | running => cases h
  | releasing => cases h

theorem progDefineAnswer {s : State} (loaded : s.pfu.outcome ≠ .loading) (ms : List MemberBody) {p : ProgId}
    (admitted : ProgState.refusesDefine (s.prog p).state = none) : s.Moves (progDefineAnswer ms p s).2.2 := by
  unfold Machine.progDefineAnswer
  split
  · exact refl s
  · exact define (refusesDefine_none admitted) loaded (Prog.defined_new _)

theorem progUndefineAnswer (s : State) {p : ProgId} (admitted : ProgState.refusesSetting (s.prog p).state = none) :
    s.Moves (progUndefineAnswer p s).2.2 := by
  refine onProgs s ?_
  by_cases waiting : (s.prog p).state = .waiting
  · rw [if_pos waiting]
    exact .undefineWaiting _ p waiting
  · rw [if_neg waiting]
    refine .beginRelease _ p ?_
    change (s.prog p).state = .running
    cases state : (s.prog p).state with
    | undefined => rw [state] at admitted; cases admitted
    | waiting => exact absurd state waiting
    | running => rfl
    | releasing => rw [state] at admitted; cases admitted

/-- Settings of the delay stored, and the request that they make (R86, R88). -/
theorem requested (s : State) (p : ProgId) (f : DelayRec → DelayRec) (act : Prop) [Decidable act]
    (store : ∀ x : Prog, x.DelayKept { x with delay := f x.delay }) :
    s.Moves (s.onProgs fun v => if act then (v.modDelay p f).newRequest p else v.modDelay p f) := by
  have stored : s.progSide.DelaysKept (s.progSide.modDelay p f) := .modProg _ p (store _)
  refine onActs s ?_
  split
  · exact (Relation.ReflTransGen.single (.kept stored)).tail (.newRequest _ p)
  · exact .single (.kept stored)

theorem videoLatencyAnswer (s : State) (n : Nat) (p : ProgId) : s.Moves (videoLatencyAnswer n p s).2.2 :=
  onActs s (f := fun v => (v.modDelay p fun r => { r with video := min Config.maxDelay n }).newRequest p)
    (.tail (.single (.kept (.modProg _ p ⟨⟨rfl, rfl⟩, rfl, rfl, rfl, rfl, rfl⟩))) (.newRequest _ p))

theorem delaySetAnswer (s : State) (b : DelaySetBody) (p : ProgId) : s.Moves (delaySetAnswer b p s).2.2 :=
  requested s p (DelayRec.store b) (b.trim.isSome = true) fun _ => ⟨⟨rfl, rfl⟩, rfl, rfl, rfl, rfl, rfl⟩

theorem statusAnswer (s : State) (clear : Bool) : s.Moves (statusAnswer clear s).2.2 := by
  cases clear with
  | false => exact refl s
  | true =>
    exact .trans (t := { s with refu := { s.refu with latch := false } }) same
      (onPanel _ fun _ => Panel.clear_deficit ({ s.panel with lnk := { s.lnk with loss := 0 } }) (by simp))

theorem setWatchParts_deficit (part : Option (WatchId × WatchRecord)) (level : Option Nat) (v : Panel) (p : ProgId) :
    (v.setWatchParts part level).deficit p = v.deficit p := by
  unfold Panel.setWatchParts
  dsimp only
  rw [Panel.deficit, Panel.setMajorLevel_isRaised]
  cases part with
  | none => rfl
  | some part => exact Panel.restartWatch_isRaised_other (by simp) (by simp) _ v

theorem watchSetAnswer (s : State) (b : WatchSetBody) : s.Moves (watchSetAnswer b s).2.2 := by
  unfold Machine.watchSetAnswer
  split
  · exact refl s
  · exact onPanel s fun p => setWatchParts_deficit _ _ _ p

theorem watchQueryAnswer (s : State) (n : Nat) : s.Moves (watchQueryAnswer n s).2.2 := by
  unfold Machine.watchQueryAnswer
  split <;> exact refl s

theorem alarmAckAnswer (s : State) (n : Nat) : s.Moves (alarmAckAnswer n s).2.2 := by
  unfold Machine.alarmAckAnswer
  split
  · exact refl s
  · split
    · exact refl s
    · exact onPanel s fun p => Panel.acknowledge_deficit _ _ p

theorem monitorSetAnswer (s : State) (b : Option Nat × Option Bool) : s.Moves (monitorSetAnswer b s).2.2 := by
  have taken (selected : Option (Option ProgId)) : s.Moves (monitorTaken selected b.2 s).2.2 := same
  unfold Machine.monitorSetAnswer
  split
  · exact taken none
  · exact refl s
  · exact taken _

theorem profileStoreAnswer (s : State) : s.Moves (profileStoreAnswer () s).2.2 := by
  unfold Machine.profileStoreAnswer
  split
  · exact refl s
  · exact same

theorem restarted (s : State) : s.Moves s.restarted := by
  unfold State.restarted
  split
  · exact afterReset s _ _ _ _
  · exact refl s

/-! ## The reference unit (R21 to R25) -/

theorem changeRef (s : State) (new : RefState) : s.Moves (s.changeRef new) :=
  .trans (t := { s with refu := { s.refu with state := new, latch := s.refu.latch || new == .holdover } }) same
    (onPanel _ fun p => Panel.refChanged_deficit _ _ _ _ p)

theorem presenceReached (s : State) : s.Moves s.presenceReached := by
  unfold State.presenceReached
  split
  · exact changeRef s _
  · exact refl s

theorem silenceReached (s : State) : s.Moves s.silenceReached := by
  unfold State.silenceReached
  split
  · exact changeRef s _
  · exact refl s

theorem strobe (s : State) (phase : Int) : s.Moves (s.strobe phase) := by
  have seen : s.Moves { s with refu := { s.refu with strobeSeen := true } } := same
  unfold State.strobe
  dsimp only
  split
  · exact seen.trans (changeRef _ _)
  · exact seen

/-! ## The boundary -/

theorem realigned (s : State) (l : LaneId) (old new : Nat) : s.Moves { s with progs := s.progs.map (Prog.realign l old new) } := by
  have prog (p : ProgId) : (s.progs.map (Prog.realign l old new))[p] = (s.prog p).realign l old new := by simp [State.prog]
  refine kept ⟨fun p => ?_, rfl, rfl, fun _ => rfl⟩ rfl
  change (s.prog p).DelayKept (s.progs.map (Prog.realign l old new))[p]
  rw [prog]
  exact Prog.realign_delayKept l old new _

theorem laneFadedPoint (s : State) (l : LaneId) : s.Moves (s.laneFadedPoint l) := by
  unfold State.laneFadedPoint
  split
  · exact (onLanes s (.fadedPoint _ l)).trans (realigned _ l _ _)
  · exact refl s

theorem laneFadeEnd (s : State) (l : LaneId) : s.Moves (s.laneFadeEnd l) := by
  unfold State.laneFadeEnd
  split
  · exact onLanes s (.modLane _ l _)
  · exact refl s

theorem endRamp (s : State) (p : ProgId) : s.Moves (s.modProg p fun x => { x with gain := x.gain.endRamp }) :=
  modProg s p (Prog.RingsKept.delayKept ⟨rfl, rfl⟩ rfl)

theorem settle (s : State) : s.Moves s.settle := by
  have counted : s.Moves s.presenceReached.silenceReached := (presenceReached s).trans (silenceReached _)
  have gates := counted.trans (foldl State.settleGate (fun s l => onLanes s (.expireGate _ l)) allLanes _)
  have fades := gates.trans (foldl State.settleFade (fun s l => (laneFadedPoint s l).trans (laneFadeEnd _ l)) allLanes _)
  unfold State.settle
  dsimp only
  generalize allLanes.foldl State.settleFade _ = u at fades ⊢
  exact fades.trans (onActs u (.foldl ProgSide.settleProg_acts _ _))

theorem countFrame (s : State) : s.Moves { s with refu := s.refu.boundary } := same

theorem outputs (s : State) (out : Outputs) : s.Moves { s with out := out } := same

/-- The view a state gives of its programmes after an operation that left the lane latencies and the clock alone. -/
theorem onProgs_progSide {s : State} {f : ProgSide → ProgSide} (latencies : (f s.progSide).latencies = s.latencies)
    (now : (f s.progSide).panel.now = s.refu.clock) : (s.onProgs f).progSide = f s.progSide := by
  have view (v : ProgSide) (e : f s.progSide = v) : (s.onProgs f).progSide =
      { latencies := s.latencies, progs := v.progs, dmc := v.dmc,
        panel := { now := s.refu.clock, wch := v.panel.wch, lnk := v.panel.lnk } } := by
    subst e; rfl
  rw [view _ rfl, ← latencies, ← now]

/-- Work on the programmes before and after the outputs are driven, the first leaving the lane latencies and the clock alone. -/
theorem drive_onProgs {s : State} {g h : ProgSide → ProgSide} (latencies : (g s.progSide).latencies = s.latencies)
    (now : (g s.progSide).panel.now = s.refu.clock) :
    (s.onProgs g).drive.onProgs h = { s.onProgs (fun v => h (g v)) with out := (s.onProgs g).drive.out } := by
  have view : (s.onProgs g).drive.progSide = g s.progSide := onProgs_progSide latencies now
  have given (t : State) (f : ProgSide → ProgSide) : t.onProgs f =
      { t with progs := (f t.progSide).progs, dmc := (f t.progSide).dmc, wch := (f t.progSide).panel.wch,
               lnk := (f t.progSide).panel.lnk } := rfl
  rw [given _ h, view]
  rfl

theorem frameBoundary (s : State) : s.Moves s.frameBoundary := by
  have counted : s.Moves { s.settle with refu := s.settle.refu.boundary } := (settle s).trans (countFrame _)
  unfold State.frameBoundary
  dsimp only
  generalize ({ s.settle with refu := s.settle.refu.boundary } : State) = u at counted ⊢
  have lanes := counted.trans (onLanes u (.boundary _))
  generalize u.onLanes LaneSide.boundary = u at lanes ⊢
  obtain ⟨panel, latencies⟩ := u.progSide.boundary_panel u.front
  rw [drive_onProgs latencies (by rw [panel]; rfl)]
  have given : u.Moves (u.onProgs fun v => (v.boundary u.front).givePages) := onProgs u (.boundary u.progSide u.front)
  exact (lanes.trans given).trans (outputs _ _)

end State.Moves
end Sys2Proof.Machine

/-! Every step is a chain of turns on the programmes: the profile load, and every command. -/
namespace Sys2Proof.Machine
namespace State.Moves

/-! ## The profile (R188 to R194) -/

/-- One stored programme is defined, or skipped; no other programme is touched. -/
theorem applyProg (s : State) {r : ProgRecord} (undefined : ∀ p : ProgId, p.val = r.prog → (s.prog p).state = .undefined) :
    s.progSide.Turns (s.applyProg r).progSide ∧ ∀ q : ProgId, q.val ≠ r.prog → (s.applyProg r).prog q = s.prog q := by
  unfold State.applyProg
  split
  · next p defs number _ =>
    have number : p.val = r.prog := by
      unfold progOf at number
      split at number
      · cases number; rfl
      · cases number
    refine ⟨.tail (.single (.define s.progSide p (r.stored defs) (undefined p number) (r.stored_new defs))) (.act (.kept (written _ _))),
      fun q other => ?_⟩
    exact s.progSide.define_prog_other _ fun e => other (e ▸ number)
  · exact ⟨.refl, fun _ _ => rfl⟩

/-- The stored programmes, their numbers all different, none of them defined before. -/
theorem applyProgs (rs : List ProgRecord) (s : State) (distinct : (rs.map (·.prog)).Nodup)
    (undefined : ∀ r ∈ rs, ∀ p : ProgId, p.val = r.prog → (s.prog p).state = .undefined) :
    s.progSide.Turns (rs.foldl State.applyProg s).progSide := by
  induction rs generalizing s with
  | nil => exact .refl
  | cons r rs ih =>
    obtain ⟨apart, distinct⟩ := List.nodup_cons.1 distinct
    obtain ⟨first, others⟩ := applyProg s (undefined r List.mem_cons_self)
    refine first.trans (ih _ distinct fun r' later p number => ?_)
    rw [others p fun e => apart (List.mem_map.2 ⟨r', later, by rw [← number, e]⟩)]
    exact undefined r' (.tail r later) p number

theorem foldl_kept {α : Type} {f : State → α → State} (h : ∀ (s : State) (a : α), s.progSide.DelaysKept (f s a).progSide) (xs : List α)
    (s : State) : s.progSide.DelaysKept (xs.foldl f s).progSide :=
  List.foldlRecOn (motive := fun t => s.progSide.DelaysKept t.progSide) xs f (.refl _) fun t ht a _ => ht.trans (h t a)

theorem onLanes_kept (s : State) {f : LaneSide → LaneSide} (h : s.laneSide.DeficitsKept (f s.laneSide)) :
    s.progSide.DelaysKept (s.onLanes f).progSide := ⟨fun _ => .refl _, rfl, rfl, h⟩

theorem applyWatch_kept (major : Nat) (s : State) (w : WatchId × WatchBody) :
    s.progSide.DelaysKept (applyWatch major s w).progSide := by
  obtain ⟨w, b⟩ := w
  rw [applyWatch_eq]
  split
  · exact .refl _
  · exact ⟨fun _ => .refl _, rfl, rfl, fun p => setWatchParts_deficit _ _ s.panel p⟩

/-- A profile's settings applied while every programme is UNDEFINED. -/
theorem applyProfile {s : State} {q : Profile} (ascending : ascendingBelow16 (q.progs.map (·.prog)) = true)
    (undefined : ∀ p, (s.prog p).state = .undefined) : s.progSide.Turns (s.applyProfile q).progSide := by
  have lanes : s.progSide.DelaysKept (s.applyLanes q.lanes).progSide :=
    foldl_kept (f := fun s (r : LaneId × LaneRecord) => s.onLanes (LaneSide.setLane r.1 (r.2.body r.1)))
      (fun s r => onLanes_kept s (.setLane _ _ _)) _ s
  have progs := applyProgs q.progs (s.applyLanes q.lanes) ((ascendingBelow16_sorted ascending).1.imp Nat.ne_of_lt)
    fun _ _ p _ => (lanes.prog p).state.trans (undefined p)
  have watches := foldl_kept (applyWatch_kept q.majorLevel) (allWatches.zip q.watches)
    (q.progs.foldl State.applyProg (s.applyLanes q.lanes))
  exact (progs.head (.act (.kept lanes))).tail (.act (.kept watches))

/-- The load ends with a profile applied, whatever the panel then takes. -/
theorem loaded {s t u : State} {q : Profile} {o : LoadOutcome} (start : u.progSide = s.progSide)
    (ascending : ascendingBelow16 (q.progs.map (·.prog)) = true) (undefined : ∀ p, (u.prog p).state = .undefined)
    (reported : (u.applyProfile q).progSide.DelaysKept t.progSide) (ended : o ≠ .loading) :
    s.progSide.Turns (t.setOutcome o).progSide ∧ (t.setOutcome o).LoadClear :=
  ⟨start ▸ (applyProfile ascending undefined).tail (.act (.kept reported)), fun loading => absurd loading ended⟩

theorem loadEnd (s : State) : s.Moves s.loadEnd := by
  intro clear
  unfold State.loadEnd
  split
  · next loading =>
    have undefined := clear loading
    have raised (t : State) : t.progSide.DelaysKept (t.onPanel (Panel.raise .profileFault)).progSide :=
      ⟨fun _ => .refl _, rfl, rfl, fun p => t.panel.raise_deficit (by simp)⟩
    have failed : s.pfu.failure ≠ .loading := by unfold Pfu.failure; split <;> simp
    have start : ({ s with pfu := s.pfu.readStart } : State).progSide = s.progSide := rfl
    dsimp only
    split
    · next q image => exact loaded start (Pfu.image_read image).ascending undefined (.refl _) (by simp)
    · exact loaded start (q := Profile.factory) rfl undefined (raised _) failed
  · exact ⟨.refl, clear⟩

theorem storeSucceeds (s : State) (o : StoreOp) : s.Moves (s.storeSucceeds o) :=
  .trans (t := { s with pfu := { s.pfu with store := none, storeCount := o.storeCount, lastStore := .succeeded } }) same
    (onPanel _ (f := fun v => (v.clear .profileFault).offer _) fun p => by
      rw [Panel.offer_deficit, Panel.clear_deficit _ (by simp)])

theorem storeFails (s : State) (o : StoreOp) (whole : Bool) : s.Moves (s.storeFails o whole) :=
  .trans (t := { s with pfu := { s.pfu with
      mem := if whole then o.commit s.pfu.mem else s.pfu.mem, store := none, lastStore := .failed } }) same
    (onPanel _ (f := fun v => (v.raise .profileFault).offer _) fun p => by
      rw [Panel.offer_deficit, Panel.raise_deficit _ (by simp)])

theorem transferAcked (s : State) : s.Moves s.transferAcked := by
  unfold State.transferAcked
  split
  · exact refl s
  · next o _ =>
    have committed : s.Moves { s with pfu := { s.pfu with mem := o.commit s.pfu.mem } } := same
    dsimp only
    split
    · exact committed.trans (storeSucceeds _ o)
    · exact committed.trans same

theorem ackTimeout (s : State) (whole : Bool) : s.Moves (s.ackTimeout whole) := by
  unfold State.ackTimeout
  split
  · exact storeFails s _ whole
  · split
    · exact same
    · exact refl s

/-! ## Every command -/

theorem carry {s t : State} {effect : State → State} (he : s.carry effect = .next t) (h : s.Moves (effect s)) : s.Moves t := by
  cases hp : s.powered with
  | true =>
    rw [State.carry_on hp] at he
    cases he
    exact h.trans same
  | false =>
    rw [State.carry_off hp] at he
    cases he
    exact refl s

theorem carryLink {s t : State} {f : Lnk → Lnk} (he : s.carry (fun s => s.onLink f) = .next t) : s.Moves t :=
  carry he (t := t) (effect := fun s => s.onLink f) same

theorem carryLanes {s t : State} {f : LaneSide → LaneSide} (he : s.carry (fun s => s.onLanes f) = .next t)
    (h : s.laneSide.DeficitsKept (f s.laneSide)) : s.Moves t := carry he (onLanes s h)

theorem carryProgs {s t : State} {f : ProgSide → ProgSide} (he : s.carry (fun s => s.onProgs f) = .next t)
    (h : s.progSide.Act (f s.progSide)) : s.Moves t := carry he (onProgs s h)

theorem ofExec {c : Instr} {s t : State} (he : exec c s = .next t) : s.Moves t := by
  have settings {p : ProgId} {f : Prog → Prog} (h : ∀ x : Prog, x.DelayKept (f x)) : s.Moves (s.modProg p f) := modProg s p (h _)
  cases c with
  | powerOn a b => cases he; exact afterReset s _ _ _ _
  | powerLoss => cases he; exact (afterReset s s.lnk.lineRate s.dmc.dram s.pfu.mem s.pending).trans same
  | restart => exact carry he (takeBody fun _ => same)
  | restartTakesEffect => exact carry he (restarted s)
  | frameReceived bytes => exact carryLink he
  | lengthFieldExceeds1024 bytes => exact carryLink he
  | interByteTimeout => exact carryLink he
  | characterError => exact carryLink he
  | txFrameEnd => exact carryLink he
  | unknownKindRequest => exact carry he (take fun _ _ => refl s)
  | status => exact carry he (takeBody (statusAnswer s))
  | credit => exact carry he (takeBody fun _ => same)
  | laneQuery => exact carry he (takeBody fun _ => onLane fun _ => refl s)
  | laneSet => exact carry he (takeBody fun b => onLane fun l => onLanes s (.setLane _ l b))
  | laneReset => exact carry he (takeBody fun _ => onLane (laneResetAnswer s))
  | progDefine => exact carry he (take fun loaded _ => withBody fun b => onProg fun _ => progDefineAnswer (loaded rfl) b.2)
  | progUndefine => exact carry he (takeBody fun _ => onProg fun _ => progUndefineAnswer s)
  | progQuery => exact carry he (takeBody fun _ => onProg fun _ _ => refl s)
  | progReset => exact carry he (takeBody fun _ => onProg fun _ _ => settings Prog.restart_delayKept)
  | delaySet => exact carry he (takeBody fun b => onProg fun p _ => delaySetAnswer s b p)
  | videoLatency => exact carry he (takeBody fun b => onProg fun p _ => videoLatencyAnswer s b.2 p)
  | loudSet => exact carry he (takeBody fun _ => onProg fun _ _ => settings fun _ => Prog.RingsKept.delayKept ⟨rfl, rfl⟩ rfl)
  | loudPause => exact carry he (takeBody fun _ => onProg fun _ _ => settings fun _ => Prog.RingsKept.delayKept ⟨rfl, rfl⟩ rfl)
  | loudResume => exact carry he (takeBody fun _ => onProg fun _ _ => settings fun _ => Prog.RingsKept.delayKept ⟨rfl, rfl⟩ rfl)
  | loudQuery => exact carry he (takeBody fun _ => onProg fun _ _ => refl s)
  | reportSet => exact carry he (takeBody fun _ => onProg fun _ _ => settings fun _ => Prog.RingsKept.delayKept ⟨rfl, rfl⟩ rfl)
  | watchSet => exact carry he (takeBody (watchSetAnswer s))
  | watchQuery => exact carry he (takeBody (watchQueryAnswer s))
  | alarmList => exact carry he (takeBody fun _ => refl s)
  | alarmAck => exact carry he (takeBody (alarmAckAnswer s))
  | freeze => exact carry he (takeBody fun _ => same)
  | monitorSet => exact carry he (takeBody (monitorSetAnswer s))
  | profileStore => exact carry he (takeBody fun _ => profileStoreAnswer s)
  | profileInfo => exact carry he (takeBody fun _ => refl s)
  | outputFrameBoundary => exact carry he (frameBoundary s)
  | gainRampComplete p => exact carryProgs he (.kept (.modProg _ p (Prog.RingsKept.delayKept ⟨rfl, rfl⟩ rfl)))
  | refStrobe phase => exact carry he (strobe s phase)
  | presenceCountReached => exact carry he (presenceReached s)
  | silenceCountReached => exact carry he (silenceReached s)
  | laneActivity l => exact carryLanes he (.activity _ l)
  | laneFrameClosed l f => exact carryLanes he (.marker _ l f)
  | gateExpiry l => exact carryLanes he (.expireGate _ l)
  | laneFadeFadedPoint l => exact carry he (laneFadedPoint s l)
  | laneFadeComplete l => exact carry he (laneFadeEnd s l)
  | glideComplete p => exact carryProgs he (.glideEnd _ p)
  | jumpFadedPoint p => exact carryProgs he (.jumpFaded _ p)
  | fillingEnd p => exact carryProgs he (.fillEnd _ p)
  | fadeInComplete p => exact carryProgs he (.fadeInEnd _ p)
  | releaseFadeComplete p => exact carryProgs he (.releaseEnd _ p)
  | subBlockComplete p => exact carryProgs he (.kept (.completeSubBlock _ p))
  | profileLoadEnd => exact carry he (loadEnd s)
  | profileTransferAck => exact carry he (transferAcked s)
  | profileAckTimeout whole => exact carry he (ackTimeout s whole)

end State.Moves

/-- A step from a state whose load is clear is a chain of turns on the programmes, and leaves the load clear. -/
theorem step_moves {s t : State} (h : step s = .next t) : s.Moves t := by
  unfold step at h
  split at h
  · cases h; exact .refl s
  · next c rest _ => exact .trans (t := s.withPending rest) .same (.ofExec h)

/-- Settles O55: every step is a chain of turns, and no turn loses or doubles a page. -/
theorem stepConservesEveryPage : Obligations.StepConservesEveryPage := by
  intro s t h pages
  obtain ⟨whole, clear⟩ := s.pagesConserved_iff.1 pages
  obtain ⟨turns, after⟩ := step_moves h clear
  exact t.pagesConserved_iff.2 ⟨turns.whole whole, after⟩

end Sys2Proof.Machine

/-! The pages of splices, trims and creations (R63, R67, R68, R69, R70): how many each ring holds, and which the free list keeps. -/
namespace Sys2Proof.Machine

/-! ## Splices (R67) -/

/-- A splice takes the first pages of the free list, in order, into the ring next to the write page. -/
theorem Dmc.splice_fields (j : Nat) (newest : Int) (d : Dmc) (r : Ring) :
    (d.splice j newest r).1.free = d.free.drop j ∧ (d.splice j newest r).2.rest = d.free.take j ++ r.rest
      ∧ (d.splice j newest r).2.writePage = r.writePage ∧ (d.splice j newest r).2.writeOffset = r.writeOffset := by
  unfold Dmc.splice
  dsimp only
  split
  · next none =>
    have empty := List.getLast?_eq_none_iff.1 none
    have kept := List.take_append_drop j d.free
    rw [empty, List.nil_append] at kept
    exact ⟨kept.symm, by rw [empty, List.nil_append], rfl, rfl⟩
  · exact ⟨rfl, rfl, rfl, rfl⟩

/-- A ring brought to as many pages as it and the free list cover holds so many, and the free list the others. -/
theorem Dmc.resizeRing_pages {k : Nat} (newest : Int) {d : Dmc} {r : Ring} (some_ : 1 ≤ k) (enough : k ≤ r.pages + d.free.length) :
    (d.resizeRing k newest r).2.pages = k ∧ (d.resizeRing k newest r).1.free.length + k = d.free.length + r.pages := by
  unfold Dmc.resizeRing Ring.pages at *
  split
  · next grows =>
    obtain ⟨free, rest, -, -⟩ := d.splice_fields (k - (r.rest.length + 1)) newest r
    rw [free, rest]
    simp only [List.length_append, List.length_take, List.length_drop]
    omega
  · split
    · next shrinks =>
      rw [Dmc.trim_free, Dmc.trim_ring]
      simp only [List.length_append, List.length_take, List.length_drop]
      omega
    · exact ⟨by dsimp only; omega, by dsimp only; omega⟩

/-- Rings of one length brought to another that they and the free list cover: each holds so many pages, and the free list the others. -/
theorem Dmc.resizeMembers_holds {q k : Nat} (newest : Int) (some_ : 1 ≤ k) {d : Dmc} {ms : List Member} (rings : ∀ m ∈ ms, m.Holds q)
    (enough : ms.length * k ≤ ms.length * q + d.free.length) :
    (∀ m ∈ (d.resizeMembers k newest ms).2, m.Holds k)
      ∧ (d.resizeMembers k newest ms).1.free.length + ms.length * k = d.free.length + ms.length * q := by
  induction ms generalizing d with
  | nil => exact ⟨by simp [Dmc.resizeMembers], by simp [Dmc.resizeMembers]⟩
  | cons m ms ih =>
    obtain ⟨⟨r, ring, length⟩, others⟩ := List.forall_mem_cons.1 rings
    have pages : r.pages = q := length
    rw [List.length_cons, Nat.succ_mul, Nat.succ_mul] at enough ⊢
    have fits : k ≤ r.pages + d.free.length := by
      rcases Nat.le_total k q with less | more
      · omega
      · have := Nat.mul_le_mul_left ms.length more
        omega
    obtain ⟨first, free⟩ := Dmc.resizeRing_pages newest some_ fits
    have moved : d.resizeMember k newest m = ((d.resizeRing k newest r).1, { m with ring := some (d.resizeRing k newest r).2 }) := by
      rw [Dmc.resizeMember, ring]
    rw [Dmc.resizeMembers, moved]
    rw [pages] at free
    obtain ⟨holds, left⟩ := ih (d := (d.resizeRing k newest r).1) others (by omega)
    exact ⟨List.forall_mem_cons.2 ⟨⟨_, rfl, first⟩, holds⟩, by dsimp only; omega⟩

/-- Rings of one length that grow take their pages from the free list's head. -/
theorem Dmc.resizeMembers_grows {q k : Nat} (more : q ≤ k) (newest : Int) (d : Dmc) {ms : List Member} (rings : ∀ m ∈ ms, m.Holds q) :
    (d.resizeMembers k newest ms).1.free = d.free.drop (ms.length * (k - q)) := by
  induction ms generalizing d with
  | nil => simp [Dmc.resizeMembers]
  | cons m ms ih =>
    obtain ⟨⟨r, ring, length⟩, others⟩ := List.forall_mem_cons.1 rings
    have pages : r.pages = q := length
    have first : (d.resizeMember k newest m).1.free = d.free.drop (k - q) := by
      rw [Dmc.resizeMember, ring]
      dsimp only
      rw [Dmc.resizeRing, pages]
      split
      · exact (d.splice_fields _ _ _).1
      · rw [if_neg (by omega), show k - q = 0 by omega, List.drop_zero]
    rw [Dmc.resizeMembers, ih _ others, first, List.drop_drop, List.length_cons, Nat.succ_mul, Nat.add_comm]

/-! ## Creations (R69) -/

/-- Rings of k pages take them from the free list's head. -/
theorem Dmc.createRings_free (k : Nat) (d : Dmc) (ms : List Member) :
    (d.createRings k ms).1 = { d with free := d.free.drop (ms.length * k) } := by
  induction ms generalizing d with
  | nil => simp [Dmc.createRings]
  | cons m ms ih => rw [Dmc.createRings, ih, List.drop_drop, List.length_cons, Nat.succ_mul, Nat.add_comm]

/-- A member's ring holds these pages from the write page, its write point and its history at 0. -/
def Member.StartsOn (pages : List PageId) (m : Member) : Prop :=
  ∃ ring, m.ring = some ring ∧ ring.chain = pages ∧ ring.writeOffset = 0 ∧ ring.historyStart = 0

/-- Each ring created holds the next k pages of the free list. -/
theorem Dmc.createRings_rings {k : Nat} (some_ : 1 ≤ k) {d : Dmc} {ms : List Member} (enough : ms.length * k ≤ d.free.length) :
    (∀ m ∈ (d.createRings k ms).2, ∃ pages, pages.length = k ∧ m.StartsOn pages)
      ∧ (d.createRings k ms).2.flatMap Member.pages = d.free.take (ms.length * k) := by
  induction ms generalizing d with
  | nil => exact ⟨by simp [Dmc.createRings], by simp [Dmc.createRings]⟩
  | cons m ms ih =>
    rw [List.length_cons, Nat.succ_mul] at enough
    obtain ⟨holds, taken⟩ := ih (d := { d with free := d.free.drop k }) (by rw [List.length_drop]; omega)
    have length : (d.free.take k).length = k := by rw [List.length_take]; omega
    rw [Dmc.createRings]
    split
    · next none => rw [none] at length; simp only [List.length_nil] at length; omega
    · next first others pages =>
      have chain : first :: others = d.free.take k := pages.symm
      refine ⟨List.forall_mem_cons.2 ⟨⟨first :: others, pages ▸ length, _, rfl, rfl, rfl, rfl⟩, holds⟩, ?_⟩
      rw [List.flatMap_cons, taken, List.length_cons, Nat.succ_mul, Nat.add_comm (ms.length * k), List.take_add, ← chain]
      rfl

theorem Member.StartsOn.holds {m : Member} {pages : List PageId} (h : m.StartsOn pages) : m.Holds pages.length := by
  obtain ⟨ring, eq, chain, -, -⟩ := h
  exact ⟨ring, eq, by rw [← chain]; rfl⟩

theorem Dmc.createRings_holds {k : Nat} (some_ : 1 ≤ k) {d : Dmc} {ms : List Member} (enough : ms.length * k ≤ d.free.length) :
    ∀ m ∈ (d.createRings k ms).2, m.Holds k := fun m hm => by
  obtain ⟨pages, length, starts⟩ := (Dmc.createRings_rings some_ enough).1 m hm
  exact length ▸ starts.holds

/-! ## Holding (R70) -/

theorem Member.Holds.of_ring {k : Nat} {m n : Member} (h : m.Holds k) (ring : n.ring = m.ring) : n.Holds k := by
  obtain ⟨r, eq, length⟩ := h
  exact ⟨r, ring.trans eq, length⟩

/-- Members with the rings of these, in order, hold what these hold. -/
theorem Member.holds_of_rings {k : Nat} {ms ns : List Member} (rings : ns.map (·.ring) = ms.map (·.ring)) (h : ∀ m ∈ ms, m.Holds k) :
    ∀ n ∈ ns, n.Holds k := fun n hn => by
  have mem : n.ring ∈ ms.map (·.ring) := rings ▸ List.mem_map_of_mem hn
  obtain ⟨m, hm, ring⟩ := List.mem_map.1 mem
  exact (h m hm).of_ring ring.symm

theorem pagesFor_pos (d : Nat) : 1 ≤ pagesFor d := Nat.le_add_left 1 _

theorem pagesFor_mono {a b : Nat} (h : a ≤ b) : pagesFor a ≤ pagesFor b := Nat.add_le_add_right (Nat.div_le_div_right h) 1

end Sys2Proof.Machine

/-! The laws of the delay memory, programme by programme (R70, R75, R76, R79, R84, R90): what they say of one record, of the page wait
list, and of all programmes but one while that one is worked on. -/
namespace Sys2Proof.Machine

/-! ## One programme -/

/-- The delays of a programme with rings: within bounds, the current one whole but in a glide (R84, R90). -/
structure DelayRec.Held (r : DelayRec) : Prop where
  funded : 48 ≤ r.funded ∧ r.funded ≤ 96000
  current : 64 * 48 ≤ r.current ∧ r.current ≤ 64 * 96000
  settled : r.change ≠ .gliding → r.current % 64 = 0

/-- The delays of a RUNNING programme, which is on the page wait list or not (R76, R79, R84, R97, R98). -/
structure DelayRec.Runs (on : Prop) (r : DelayRec) : Prop extends r.Held where
  requested : 48 ≤ r.requested ∧ r.requested ≤ 96000
  pending : ∀ d, r.pending = some d → 48 ≤ d ∧ d ≤ 96000
  free : r.change = .steady ∨ r.change = .gliding → r.pending = none
  reached : r.funded ≤ r.requested
  listed : on ↔ r.funded < r.requested
  ahead : on → r.whole ≤ r.funded

/-- Each channel holds the pages of the holding delay (R70), or as many as that while some are yet to be given up. -/
def Prog.RingsFor (loose : Prop) (x : Prog) : Prop :=
  ∃ k, pagesFor x.delay.holding ≤ k ∧ (¬loose → k = pagesFor x.delay.holding) ∧ ∀ m ∈ x.members, m.Holds k

/-- The laws of one programme, which is on the page wait list or not, and whose rings may be longer than its holding delay needs. -/
inductive Prog.Lawful (on loose : Prop) (x : Prog) : Prop
  | undefined (state : x.state = .undefined) (off : ¬on)
  | waiting (state : x.state = .waiting) (on_ : on) (requested : 48 ≤ x.delay.requested ∧ x.delay.requested ≤ 96000)
      (pending : x.delay.pending = none)
  | running (state : x.state = .running) (delay : x.delay.Runs on) (rings : x.RingsFor loose)
  | releasing (state : x.state = .releasing) (off : ¬on) (delay : x.delay.Held) (rings : x.RingsFor loose)

namespace Prog.Lawful

variable {on loose : Prop} {x : Prog}

theorem whenWaiting (h : x.Lawful on loose) (state : x.state = .waiting) :
    on ∧ (48 ≤ x.delay.requested ∧ x.delay.requested ≤ 96000) ∧ x.delay.pending = none := by
  cases h with
  | waiting _ on_ requested pending => exact ⟨on_, requested, pending⟩
  | undefined other => rw [state] at other; cases other
  | running other => rw [state] at other; cases other
  | releasing other => rw [state] at other; cases other

theorem whenRunning (h : x.Lawful on loose) (state : x.state = .running) : x.delay.Runs on ∧ x.RingsFor loose := by
  cases h with
  | running _ delay rings => exact ⟨delay, rings⟩
  | undefined other => rw [state] at other; cases other
  | waiting other => rw [state] at other; cases other
  | releasing other => rw [state] at other; cases other

/-- What holds of a programme with rings. -/
theorem whenLive (h : x.Lawful on loose) (live : x.state.live = true) : x.delay.Held ∧ x.RingsFor loose := by
  cases h with
  | running _ delay rings => exact ⟨delay.toHeld, rings⟩
  | releasing _ _ delay rings => exact ⟨delay, rings⟩
  | undefined other => rw [other] at live; cases live
  | waiting other => rw [other] at live; cases live

/-- A programme that neither waits nor runs is off the list. -/
theorem off (h : x.Lawful on loose) (waiting : x.state ≠ .waiting) (running : x.state ≠ .running) : ¬on := by
  cases h with
  | undefined _ off => exact off
  | releasing _ off => exact off
  | waiting state => exact absurd state waiting
  | running state => exact absurd state running

end Prog.Lawful

theorem Prog.RingsFor.loosen {x : Prog} (h : x.RingsFor False) (loose : Prop) : x.RingsFor loose :=
  have ⟨k, least, exact_, holds⟩ := h
  ⟨k, least, fun _ => exact_ not_false, holds⟩

theorem Prog.Lawful.loosen {on : Prop} {x : Prog} (h : x.Lawful on False) (loose : Prop) : x.Lawful on loose := by
  cases h with
  | undefined state off => exact .undefined state off
  | waiting state on_ requested pending => exact .waiting state on_ requested pending
  | running state delay rings => exact .running state delay (rings.loosen loose)
  | releasing state off delay rings => exact .releasing state off delay (rings.loosen loose)

/-- The rings of a programme of which no page is yet to be given up. -/
theorem Prog.RingsFor.holds {x : Prog} (h : x.RingsFor False) : ∀ m ∈ x.members, m.Holds (pagesFor x.delay.holding) := by
  obtain ⟨k, -, exact_, holds⟩ := h
  exact exact_ not_false ▸ holds

theorem Prog.RingsFor.of_holds {x : Prog} (h : ∀ m ∈ x.members, m.Holds (pagesFor x.delay.holding)) (loose : Prop) : x.RingsFor loose :=
  ⟨_, le_rfl, fun _ => rfl, h⟩

/-- Rings stay long enough, or just so, while the holding delay falls, or stays. -/
theorem Prog.RingsFor.keptBy {loose loose' : Prop} {x y : Prog} (h : x.RingsFor loose)
    (rings : ∀ k, (∀ m ∈ x.members, m.Holds k) → ∀ m ∈ y.members, m.Holds k)
    (holding : y.delay.holding ≤ x.delay.holding) (same : ¬loose' → ¬loose ∧ y.delay.holding = x.delay.holding) : y.RingsFor loose' := by
  obtain ⟨k, least, exact_, holds⟩ := h
  refine ⟨k, (pagesFor_mono holding).trans least, fun tight => ?_, rings k holds⟩
  obtain ⟨tight, same⟩ := same tight
  rw [same]
  exact exact_ tight

theorem Prog.RingsFor.kept {loose loose' : Prop} {x y : Prog} (h : x.RingsFor loose)
    (rings : y.members.map (·.ring) = x.members.map (·.ring)) (holding : y.delay.holding ≤ x.delay.holding)
    (same : ¬loose' → ¬loose ∧ y.delay.holding = x.delay.holding) : y.RingsFor loose' :=
  h.keptBy (fun _ => Member.holds_of_rings rings) holding same

/-- A record with the delays and rings of a lawful one. -/
theorem Prog.DelayKept.lawful {on loose : Prop} {x y : Prog} (h : x.DelayKept y) (hx : x.Lawful on loose) : y.Lawful on loose := by
  have holding : y.delay.holding = x.delay.holding := by rw [DelayRec.holding, DelayRec.whole, h.current, h.funded]; rfl
  have held (hold : x.delay.Held) : y.delay.Held :=
    ⟨h.funded ▸ hold.funded, h.current ▸ hold.current, by rw [h.change, h.current]; exact hold.settled⟩
  have rings (r : x.RingsFor loose) : y.RingsFor loose := r.kept h.rings holding.le fun tight => ⟨tight, holding⟩
  cases hx with
  | undefined state off => exact .undefined (h.state.trans state) off
  | waiting state on_ requested pending =>
    exact .waiting (h.state.trans state) on_ (h.requested ▸ requested) (h.pending.trans pending)
  | running state delay r =>
    refine .running (h.state.trans state) ⟨held delay.toHeld, h.requested ▸ delay.requested, h.pending ▸ delay.pending, ?_, ?_, ?_, ?_⟩
      (rings r)
    · rw [h.change, h.pending]; exact delay.free
    · rw [h.funded, h.requested]; exact delay.reached
    · rw [h.funded, h.requested]; exact delay.listed
    · rw [DelayRec.whole, h.current, h.funded]; exact delay.ahead
  | releasing state off delay r => exact .releasing (h.state.trans state) off (held delay) (rings r)

/-! ## All programmes -/

/-- The laws of the delay memory, the rings of some programmes off the wait list perhaps longer than their holding delays need. -/
structure ProgSide.LawfulBut (loose : ProgId → Prop) (v : ProgSide) : Prop where
  once : v.dmc.wait.Nodup
  deficit : ∀ p, v.panel.deficit p = true ↔ p ∈ v.dmc.wait
  prog : ∀ p, (v.prog p).Lawful (p ∈ v.dmc.wait) (loose p)
  off : ∀ p, loose p → p ∉ v.dmc.wait

/-- The laws of the delay memory. -/
abbrev ProgSide.Lawful (v : ProgSide) : Prop := v.LawfulBut fun _ => False

/-- The laws of the delay memory but for one programme, whose record is worked on. -/
structure ProgSide.LawfulElse (p : ProgId) (loose : ProgId → Prop) (v : ProgSide) : Prop where
  once : v.dmc.wait.Nodup
  deficit : ∀ q, v.panel.deficit q = true ↔ q ∈ v.dmc.wait
  prog : ∀ q, q ≠ p → (v.prog q).Lawful (q ∈ v.dmc.wait) (loose q)
  off : ∀ q, q ≠ p → loose q → q ∉ v.dmc.wait

/-- At most one programme's record has changed; the wait list and every DELAY_DEFICIT stand. -/
structure ProgSide.Recast (p : ProgId) (v w : ProgSide) : Prop where
  others : ∀ q, q ≠ p → w.prog q = v.prog q
  wait : w.dmc.wait = v.dmc.wait
  deficit : ∀ q, w.panel.deficit q = v.panel.deficit q

namespace ProgSide.Recast

variable {p : ProgId}

theorem refl (v : ProgSide) : Recast p v v := ⟨fun _ _ => rfl, rfl, fun _ => rfl⟩

theorem trans {u v w : ProgSide} (a : Recast p u v) (b : Recast p v w) : Recast p u w :=
  ⟨fun q h => (b.others q h).trans (a.others q h), b.wait.trans a.wait, fun q => (b.deficit q).trans (a.deficit q)⟩

theorem replaced (v : ProgSide) {d : Dmc} (x : Prog) (wait : d.wait = v.dmc.wait) :
    Recast p v { v with dmc := d, progs := v.progs.set p x } := ⟨fun _ h => v.replaced_other d x h, wait, fun _ => rfl⟩

theorem modProg (v : ProgSide) (f : Prog → Prog) : Recast p v (v.modProg p f) := replaced v _ rfl

theorem modDelay (v : ProgSide) (f : DelayRec → DelayRec) : Recast p v (v.modDelay p f) := modProg v _

theorem onPanel (v : ProgSide) {f : Panel → Panel} (h : ∀ q, (f v.panel).deficit q = v.panel.deficit q) : Recast p v (v.onPanel f) :=
  ⟨fun _ _ => rfl, rfl, h⟩

theorem noticeDone (v : ProgSide) (q : ProgId) (kind : DoneKind) : Recast p v (v.noticeDone q kind) :=
  onPanel v fun r => Panel.offer_deficit _ _ r

theorem resize (v : ProgSide) (k : Nat) : Recast p v (v.resize p k) := replaced v _ (Dmc.resizeMembers_wait _ _ _ _)

theorem startProg (v : ProgSide) (delay : Nat) : Recast p v (v.startProg p delay) := replaced v _ (Dmc.createRings_wait _ _ _)

theorem completeGlide (v : ProgSide) : Recast p v (v.completeGlide p) := (modDelay v _).trans (noticeDone _ p _)

end ProgSide.Recast

namespace ProgSide.LawfulBut

variable {loose : ProgId → Prop} {v : ProgSide}

theorem kept {w : ProgSide} (h : v.LawfulBut loose) (k : v.DelaysKept w) : w.LawfulBut loose := by
  refine ⟨k.wait ▸ h.once, fun p => ?_, fun p => ?_, fun p => ?_⟩
  · rw [k.deficit, k.wait]; exact h.deficit p
  · rw [k.wait]; exact (k.prog p).lawful (h.prog p)
  · rw [k.wait]; exact h.off p

theorem forget (h : v.LawfulBut loose) (p : ProgId) : v.LawfulElse p loose :=
  ⟨h.once, h.deficit, fun q _ => h.prog q, fun q _ => h.off q⟩

/-- The rings of the same programmes may be longer, said in other words. -/
theorem congr {loose' : ProgId → Prop} (h : v.LawfulBut loose) (same : ∀ p, loose p ↔ loose' p) : v.LawfulBut loose' :=
  have e : loose = loose' := funext fun p => propext (same p)
  e ▸ h

/-- The pool's observation is no matter of the laws. -/
theorem event {f : ProgSide → ProgSide} (h : (f v).LawfulBut loose) : (ProgSide.event f v).LawfulBut loose := by
  unfold ProgSide.event
  dsimp only
  split
  · exact h
  · exact h.kept (.onPanel _ fun p => Panel.observe_deficit _ _ _ p)

end ProgSide.LawfulBut

namespace ProgSide.LawfulElse

variable {p : ProgId} {loose : ProgId → Prop} {v : ProgSide}

theorem recast {w : ProgSide} (h : v.LawfulElse p loose) (r : Recast p v w) : w.LawfulElse p loose := by
  refine ⟨r.wait ▸ h.once, fun q => ?_, fun q other => ?_, fun q other => ?_⟩
  · rw [r.deficit, r.wait]; exact h.deficit q
  · rw [r.others q other, r.wait]; exact h.prog q other
  · rw [r.wait]; exact h.off q other

/-- The list and the alarm of one programme change together. -/
theorem relisted {w : ProgSide} (h : v.LawfulElse p loose) (once : w.dmc.wait.Nodup) (progs : ∀ q, w.prog q = v.prog q)
    (list : ∀ q, q ≠ p → (q ∈ w.dmc.wait ↔ q ∈ v.dmc.wait)) (deficits : ∀ q, q ≠ p → w.panel.deficit q = v.panel.deficit q)
    (mine : w.panel.deficit p = true ↔ p ∈ w.dmc.wait) : w.LawfulElse p loose := by
  refine ⟨once, fun q => ?_, fun q other => ?_, fun q other => ?_⟩
  · by_cases e : q = p
    · exact e ▸ mine
    · rw [deficits q e, list q e]; exact h.deficit q
  · rw [progs, list q other]; exact h.prog q other
  · rw [list q other]; exact h.off q other

theorem joinWait (h : v.LawfulElse p loose) : (v.joinWait p).LawfulElse p loose ∧ p ∈ (v.joinWait p).dmc.wait := by
  unfold ProgSide.joinWait
  split
  · next on => exact ⟨h, on⟩
  · next off =>
    have joined : p ∈ v.dmc.wait ++ [p] := by simp
    refine ⟨h.relisted ?_ (fun _ => rfl) (fun q other => ?_) (fun q other => ?_) ?_, joined⟩
    · exact List.nodup_append.2 ⟨h.once, by simp, by simpa using fun q hq (e : q = p) => off (e ▸ hq)⟩
    · simp [other]
    · exact Panel.raise_deficit _ (by simpa using other)
    · exact iff_of_true (Panel.raise_isRaised _ _) joined

theorem leaveWait (h : v.LawfulElse p loose) : (v.leaveWait p).LawfulElse p loose ∧ p ∉ (v.leaveWait p).dmc.wait := by
  have off := v.leaveWait_off p
  refine ⟨?_, off.1⟩
  unfold ProgSide.leaveWait at off ⊢
  split
  · next on =>
    rw [if_pos on] at off
    refine h.relisted (h.once.filter _) (fun _ => rfl) (fun q other => ?_) (fun q other => ?_) ?_
    · simp [other]
    · exact Panel.clear_deficit _ (by simpa using other)
    · exact iff_of_false (by rw [Panel.deficit, off.2 on]; exact Bool.false_ne_true) off.1
  · exact h

/-- The work on the one programme is done. -/
theorem close (h : v.LawfulElse p loose) (mine : (v.prog p).Lawful (p ∈ v.dmc.wait) (loose p)) (off : loose p → p ∉ v.dmc.wait) :
    v.LawfulBut loose := by
  refine ⟨h.once, h.deficit, fun q => ?_, fun q => ?_⟩
  · by_cases e : q = p
    · exact e ▸ mine
    · exact h.prog q e
  · by_cases e : q = p
    · exact e ▸ off
    · exact h.off q e

/-- The work on the one programme is done, its rings of the right length. -/
theorem closeTight (h : v.LawfulElse p loose) (mine : (v.prog p).Lawful (p ∈ v.dmc.wait) False) :
    v.LawfulBut fun q => loose q ∧ q ≠ p := by
  have others : v.LawfulElse p fun q => loose q ∧ q ≠ p :=
    ⟨h.once, h.deficit, fun q other => by simpa [other] using h.prog q other, fun q other l => h.off q other l.1⟩
  exact others.close (mine.loosen _) fun l => absurd rfl l.2

end ProgSide.LawfulElse

end Sys2Proof.Machine

/-! Changes of delay toward a funded target that stands (R87, R92, R94 to R97, R99): what each makes of the programme's record, and that
it keeps the laws of the delay memory. -/
namespace Sys2Proof.Machine

/-! ## A delay that moves toward the same target -/

/-- The second delay moves toward the first's target, from a place that needs no other pages. -/
structure DelayRec.Moved (r r' : DelayRec) : Prop where
  requested : r'.requested = r.requested
  pending : r'.pending = r.pending
  funded : r'.funded = r.funded
  holding : r'.holding = r.holding
  current : 64 * 48 ≤ r'.current ∧ r'.current ≤ 64 * 96000
  settled : r'.change ≠ .gliding → r'.current % 64 = 0
  free : r'.change = .steady ∨ r'.change = .gliding → r.change = .steady ∨ r.change = .gliding

theorem DelayRec.Moved.held {r r' : DelayRec} (m : r.Moved r') (h : r.Held) : r'.Held := ⟨m.funded ▸ h.funded, m.current, m.settled⟩

theorem DelayRec.Moved.runs {on : Prop} {r r' : DelayRec} (m : r.Moved r') (h : r.Runs on) : r'.Runs on := by
  refine ⟨m.held h.toHeld, m.requested ▸ h.requested, m.pending ▸ h.pending, fun change => ?_, ?_, ?_, fun listed => ?_⟩
  · rw [m.pending]; exact h.free (m.free change)
  · rw [m.funded, m.requested]; exact h.reached
  · rw [m.funded, m.requested]; exact h.listed
  · have least : r'.whole ≤ r'.holding := le_max_left _ _
    rw [m.holding, DelayRec.holding, max_eq_right (h.ahead listed)] at least
    rwa [m.funded]

/-- The second record has the first's state and rings, and its delay moves toward the same target. -/
structure Prog.Moved (x y : Prog) : Prop extends x.RingsKept y where
  delay : x.delay.Moved y.delay

theorem Prog.Moved.lawful {on loose : Prop} {x y : Prog} (m : x.Moved y) (running : x.state = .running) (h : x.Lawful on loose) :
    y.Lawful on loose := by
  obtain ⟨runs, rings⟩ := h.whenRunning running
  exact .running (m.state.trans running) (m.delay.runs runs)
    (rings.kept m.rings m.delay.holding.le fun tight => ⟨tight, m.delay.holding⟩)

/-- A record of which nothing but the rest of the change has changed. -/
theorem Prog.Moved.change {x : Prog} (h : x.delay.Held) {r : DelayRec} (requested : r.requested = x.delay.requested)
    (pending : r.pending = x.delay.pending) (funded : r.funded = x.delay.funded) (current : r.current = x.delay.current)
    (settled : r.change ≠ .gliding → x.delay.current % 64 = 0)
    (free : r.change = .steady ∨ r.change = .gliding → x.delay.change = .steady ∨ x.delay.change = .gliding) :
    x.Moved { x with delay := r } :=
  ⟨⟨rfl, rfl⟩, requested, pending, funded, by rw [DelayRec.holding, DelayRec.whole, current, funded]; rfl, current ▸ h.current,
    current ▸ settled, free⟩

/-- The delay set at once to a whole number of frames for which the pages are there. -/
theorem Prog.Moved.placed {x : Prog} {d : Nat} (bounds : 48 ≤ d ∧ d ≤ 96000) (holding : max d x.delay.funded = x.delay.holding)
    {r : DelayRec} (requested : r.requested = x.delay.requested) (pending : r.pending = x.delay.pending)
    (funded : r.funded = x.delay.funded) (current : r.current = 64 * d)
    (free : r.change = .steady ∨ r.change = .gliding → x.delay.change = .steady ∨ x.delay.change = .gliding) :
    x.Moved { x.moveDelay (64 * d) with delay := r } := by
  refine ⟨⟨rfl, (x.moveDelay_ringsKept _).rings⟩, requested, pending, funded, ?_, ?_, fun _ => ?_, free⟩
  · rw [DelayRec.holding, DelayRec.whole, current, funded, Nat.mul_div_cancel_left _ (by decide), holding]
  · rw [show ({ x.moveDelay (64 * d) with delay := r } : Prog).delay.current = 64 * d from current]; omega
  · rw [show ({ x.moveDelay (64 * d) with delay := r } : Prog).delay.current = 64 * d from current]; exact Nat.mul_mod_right 64 d

theorem DelayRec.Held.whole {r : DelayRec} (h : r.Held) : 48 ≤ r.whole ∧ r.whole ≤ 96000 := by
  have bounds := h.current
  unfold DelayRec.whole
  omega

/-! ## A glide judged against a new target (R94) -/

/-- The record of a gliding programme judged against its funded target. -/
def Prog.glideJudged (x : Prog) : Prog :=
  if x.delay.chooseGlide = true then
    if x.delay.arrived = true then { x with delay := { x.delay with change := .steady } } else x
  else if x.delay.whole = x.delay.funded then
    { x.moveDelay (64 * x.delay.whole) with delay := { x.delay with current := 64 * x.delay.whole, change := .steady } }
  else
    { x.moveDelay (64 * x.delay.whole) with delay := ({ x.delay with current := 64 * x.delay.whole } : DelayRec).beginJump }

theorem ProgSide.completeGlide_prog (v : ProgSide) (p : ProgId) :
    (v.completeGlide p).prog p = { v.prog p with delay := { (v.prog p).delay with change := .steady } } := by
  rw [ProgSide.completeGlide, ProgSide.noticeDone, ProgSide.onPanel_prog, ProgSide.modDelay_prog_self]

theorem ProgSide.judgeGlide_prog (v : ProgSide) (p : ProgId) : (v.judgeGlide p).prog p = (v.prog p).glideJudged := by
  have stopped : (v.modProg p (Prog.moveDelay (64 * (v.prog p).delay.whole))).prog p = (v.prog p).moveDelay (64 * (v.prog p).delay.whole) :=
    v.modProg_prog_self p _
  have arrives : ((v.prog p).moveDelay (64 * (v.prog p).delay.whole)).delay.arrived = true
      ↔ (v.prog p).delay.whole = (v.prog p).delay.funded := by
    simp [DelayRec.arrived, Prog.moveDelay]
  unfold ProgSide.judgeGlide Prog.glideJudged
  dsimp only
  split
  · split
    · rw [ProgSide.completeGlide_prog]
    · rfl
  · rw [stopped]
    simp only [arrives]
    split
    · rw [ProgSide.completeGlide_prog, stopped]; rfl
    · rw [ProgSide.modDelay_prog_self, stopped]; rfl

theorem ProgSide.Recast.judgeGlide {p : ProgId} (v : ProgSide) : Recast p v (v.judgeGlide p) := by
  unfold ProgSide.judgeGlide
  dsimp only
  split
  · split
    · exact completeGlide v
    · exact refl v
  · refine (modProg v (Prog.moveDelay (64 * (v.prog p).delay.whole))).trans ?_
    split
    · exact completeGlide _
    · exact modDelay _ _

/-- A glide judged goes on, or completes, or stops at its whole part, which needs no other pages. -/
theorem Prog.glideJudged_moved {x : Prog} (h : x.delay.Held) (gliding : x.delay.change = .gliding) : x.Moved x.glideJudged := by
  unfold Prog.glideJudged
  split
  · split
    · next arrived =>
      have there : x.delay.current = 64 * x.delay.funded := by simpa [DelayRec.arrived] using arrived
      exact .change h rfl rfl rfl rfl (fun _ => by rw [there]; exact Nat.mul_mod_right 64 _) fun _ => .inr gliding
    · exact .change h rfl rfl rfl rfl (fun other => absurd gliding other) fun _ => .inr gliding
  · split
    · exact .placed h.whole rfl rfl rfl rfl rfl fun _ => .inr gliding
    · exact .placed h.whole rfl rfl rfl rfl rfl fun _ => .inr gliding

/-! ## A change begun (R87) -/

theorem Prog.beginChange_moved {x : Prog} (h : x.delay.Held) (steady : x.delay.change = .steady) :
    x.Moved { x with delay := x.delay.beginChange } := by
  have still := h.settled (by rw [steady]; decide)
  unfold DelayRec.beginChange
  split
  · exact .change h rfl rfl rfl rfl (fun _ => still) fun _ => .inl steady
  · exact .change h rfl rfl rfl rfl (fun _ => still) fun _ => .inl steady

/-! ## A raised target taken (R99) -/

/-- The record of a programme that takes a raised target. -/
def Prog.raised (x : Prog) : Prog :=
  match x.delay.change with
  | .steady => if x.delay.arrived = true then x else { x with delay := x.delay.beginChange }
  | .gliding => x.glideJudged
  | .fadeOut => x
  | .filling =>
    { x.moveDelay (64 * x.delay.funded) with
      delay := { x.delay with current := 64 * x.delay.funded, fill := x.delay.fill + (x.delay.funded - x.delay.whole) } }
  | .fadeIn => { x with delay := { x.delay with ahead := true } }

theorem ProgSide.takeRaise_prog (v : ProgSide) (p : ProgId) : (v.takeRaise p).prog p = (v.prog p).raised := by
  unfold ProgSide.takeRaise Prog.raised
  dsimp only
  cases change : (v.prog p).delay.change with
  | steady =>
    simp only
    split
    · rfl
    · rw [ProgSide.modDelay_prog_self]
  | gliding => exact v.judgeGlide_prog p
  | fadeOut => rfl
  | filling =>
    rw [ProgSide.modDelay_prog_self, ProgSide.modProg_prog_self]
    simp only [Prog.moveDelay, change]
  | fadeIn =>
    rw [ProgSide.modDelay_prog_self]
    simp only [change]

theorem ProgSide.Recast.takeRaise {p : ProgId} (v : ProgSide) : Recast p v (v.takeRaise p) := by
  unfold ProgSide.takeRaise
  dsimp only
  split
  · split
    · exact refl v
    · exact modDelay v _
  · exact judgeGlide v
  · exact refl v
  · exact (modProg v _).trans (modDelay _ _)
  · exact modDelay v _

/-- A raised target is taken without other pages than those it was raised to. -/
theorem Prog.raised_moved {x : Prog} (h : x.delay.Held) (raise : x.delay.whole ≤ x.delay.funded) : x.Moved x.raised := by
  have still (other : x.delay.change ≠ .gliding) := h.settled other
  unfold Prog.raised
  split
  · next steady =>
    split
    · exact .change h rfl rfl rfl rfl (fun _ => still (by rw [steady]; decide)) id
    · exact Prog.beginChange_moved h steady
  · next gliding => exact Prog.glideJudged_moved h gliding
  · next fadeOut => exact .change h rfl rfl rfl rfl (fun _ => still (by rw [fadeOut]; decide)) id
  · next filling =>
    exact .placed h.funded ((max_self _).trans (max_eq_right raise).symm) rfl rfl rfl rfl id
  · next fadeIn => exact .change h rfl rfl rfl rfl (fun _ => still (by rw [fadeIn]; decide)) id

end Sys2Proof.Machine

/-! The service of the page wait list keeps the laws of the delay memory (R73, R75, R76, R79, R84). -/
namespace Sys2Proof.Machine

/-! ## Counting pages (R70, R73, R84) -/

theorem pagesWithin_eq (pages channels : Nat) : pagesWithin pages channels = min 94 (pages / channels) := rfl

theorem fundedBy_eq (pages request : Nat) : fundedBy pages request = min request (pages * 1024 - 1) := rfl

theorem mul_pagesWithin_le (pages channels : Nat) : channels * pagesWithin pages channels ≤ pages :=
  (Nat.mul_le_mul_left _ (min_le_right _ _)).trans (Nat.mul_div_le _ _)

theorem pagesFor_fundedBy {pages request : Nat} (some_ : 1 ≤ pages) : pagesFor (fundedBy pages request) ≤ pages := by
  rw [fundedBy_eq, pagesFor]
  omega

theorem fundedBy_bounds {pages request : Nat} (some_ : 1 ≤ pages) (bounds : 48 ≤ request ∧ request ≤ 96000) :
    48 ≤ fundedBy pages request ∧ fundedBy pages request ≤ request := by
  rw [fundedBy_eq]
  omega

/-- A page more a channel raises a target below the request. -/
theorem lt_fundedBy {pages funded request : Nat} (more : pagesFor funded + 1 ≤ pages) (below : funded < request) :
    funded < fundedBy pages request := by
  rw [fundedBy_eq]
  unfold pagesFor at more
  omega

/-- Rings for a target that these pages fund fit into them. -/
theorem mul_pagesFor_fundedBy_le {pages channels : Nat} (request : Nat) (some_ : 1 ≤ pagesWithin pages channels) :
    channels * pagesFor (fundedBy (pagesWithin pages channels) request) ≤ pages :=
  (Nat.mul_le_mul_left _ (pagesFor_fundedBy some_)).trans (mul_pagesWithin_le _ _)

/-! ## Starts (R50, R84) -/

/-- A programme started at a delay within its request, with the pages for it free. -/
theorem ProgSide.startProg_lawful {v : ProgSide} {p : ProgId} {delay : Nat} (pending : (v.prog p).delay.pending = none)
    (bounds : 48 ≤ delay ∧ delay ≤ (v.prog p).delay.requested) (most : (v.prog p).delay.requested ≤ 96000)
    (enough : (v.prog p).members.length * pagesFor delay ≤ v.dmc.free.length) :
    ((v.startProg p delay).prog p).Lawful (delay < (v.prog p).delay.requested) False := by
  have started := v.startProg_prog_self p delay
  have delayRec := congrArg Prog.delay started
  dsimp only at delayRec
  have whole : 64 * delay / 64 = delay := Nat.mul_div_cancel_left _ (by decide)
  refine .running (by rw [started]) ?_ (.of_holds ?_ _)
  · rw [delayRec]
    have held : 48 ≤ delay ∧ delay ≤ 96000 := ⟨bounds.1, bounds.2.trans most⟩
    refine ⟨⟨held, ⟨?_, ?_⟩, fun _ => Nat.mul_mod_right 64 delay⟩, ⟨bounds.1.trans bounds.2, most⟩, fun d some_ => ?_, fun _ => pending,
      bounds.2, Iff.rfl, fun _ => whole.le⟩
    · dsimp only; omega
    · dsimp only; omega
    · rw [pending] at some_; cases some_
  · have holding : ((v.startProg p delay).prog p).delay.holding = delay := by
      rw [delayRec, DelayRec.holding, DelayRec.whole]
      dsimp only
      rw [whole, max_self]
    rw [holding, congrArg Prog.members started]
    intro m hm
    obtain ⟨n, hn, rfl⟩ := List.mem_map.1 hm
    exact (Dmc.createRings_holds (pagesFor_pos _) enough n hn).of_ring rfl

/-! ## Raises (R76, R99) -/

/-- A target raised, its pages spliced, and the raise taken. -/
def ProgSide.raiseTo (p : ProgId) (target : Nat) (v : ProgSide) : ProgSide :=
  ((v.modDelay p fun r => { r with funded := target }).resize p (pagesFor target)).takeRaise p

/-- The record with its target raised and its rings grown, before the raise is taken. -/
def ProgSide.raisedRecord (p : ProgId) (target : Nat) (v : ProgSide) : Prog :=
  { v.prog p with
    members := (v.dmc.resizeMembers (pagesFor target) (v.prog p).newest (v.prog p).members).2
    delay := { (v.prog p).delay with funded := target } }

theorem ProgSide.raiseTo_prog (p : ProgId) (target : Nat) (v : ProgSide) :
    (v.raiseTo p target).prog p = (v.raisedRecord p target).raised := by
  rw [ProgSide.raiseTo, ProgSide.takeRaise_prog, ProgSide.resize_prog_self, ProgSide.modDelay_prog_self]
  rfl

theorem ProgSide.Recast.raiseTo {p : ProgId} (v : ProgSide) (target : Nat) : Recast p v (v.raiseTo p target) :=
  ((modDelay v _).trans (resize _ _)).trans (takeRaise _)

theorem ProgSide.serveWaiter_running {v : ProgSide} {p : ProgId} (running : (v.prog p).state = .running) : v.serveWaiter p =
    (let n := (v.prog p).members.length
     let pages := pagesWithin (n * (v.prog p).pagesPerChannel + v.dmc.free.length) n
     if (v.prog p).pagesPerChannel + 1 ≤ pages then (v.raiseTo p (fundedBy pages (v.prog p).delay.requested)).leaveIfFull p else v) := by
  unfold ProgSide.serveWaiter
  simp only [running]
  rfl

theorem ProgSide.serveWaiter_waiting {v : ProgSide} {p : ProgId} (waiting : (v.prog p).state = .waiting) : v.serveWaiter p =
    (let pages := pagesWithin v.dmc.free.length (v.prog p).members.length
     if 1 ≤ pages then (v.startProg p (fundedBy pages (v.prog p).delay.requested)).leaveIfFull p else v) := by
  unfold ProgSide.serveWaiter
  simp only [waiting]

/-- A RUNNING programme raised, with rings of the pages for its target and the pages for the new one at hand. -/
theorem ProgSide.raisedRecord_lawful {v : ProgSide} {p : ProgId} {target : Nat} {on : Prop} (running : (v.prog p).state = .running)
    (runs : (v.prog p).delay.Runs on) (ahead : (v.prog p).delay.whole ≤ (v.prog p).delay.funded)
    (raise : (v.prog p).delay.funded ≤ target) (most : target ≤ (v.prog p).delay.requested)
    (holds : ∀ m ∈ (v.prog p).members, m.Holds (pagesFor (v.prog p).delay.funded))
    (enough : (v.prog p).members.length * pagesFor target
      ≤ (v.prog p).members.length * pagesFor (v.prog p).delay.funded + v.dmc.free.length) :
    (v.raisedRecord p target).Lawful (target < (v.prog p).delay.requested) False := by
  have below := ahead.trans raise
  obtain ⟨funded, -⟩ := runs.funded
  obtain ⟨-, requested⟩ := runs.requested
  have holding : (v.raisedRecord p target).delay.holding = target := max_eq_right below
  refine .running running ⟨⟨⟨funded.trans raise, most.trans requested⟩, runs.current, runs.settled⟩, runs.requested, runs.pending,
    runs.free, most, .rfl, fun _ => below⟩ (.of_holds ?_ _)
  rw [holding]
  exact (Dmc.resizeMembers_holds _ (pagesFor_pos _) holds enough).1

/-! ## The service (R76) -/

/-- A programme funded in full leaves the list, one below its request stays on it. -/
theorem ProgSide.LawfulElse.leaveIfFull {v : ProgSide} {p : ProgId} {loose : ProgId → Prop} (h : v.LawfulElse p loose)
    (on : p ∈ v.dmc.wait) (tight : ¬loose p) (reached : (v.prog p).delay.funded ≤ (v.prog p).delay.requested)
    (mine : (v.prog p).Lawful ((v.prog p).delay.funded < (v.prog p).delay.requested) False) : (v.leaveIfFull p).LawfulBut loose := by
  unfold ProgSide.leaveIfFull
  split
  · next full =>
    obtain ⟨others, off⟩ := h.leaveWait
    refine others.close ?_ fun l => absurd l tight
    rw [ProgSide.leaveWait_prog]
    have same : (v.prog p).delay.funded < (v.prog p).delay.requested ↔ p ∈ (v.leaveWait p).dmc.wait :=
      iff_of_false (by omega) off
    rw [← propext same]
    exact mine.loosen _
  · next below =>
    refine h.close ?_ fun l => absurd l tight
    have same : (v.prog p).delay.funded < (v.prog p).delay.requested ↔ p ∈ v.dmc.wait := iff_of_true (by omega) on
    rw [← propext same]
    exact mine.loosen _

theorem ProgSide.LawfulBut.serveWaiter {v : ProgSide} {loose : ProgId → Prop} (h : v.LawfulBut loose) {p : ProgId}
    (on : p ∈ v.dmc.wait) : (v.serveWaiter p).LawfulBut loose := by
  have tight : ¬loose p := fun l => h.off p l on
  have mine := h.prog p
  cases state : (v.prog p).state with
  | undefined => exact absurd on (mine.off (by rw [state]; decide) (by rw [state]; decide))
  | releasing => exact absurd on (mine.off (by rw [state]; decide) (by rw [state]; decide))
  | waiting =>
    rw [ProgSide.serveWaiter_waiting state]
    dsimp only
    split
    · next some_ =>
      obtain ⟨-, requested, pending⟩ := mine.whenWaiting state
      obtain ⟨least, most⟩ := fundedBy_bounds some_ requested
      have started := ProgSide.startProg_lawful (v := v) (p := p) pending ⟨least, most⟩ requested.2 (mul_pagesFor_fundedBy_le _ some_)
      have delay := congrArg Prog.delay (v.startProg_prog_self p
        (fundedBy (pagesWithin v.dmc.free.length (v.prog p).members.length) (v.prog p).delay.requested))
      dsimp only at delay
      refine ((h.forget p).recast (.startProg v _)).leaveIfFull ?_ tight ?_ ?_
      · rw [(ProgSide.Recast.startProg (p := p) v _).wait]; exact on
      · rw [delay]; exact most
      · rw [delay]; exact started
    · exact h
  | running =>
    obtain ⟨runs, k, -, exact_, holds⟩ := mine.whenRunning state
    have ahead := runs.ahead on
    have holding : (v.prog p).delay.holding = (v.prog p).delay.funded := max_eq_right ahead
    rw [exact_ tight, holding] at holds
    rw [ProgSide.serveWaiter_running state]
    dsimp only
    split
    · next more =>
      have members : (v.prog p).members ≠ [] := fun none => by simp [none, pagesWithin_eq] at more
      rw [Prog.pagesPerChannel_holds members holds] at more ⊢
      have some_ := (Nat.le_add_left 1 _).trans more
      have raise := lt_fundedBy more (runs.listed.1 on)
      obtain ⟨-, most⟩ := fundedBy_bounds some_ runs.requested
      have record := ProgSide.raisedRecord_lawful state runs ahead raise.le most holds (mul_pagesFor_fundedBy_le _ some_)
      have moved := Prog.raised_moved (record.whenRunning state).1.toHeld (ahead.trans raise.le)
      rw [← ProgSide.raiseTo_prog] at moved
      refine ((h.forget p).recast (.raiseTo v _)).leaveIfFull ?_ tight ?_ ?_
      · rw [(ProgSide.Recast.raiseTo (p := p) v _).wait]; exact on
      · rw [moved.delay.funded, moved.delay.requested]; exact most
      · rw [moved.delay.funded, moved.delay.requested]; exact moved.lawful state record
    · exact h

/-- A programme's turn in the service puts no other programme on the list, nor takes one from it. -/
theorem ProgSide.serveWaiter_wait (v : ProgSide) {p q : ProgId} (other : q ≠ p) :
    q ∈ (v.serveWaiter p).dmc.wait ↔ q ∈ v.dmc.wait := by
  have leaves (u : ProgSide) (wait : u.dmc.wait = v.dmc.wait) : q ∈ (u.leaveIfFull p).dmc.wait ↔ q ∈ v.dmc.wait := by
    unfold ProgSide.leaveIfFull
    split
    · rw [(u.leaveWait_fields p).1, ← wait]
      simp [other]
    · rw [wait]
  unfold ProgSide.serveWaiter
  dsimp only
  split
  · split
    · exact leaves _ (ProgSide.Recast.raiseTo v _).wait
    · rfl
  · split
    · exact leaves _ (ProgSide.Recast.startProg v _).wait
    · rfl
  · rfl

theorem ProgSide.LawfulBut.serve {v : ProgSide} {loose : ProgId → Prop} (h : v.LawfulBut loose) : v.serve.LawfulBut loose := by
  have turns (ps : List ProgId) (u : ProgSide) (hu : u.LawfulBut loose) (once : ps.Nodup) (on : ∀ q ∈ ps, q ∈ u.dmc.wait) :
      (ps.foldl ProgSide.serveWaiter u).LawfulBut loose := by
    induction ps generalizing u with
    | nil => exact hu
    | cons p ps ih =>
      obtain ⟨apart, once⟩ := List.nodup_cons.1 once
      refine ih _ (hu.serveWaiter (on p List.mem_cons_self)) once fun q hq => ?_
      rw [u.serveWaiter_wait fun e : q = p => apart (e ▸ hq)]
      exact on q (.tail p hq)
  exact turns _ v h h.once fun _ => id

/-! ## A holding delay that has fallen (R70, R91) -/

/-- The programme gives up the pages that its holding delay no longer needs. -/
theorem ProgSide.LawfulBut.holdingFell {v : ProgSide} {loose : ProgId → Prop} (h : v.LawfulBut loose) {p : ProgId}
    (live : (v.prog p).state.live = true) : (v.holdingFell p).LawfulBut fun q => loose q ∧ q ≠ p := by
  have mine := h.prog p
  obtain ⟨held, k, least, exact_, holds⟩ := mine.whenLive live
  unfold ProgSide.holdingFell
  dsimp only
  split
  · next fewer =>
    have members : (v.prog p).members ≠ [] := fun none => by simp [Prog.pagesPerChannel, none] at fewer
    rw [Prog.pagesPerChannel_holds members holds] at fewer
    have resized : ∀ m ∈ ((v.resize p (pagesFor (v.prog p).delay.holding)).prog p).members,
        m.Holds (pagesFor (v.prog p).delay.holding) := by
      rw [ProgSide.resize_prog_self]
      exact (Dmc.resizeMembers_holds _ (pagesFor_pos _) holds ((Nat.mul_le_mul_left _ least).trans (Nat.le_add_right _ _))).1
    have record : ((v.resize p (pagesFor (v.prog p).delay.holding)).prog p).Lawful (p ∈ v.dmc.wait) False := by
      rw [ProgSide.resize_prog_self] at resized ⊢
      cases mine with
      | undefined state => rw [state] at live; cases live
      | waiting state => rw [state] at live; cases live
      | running state delay => exact .running state delay (.of_holds resized _)
      | releasing state off delay => exact .releasing state off delay (.of_holds resized _)
    refine .event (LawfulBut.serve (((h.forget p).recast (.resize v _)).closeTight ?_))
    rw [ProgSide.resize_wait]
    exact record
  · next enough =>
    refine (h.forget p).closeTight ?_
    have rings : (v.prog p).RingsFor False := ⟨pagesFor (v.prog p).delay.holding, le_rfl, fun _ => rfl, fun m hm => by
      rw [Prog.pagesPerChannel_holds (List.ne_nil_of_mem hm) holds] at enough
      rw [show pagesFor (v.prog p).delay.holding = k by omega]
      exact holds m hm⟩
    cases mine with
    | undefined state => rw [state] at live; cases live
    | waiting state => rw [state] at live; cases live
    | running state delay => exact .running state delay rings
    | releasing state off delay => exact .releasing state off delay rings

end Sys2Proof.Machine

/-! The funding of a requested delay (R72, R73) keeps the laws of the delay memory; what it makes of the programme's record. -/
namespace Sys2Proof.Machine

/-! ## The target (R70, R73) -/

/-- The pages a programme's own rings and the free list reach to. -/
def ProgSide.reach (p : ProgId) (v : ProgSide) : Nat :=
  (v.prog p).members.length * (v.prog p).pagesPerChannel + v.dmc.free.length

/-- Whether a request is funded in full. -/
def ProgSide.Funds (p : ProgId) (request : Nat) (v : ProgSide) : Prop :=
  (v.prog p).members.length * pagesFor (max (v.prog p).delay.whole request) ≤ v.reach p

/-- The target of a request: itself where the pages reach so far, else what they fund of it. -/
def ProgSide.fundTarget (p : ProgId) (request : Nat) (v : ProgSide) : Nat :=
  if (v.prog p).members.length * pagesFor (max (v.prog p).delay.whole request) ≤ v.reach p then request
  else fundedBy (pagesWithin (v.reach p) (v.prog p).members.length) request

/-- The request and its target stored, and the rings brought to the pages they need, before the wait list is joined or left. -/
def ProgSide.funded (p : ProgId) (request : Nat) (v : ProgSide) : ProgSide :=
  (v.modDelay p fun r => { r with requested := request, funded := v.fundTarget p request }).resize p
    (pagesFor (max (v.prog p).delay.whole (v.fundTarget p request)))

theorem ProgSide.fundTarget_full {v : ProgSide} {p : ProgId} {request : Nat} (full : v.Funds p request) :
    v.fundTarget p request = request := if_pos full

theorem ProgSide.fundTarget_partial {v : ProgSide} {p : ProgId} {request : Nat} (short : ¬v.Funds p request) :
    v.fundTarget p request = fundedBy (pagesWithin (v.reach p) (v.prog p).members.length) request := if_neg short

theorem ProgSide.fund_full {v : ProgSide} {p : ProgId} {request : Nat} (full : v.Funds p request) :
    v.fund p request = (v.funded p request).leaveWait p := by
  rw [ProgSide.funded, ProgSide.fundTarget_full full]
  exact if_pos full

theorem ProgSide.fund_partial {v : ProgSide} {p : ProgId} {request : Nat} (short : ¬v.Funds p request) :
    v.fund p request = (v.funded p request).joinWait p := by
  rw [ProgSide.funded, ProgSide.fundTarget_partial short]
  exact if_neg short

theorem ProgSide.Recast.funded {p : ProgId} (v : ProgSide) (request : Nat) : Recast p v (v.funded p request) :=
  (modDelay v _).trans (resize _ _)

/-- The record of a programme whose request has been funded. -/
def ProgSide.fundedRecord (p : ProgId) (request : Nat) (v : ProgSide) : Prog :=
  { v.prog p with
    members := (v.dmc.resizeMembers (pagesFor (max (v.prog p).delay.whole (v.fundTarget p request))) (v.prog p).newest
      (v.prog p).members).2
    delay := { (v.prog p).delay with requested := request, funded := v.fundTarget p request } }

theorem ProgSide.funded_prog (p : ProgId) (request : Nat) (v : ProgSide) : (v.funded p request).prog p = v.fundedRecord p request := by
  rw [ProgSide.funded, ProgSide.resize_prog_self, ProgSide.modDelay_prog_self]
  rfl

/-- A request that the pages do not reach to is funded below itself, above the present delay, with no fewer pages than before. -/
theorem fundedBy_short {n free d funded request q : Nat} (holds : pagesFor (max d funded) = q)
    (bounds : 48 ≤ request ∧ request ≤ 96000) (short : n * q + free < n * pagesFor (max d request)) :
    let target := fundedBy (pagesWithin (n * q + free) n) request
    target < request ∧ d ≤ target ∧ 48 ≤ target ∧ q ≤ pagesFor target ∧ n * pagesFor target ≤ n * q + free := by
  have some_ : 0 < n := Nat.pos_of_ne_zero fun none => by simp [none] at short
  have least : q ≤ (n * q + free) / n := (Nat.le_div_iff_mul_le some_).2 (by rw [Nat.mul_comm]; exact Nat.le_add_right _ _)
  have below : (n * q + free) / n < pagesFor (max d request) := Nat.div_lt_of_lt_mul short
  have fits := Nat.mul_div_le (n * q + free) n
  intro target
  have target_eq : target = fundedBy (pagesWithin (n * q + free) n) request := rfl
  rw [pagesWithin_eq, fundedBy_eq] at target_eq
  generalize (n * q + free) / n = pages at least below fits target_eq
  have above : d ≤ request := by
    by_contra longer
    rw [max_eq_left (by omega)] at below
    have := pagesFor_mono (le_max_left d funded)
    omega
  rw [max_eq_right above, pagesFor] at below
  rw [pagesFor] at holds
  have needs : pagesFor target = pages := by rw [pagesFor]; omega
  rw [needs]
  exact ⟨by omega, by omega, by omega, least, fits⟩

section
variable {v : ProgSide} {p : ProgId} {request : Nat} {on : Prop}

/-- What the target of a request within bounds is, the programme's rings being as long as its holding delay needs. -/
theorem ProgSide.fundTarget_spec (bounds : 48 ≤ request ∧ request ≤ 96000)
    (holds : ∀ m ∈ (v.prog p).members, m.Holds (pagesFor (v.prog p).delay.holding)) :
    (v.fundTarget p request < request ↔ ¬v.Funds p request) ∧ v.fundTarget p request ≤ request ∧ 48 ≤ v.fundTarget p request
      ∧ (¬v.Funds p request → (v.prog p).delay.whole ≤ v.fundTarget p request
          ∧ pagesFor (v.prog p).delay.holding ≤ pagesFor (v.fundTarget p request))
      ∧ (v.prog p).members.length * pagesFor (max (v.prog p).delay.whole (v.fundTarget p request))
          ≤ (v.prog p).members.length * pagesFor (v.prog p).delay.holding + v.dmc.free.length := by
  have reach : v.reach p = (v.prog p).members.length * pagesFor (v.prog p).delay.holding + v.dmc.free.length := by
    unfold ProgSide.reach
    by_cases none : (v.prog p).members = []
    · simp [none]
    · rw [Prog.pagesPerChannel_holds none holds]
  by_cases full : v.Funds p request
  · rw [ProgSide.fundTarget_full full]
    refine ⟨iff_of_false (lt_irrefl _) (not_not.2 full), le_rfl, bounds.1, fun short => absurd full short, ?_⟩
    rw [← reach]
    exact full
  · have short := Nat.lt_of_not_le full
    rw [reach] at short
    obtain ⟨less, ahead, least, more, fits⟩ := fundedBy_short (q := pagesFor (v.prog p).delay.holding) rfl bounds short
    rw [ProgSide.fundTarget_partial full, reach]
    refine ⟨iff_of_true less full, less.le, least, fun _ => ⟨ahead, more⟩, ?_⟩
    rw [max_eq_right ahead]
    exact fits

theorem ProgSide.fundedRecord_lawful (running : (v.prog p).state = .running) (runs : (v.prog p).delay.Runs on)
    (bounds : 48 ≤ request ∧ request ≤ 96000) (holds : ∀ m ∈ (v.prog p).members, m.Holds (pagesFor (v.prog p).delay.holding)) :
    (v.fundedRecord p request).Lawful (¬v.Funds p request) False := by
  obtain ⟨listed, most, least, ahead, fits⟩ := ProgSide.fundTarget_spec bounds holds
  exact .running running ⟨⟨⟨least, most.trans bounds.2⟩, runs.current, runs.settled⟩, bounds, runs.pending, runs.free, most,
    listed.symm, fun short => (ahead short).1⟩ (.of_holds (Dmc.resizeMembers_holds _ (pagesFor_pos _) holds fits).1 _)

end

/-! ## The funding (R72, R73) -/

/-- A request funded: the record, the list, and the laws. -/
theorem ProgSide.LawfulBut.fund {v : ProgSide} (h : v.Lawful) {p : ProgId} {request : Nat} (running : (v.prog p).state = .running)
    (bounds : 48 ≤ request ∧ request ≤ 96000) :
    (v.fund p request).Lawful ∧ (v.fund p request).prog p = v.fundedRecord p request
      ∧ (p ∈ (v.fund p request).dmc.wait ↔ ¬v.Funds p request) := by
  obtain ⟨runs, rings⟩ := (h.prog p).whenRunning running
  have record := ProgSide.fundedRecord_lawful running runs bounds rings.holds
  have others := (h.forget p).recast (.funded v request)
  have mine := v.funded_prog p request
  by_cases full : v.Funds p request
  · rw [ProgSide.fund_full full, ProgSide.leaveWait_prog, mine]
    obtain ⟨left, off⟩ := others.leaveWait
    have same : (¬v.Funds p request) ↔ p ∈ ((v.funded p request).leaveWait p).dmc.wait := iff_of_false (not_not.2 full) off
    exact ⟨left.close (by rw [ProgSide.leaveWait_prog, mine, ← propext same]; exact record) fun l => l.elim, rfl, same.symm⟩
  · rw [ProgSide.fund_partial full, ProgSide.joinWait_prog, mine]
    obtain ⟨joined, on⟩ := others.joinWait
    have same : (¬v.Funds p request) ↔ p ∈ ((v.funded p request).joinWait p).dmc.wait := iff_of_true full on
    exact ⟨joined.close (by rw [ProgSide.joinWait_prog, mine, ← propext same]; exact record) fun l => l.elim, rfl, same.symm⟩

/-- A request funded in part leaves the programme with no fewer pages, so that no service follows. -/
theorem ProgSide.serveAfter_partial {v : ProgSide} (h : v.Lawful) {p : ProgId} {request : Nat} (running : (v.prog p).state = .running)
    (bounds : 48 ≤ request ∧ request ≤ 96000) (short : ¬v.Funds p request) :
    (v.fund p request).serveAfter p (v.prog p).pagesPerChannel = v.fund p request := by
  obtain ⟨-, rings⟩ := (h.prog p).whenRunning running
  obtain ⟨-, -, -, ahead, fits⟩ := ProgSide.fundTarget_spec bounds rings.holds
  have funded := (Dmc.resizeMembers_holds (v.prog p).newest (pagesFor_pos _) rings.holds fits).1
  have members : (v.prog p).members ≠ [] := fun none => short (by simp [ProgSide.Funds, none])
  have some_ : (v.fundedRecord p request).members ≠ [] := fun none => members (by
    have length := Dmc.resizeMembers_length (pagesFor (max (v.prog p).delay.whole (v.fundTarget p request))) (v.prog p).newest v.dmc
      (v.prog p).members
    rw [show (v.dmc.resizeMembers _ _ _).2 = [] from none] at length
    exact List.length_eq_zero_iff.1 length.symm)
  refine if_neg ?_
  rw [(h.fund running bounds).2.1, Prog.pagesPerChannel_holds members rings.holds, Prog.pagesPerChannel_holds some_ funded,
    max_eq_right (ahead short).1]
  exact Nat.not_lt.2 (ahead short).2

/-- A request funded as one event of the delay memory: the laws hold, and the service has not touched the programme itself. -/
theorem ProgSide.LawfulBut.fundEvent {v : ProgSide} (h : v.Lawful) {p : ProgId} {request : Nat} (running : (v.prog p).state = .running)
    (bounds : 48 ≤ request ∧ request ≤ 96000) :
    (v.fundEvent p request).Lawful ∧ (v.fundEvent p request).prog p = v.fundedRecord p request
      ∧ (p ∈ (v.fundEvent p request).dmc.wait ↔ ¬v.Funds p request) := by
  obtain ⟨lawful, record, listed⟩ := h.fund running bounds
  have served : ((v.fund p request).serveAfter p (v.prog p).pagesPerChannel).Lawful
      ∧ ((v.fund p request).serveAfter p (v.prog p).pagesPerChannel).prog p = v.fundedRecord p request
      ∧ (p ∈ ((v.fund p request).serveAfter p (v.prog p).pagesPerChannel).dmc.wait ↔ ¬v.Funds p request) := by
    by_cases full : v.Funds p request
    · have off : p ∉ (v.fund p request).dmc.wait := mt listed.1 (not_not.2 full)
      unfold ProgSide.serveAfter
      split
      · have spared := Spares.serve _ off
        exact ⟨lawful.serve, spared.prog.trans record, iff_of_false (fun on => off (spared.wait.subset on)) (not_not.2 full)⟩
      · exact ⟨lawful, record, listed⟩
    · rw [ProgSide.serveAfter_partial h running bounds full]
      exact ⟨lawful, record, listed⟩
  obtain ⟨lawful, record, listed⟩ := served
  refine ⟨.event lawful, ?_, ?_⟩
  · rw [ProgSide.fundEvent, ProgSide.event_prog, record]
  · rw [ProgSide.fundEvent, ProgSide.event_dmc, listed]

end Sys2Proof.Machine

/-! Every operation on the programmes keeps the laws of the delay memory (R70, R75, R76, R79, R84, R90). -/
namespace Sys2Proof.Machine
namespace ProgSide.LawfulBut

section
variable {v w : ProgSide} {loose : ProgId → Prop} {p : ProgId}

/-- One programme's record has changed, and keeps its place on or off the list. -/
theorem put (h : v.LawfulBut loose) (r : Recast p v w) (mine : (w.prog p).Lawful (p ∈ v.dmc.wait) (loose p)) : w.LawfulBut loose :=
  ((h.forget p).recast r).close (by rw [r.wait]; exact mine) (by rw [r.wait]; exact h.off p)

/-- A RUNNING programme's delay has moved toward the same target. -/
theorem moved (h : v.LawfulBut loose) (r : Recast p v w) (running : (v.prog p).state = .running) (m : (v.prog p).Moved (w.prog p)) :
    w.LawfulBut loose := h.put r (m.lawful running (h.prog p))

theorem noticeDone (h : v.LawfulBut loose) (kind : DoneKind) : (v.noticeDone p kind).LawfulBut loose :=
  h.kept (.onPanel _ fun q => Panel.offer_deficit _ _ q)

/-- With all rings of the right length there is none to be trimmed but of this programme. -/
theorem tight (h : v.LawfulBut fun q => loose q ∧ q ≠ p) (only : ∀ q, loose q → q = p) : v.Lawful :=
  h.congr fun q => iff_of_false (fun ⟨l, other⟩ => other (only q l)) not_false

end

/-! ## Requests (R86, R87, R94, R97, R98) -/

theorem actSteady {v : ProgSide} (h : v.Lawful) {p : ProgId} {request : Nat} (running : (v.prog p).state = .running)
    (steady : (v.prog p).delay.change = .steady) (bounds : 48 ≤ request ∧ request ≤ 96000) : (v.actSteady p request).Lawful := by
  obtain ⟨lawful, record, -⟩ := h.fundEvent running bounds
  have state : ((v.fundEvent p request).prog p).state = .running := by rw [record]; exact running
  have change : ((v.fundEvent p request).prog p).delay.change = .steady := by rw [record]; exact steady
  have held := ((lawful.prog p).whenRunning state).1.toHeld
  unfold ProgSide.actSteady
  dsimp only
  split
  · exact lawful.noticeDone _
  · exact lawful.moved (.modDelay _ _) state (by rw [ProgSide.modDelay_prog_self]; exact Prog.beginChange_moved held change)

theorem actGliding {v : ProgSide} (h : v.Lawful) {p : ProgId} {request : Nat} (running : (v.prog p).state = .running)
    (gliding : (v.prog p).delay.change = .gliding) (bounds : 48 ≤ request ∧ request ≤ 96000) : (v.actGliding p request).Lawful := by
  obtain ⟨lawful, record, -⟩ := h.fundEvent running bounds
  have state : ((v.fundEvent p request).prog p).state = .running := by rw [record]; exact running
  have change : ((v.fundEvent p request).prog p).delay.change = .gliding := by rw [record]; exact gliding
  have moved := Prog.glideJudged_moved ((lawful.prog p).whenRunning state).1.toHeld change
  rw [← ProgSide.judgeGlide_prog] at moved
  have judged := lawful.moved (.judgeGlide _) state moved
  exact (judged.holdingFell ((ProgState.live_iff _).2 (.inl (moved.state.trans state)))).congr fun q => by simp

theorem newRequest {v : ProgSide} (h : v.Lawful) (p : ProgId) : (v.newRequest p).Lawful := by
  have bounds := requestedDelay_bounds (v.prog p).delay.video (v.prog p).delay.trim
  unfold ProgSide.newRequest
  dsimp only
  split
  · next running =>
    split
    · next steady => exact h.actSteady running steady bounds
    · next gliding => exact h.actGliding running gliding bounds
    · next notSteady notGliding =>
      obtain ⟨runs, rings⟩ := (h.prog p).whenRunning running
      refine h.put (.modDelay v _) ?_
      rw [ProgSide.modDelay_prog_self]
      exact .running running ⟨⟨runs.funded, runs.current, runs.settled⟩, runs.requested, fun d some_ => Option.some.inj some_ ▸ bounds,
        fun change => change.elim (fun c => absurd c notSteady) fun c => absurd c notGliding, runs.reached, runs.listed, runs.ahead⟩ rings
  · next idle =>
    refine h.put (.modDelay v _) ?_
    rw [ProgSide.modDelay_prog_self]
    cases h.prog p with
    | undefined state off => exact .undefined state off
    | waiting state on_ _ pending => exact .waiting state on_ bounds pending
    | running state => exact absurd state idle
    | releasing state off delay rings => exact .releasing state off ⟨delay.funded, delay.current, delay.settled⟩ rings

/-! ## The end of a programme (R51, R52, R69, R78) -/

theorem undefineWaiting {v : ProgSide} (h : v.Lawful) (p : ProgId) : (v.undefineWaiting p).Lawful := by
  obtain ⟨others, off⟩ := (h.forget p).leaveWait
  have gone := (others.recast (.replaced _ Prog.undefined rfl)).close
    (by rw [(v.leaveWait p).replaced_self (v.leaveWait p).dmc]; exact .undefined rfl off) fun l => l.elim
  exact gone.kept (.onPanel _ fun q => Panel.restartWatches_deficit _ _ q)

theorem toReleasing_lawful {x : Prog} {on : Prop} (h : x.Lawful on False) (running : x.state = .running) :
    x.toReleasing.Lawful False True := by
  obtain ⟨runs, rings⟩ := h.whenRunning running
  have whole := runs.toHeld.whole
  have holding := x.toReleasing_holding
  refine .releasing rfl not_false ⟨whole, ?_, fun _ => ?_⟩ ?_
  · change 64 * 48 ≤ 64 * x.delay.whole ∧ 64 * x.delay.whole ≤ 64 * 96000
    omega
  · exact Nat.mul_mod_right 64 x.delay.whole
  · refine rings.kept ?_ ?_ fun tight => absurd trivial tight
    · rw [Prog.toReleasing_members, List.map_map]; rfl
    · rw [holding]; exact le_max_left _ _

theorem beginRelease {v : ProgSide} (h : v.Lawful) {p : ProgId} (running : (v.prog p).state = .running) :
    (v.beginRelease p).Lawful := by
  obtain ⟨others, off⟩ := ((h.forget p).recast (.modProg v Prog.toReleasing)).leaveWait
  have record : ((v.modProg p Prog.toReleasing).leaveWait p).prog p = (v.prog p).toReleasing := by
    rw [ProgSide.leaveWait_prog, ProgSide.modProg_prog_self]
  have released : ((v.modProg p Prog.toReleasing).leaveWait p).LawfulBut (· = p) := by
    have loosened : ((v.modProg p Prog.toReleasing).leaveWait p).LawfulElse p (· = p) :=
      ⟨others.once, others.deficit, fun q other => (others.prog q other).loosen _, fun q other e => absurd e other⟩
    refine loosened.close ?_ fun _ => off
    have mine := toReleasing_lawful (h.prog p) running
    rw [record, ← propext (iff_of_false not_false off), ← propext (iff_of_true trivial rfl)]
    exact mine
  exact (released.holdingFell (by rw [record]; rfl)).tight fun _ => id

theorem releaseEnd {v : ProgSide} (h : v.Lawful) (p : ProgId) : (v.releaseEnd p).Lawful := by
  unfold ProgSide.releaseEnd
  split
  · next due =>
    have releasing : (v.prog p).state = .releasing := by
      simp only [Prog.releaseDue, Bool.and_eq_true, beq_iff_eq] at due
      exact due.1
    have off := (h.prog p).off (by rw [releasing]; decide) (by rw [releasing]; decide)
    refine kept (.event ?_) (.onPanel _ fun q => Panel.restartWatches_deficit _ _ q)
    exact LawfulBut.serve (h.put (.replaced v Prog.undefined rfl) (by rw [v.replaced_self]; exact .undefined rfl off))
  · exact h

/-! ## Changes of delay that end (R91, R92, R95 to R97) -/

theorem glideEnd {v : ProgSide} (h : v.Lawful) (p : ProgId) : (v.glideEnd p).Lawful := by
  unfold ProgSide.glideEnd
  split
  · next due =>
    simp only [Prog.glideDue, Bool.and_eq_true, beq_iff_eq, DelayRec.arrived] at due
    obtain ⟨⟨running, gliding⟩, arrived⟩ := due
    refine h.moved (.completeGlide v) running ?_
    rw [ProgSide.completeGlide_prog]
    exact .change ((h.prog p).whenRunning running).1.toHeld rfl rfl rfl rfl
      (fun _ => by rw [arrived]; exact Nat.mul_mod_right 64 _) fun _ => .inr gliding
  · exact h

theorem fillEnd {v : ProgSide} (h : v.Lawful) (p : ProgId) : (v.fillEnd p).Lawful := by
  unfold ProgSide.fillEnd
  split
  · next due =>
    simp only [Prog.fillDue, Bool.and_eq_true, beq_iff_eq] at due
    obtain ⟨⟨running, filling⟩, -⟩ := due
    have held := ((h.prog p).whenRunning running).1.toHeld
    refine h.moved (.modDelay v _) running ?_
    rw [ProgSide.modDelay_prog_self]
    exact .change held rfl rfl rfl rfl (fun _ => held.settled (by rw [filling]; decide)) (by simp)
  · exact h

theorem fadeInEnd {v : ProgSide} (h : v.Lawful) (p : ProgId) : (v.fadeInEnd p).Lawful := by
  unfold ProgSide.fadeInEnd
  dsimp only
  split
  · next due =>
    simp only [Prog.fadeInDue, Bool.and_eq_true, beq_iff_eq] at due
    obtain ⟨⟨running, fadeIn⟩, -⟩ := due
    obtain ⟨runs, rings⟩ := (h.prog p).whenRunning running
    have still := runs.settled (by rw [fadeIn]; decide)
    generalize ended : ((v.modDelay p fun r => { r with change := .steady }).noticeDone p .jump).modDelay p
      (fun r => { r with ahead := false }) = u
    have recast : Recast p v u := ended ▸ ((Recast.modDelay v _).trans (.noticeDone _ p _)).trans (.modDelay _ _)
    have record : u.prog p = { v.prog p with delay := { (v.prog p).delay with change := .steady, ahead := false } } := by
      rw [← ended, ProgSide.modDelay_prog_self, ProgSide.noticeDone, ProgSide.onPanel_prog, ProgSide.modDelay_prog_self]
    have pending : (u.prog p).delay.pending = (v.prog p).delay.pending := by rw [record]
    -- With its pending target taken the programme is STEADY like any other.
    have settled (w : ProgSide) (r : Recast p u w)
        (mine : w.prog p = { u.prog p with delay := { (u.prog p).delay with pending := none } }) :
        w.Lawful := by
      refine h.put (recast.trans r) ?_
      rw [mine, record]
      exact .running running ⟨⟨runs.funded, runs.current, fun _ => still⟩, runs.requested, fun d some_ => absurd some_ (by simp),
        fun _ => rfl, runs.reached, runs.listed, runs.ahead⟩ rings
    unfold ProgSide.afterJump
    split
    · next request some_ =>
      have taken := settled _ (.modDelay u fun r => { r with pending := none }) (u.modDelay_prog_self p _)
      refine taken.actSteady ?_ ?_ (runs.pending request (pending ▸ some_))
      · rw [ProgSide.modDelay_prog_self, record]; exact running
      · rw [ProgSide.modDelay_prog_self, record]
    · next none =>
      have lawful := settled u (.refl u) (by rw [← none])
      have state : (u.prog p).state = .running := by rw [record]; exact running
      split
      · refine lawful.moved (.modDelay u _) state ?_
        rw [ProgSide.modDelay_prog_self]
        exact Prog.beginChange_moved ((lawful.prog p).whenRunning state).1.toHeld (by rw [record])
      · exact lawful
  · exact h

/-- The record at a jump's faded point: the delay at its target, where the rings are long enough for it. -/
theorem jumped_lawful {x : Prog} {on : Prop} (h : x.Lawful on False) (running : x.state = .running) :
    x.jumped.judgeCues.Lawful on (¬on) := by
  obtain ⟨runs, rings⟩ := h.whenRunning running
  have record : x.jumped.judgeCues.delay.current = 64 * x.delay.funded := rfl
  have funded : x.jumped.judgeCues.delay.funded = x.delay.funded := rfl
  have whole : x.jumped.judgeCues.delay.whole = x.delay.funded := Nat.mul_div_cancel_left _ (by decide)
  have holding : x.jumped.judgeCues.delay.holding = x.delay.funded := by rw [DelayRec.holding, whole, funded, max_self]
  have moving : x.jumped.judgeCues.delay.change ≠ .steady ∧ x.jumped.judgeCues.delay.change ≠ .gliding := by
    unfold Prog.judgeCues Prog.jumped
    dsimp only
    split <;> simp
  refine .running running ⟨⟨runs.funded, ?_, fun _ => ?_⟩, runs.requested, runs.pending, fun change => ?_, runs.reached, runs.listed,
    fun _ => whole.le⟩ ?_
  · rw [record]
    have := runs.funded
    omega
  · rw [record]; exact Nat.mul_mod_right 64 _
  · exact change.elim (fun c => absurd c moving.1) fun c => absurd c moving.2
  · refine rings.kept ?_ (holding ▸ le_max_right _ _) fun listed => ⟨not_false, ?_⟩
    · exact (x.moveDelay_ringsKept _).rings
    · rw [holding]; exact (max_eq_right (runs.ahead (not_not.1 listed))).symm

theorem jumpFaded {v : ProgSide} (h : v.Lawful) (p : ProgId) : (v.jumpFaded p).Lawful := by
  unfold ProgSide.jumpFaded
  split
  · next due =>
    simp only [Prog.jumpDue, Bool.and_eq_true, beq_iff_eq] at due
    obtain ⟨⟨running, -⟩, -⟩ := due
    have mine := jumped_lawful (h.prog p) running
    have recast : Recast p v (v.modProg p fun x => x.jumped.judgeCues) := .modProg v _
    have loosened : (v.modProg p fun x => x.jumped.judgeCues).LawfulElse p fun q => q = p ∧ p ∉ v.dmc.wait := by
      have others := (h.forget p).recast recast
      exact ⟨others.once, others.deficit, fun q other => (others.prog q other).loosen _, fun q other l => absurd l.1 other⟩
    have moved : (v.modProg p fun x => x.jumped.judgeCues).LawfulBut fun q => q = p ∧ p ∉ v.dmc.wait := by
      refine loosened.close ?_ fun l => l.2
      have listed : p ∉ v.dmc.wait ↔ p = p ∧ p ∉ v.dmc.wait := ⟨fun off => ⟨rfl, off⟩, fun l => l.2⟩
      rw [ProgSide.modProg_prog_self, ← propext listed]
      exact mine
    exact (moved.holdingFell (by rw [ProgSide.modProg_prog_self]; exact (ProgState.live_iff _).2 (.inl running))).tight fun _ l => l.1
  · exact h

end ProgSide.LawfulBut
end Sys2Proof.Machine

/-! The boundary, a definition and a reset keep the laws of the delay memory; so does every step (R69, R70, R74, R91, R92). -/
namespace Sys2Proof.Machine

/-! ## The boundary (R54, R65, R92) -/

theorem DelayRec.moveFades_course (state : ProgState) (r : DelayRec) : (r.moveFades state).requested = r.requested
    ∧ (r.moveFades state).pending = r.pending ∧ (r.moveFades state).funded = r.funded ∧ (r.moveFades state).current = r.current := by
  unfold DelayRec.moveFades
  split
  · exact ⟨rfl, rfl, rfl, rfl⟩
  · split <;> exact ⟨rfl, rfl, rfl, rfl⟩

theorem Member.Holds.advance {k : Nat} {m n : Member} (h : m.Holds k) (ring : n.ring = m.ring.map Ring.advance) : n.Holds k := by
  obtain ⟨r, some_, length⟩ := h
  refine ⟨r.advance, by rw [ring, some_]; rfl, ?_⟩
  rw [← length]
  exact r.advance_pages

/-- A boundary moves a gliding delay by one 64th of a frame toward its target, and no other. -/
theorem Prog.nextCurrent_bounds (x : Prog) : (¬(x.state = .running ∧ x.delay.change = .gliding) → x.nextCurrent = x.delay.current)
    ∧ min x.delay.current (64 * x.delay.funded) ≤ x.nextCurrent ∧ x.nextCurrent ≤ max x.delay.current (64 * x.delay.funded) := by
  unfold Prog.nextCurrent
  split
  · next gliding => exact ⟨fun still => absurd gliding still, by split_ifs <;> omega, by split_ifs <;> omega⟩
  · exact ⟨fun _ => rfl, min_le_left _ _, le_max_left _ _⟩

/-- A programme after its turn at a boundary; the rings of a gliding one off the list may then be longer than they need be. -/
theorem Front.turnProg_lawful (f : Front) (dram : Memory) {x : Prog} {on : Prop} (h : x.Lawful on False) (live : x.state.live = true) :
    (f.turnProg dram x).Lawful on (¬on ∧ x.state = .running ∧ x.delay.change = .gliding) := by
  have delay : (f.turnProg dram x).delay = ({ x.delay with current := x.nextCurrent } : DelayRec).moveFades x.state := by
    rw [Front.turnProg_rest]; rfl
  have state : (f.turnProg dram x).state = x.state := by rw [Front.turnProg_rest]; rfl
  obtain ⟨requested, pending, funded, current⟩ := DelayRec.moveFades_course x.state { x.delay with current := x.nextCurrent }
  have change := DelayRec.moveFades_change x.state { x.delay with current := x.nextCurrent }
  rw [← delay] at requested pending funded current change
  dsimp only at requested pending funded current change
  obtain ⟨still, low, high⟩ := x.nextCurrent_bounds
  obtain ⟨held, rings⟩ := h.whenLive live
  have whole : (f.turnProg dram x).delay.whole ≤ x.delay.holding := by
    rw [DelayRec.whole, current, DelayRec.holding, DelayRec.whole]
    omega
  have falls : (f.turnProg dram x).delay.holding ≤ x.delay.holding := by
    rw [DelayRec.holding, funded]
    exact max_le whole (le_max_right _ _)
  have held' : (f.turnProg dram x).delay.Held := by
    refine ⟨funded ▸ held.funded, ?_, fun settled => ?_⟩
    · rw [current]
      obtain ⟨⟨least, most⟩, least', most'⟩ := held.funded, held.current
      omega
    · rw [change] at settled
      rw [current, still fun gliding => settled gliding.2]
      exact held.settled settled
  have carried (ahead : on → x.delay.whole ≤ x.delay.funded) :
      (f.turnProg dram x).RingsFor (¬on ∧ x.state = .running ∧ x.delay.change = .gliding) := by
    refine rings.keptBy (fun k holds m hm => ?_) falls fun tight => ⟨not_false, ?_⟩
    · rw [Front.turnProg_members] at hm
      obtain ⟨n, hn, rfl⟩ := List.mem_map.1 hm
      exact (holds n hn).advance rfl
    · by_cases listed : on
      · have same : x.delay.holding = x.delay.funded := max_eq_right (ahead listed)
        rw [same] at whole ⊢
        rw [DelayRec.holding, funded]
        exact max_eq_right whole
      · rw [DelayRec.holding, DelayRec.whole, current, funded, still fun gliding => tight ⟨listed, gliding⟩]
        rfl
  cases h with
  | undefined idle => rw [idle] at live; cases live
  | waiting idle => rw [idle] at live; cases live
  | running running runs =>
    refine .running (state.trans running) ⟨held', requested ▸ runs.requested, pending ▸ runs.pending, ?_, ?_, ?_, fun listed => ?_⟩
      (carried runs.ahead)
    · rw [change, pending]; exact runs.free
    · rw [funded, requested]; exact runs.reached
    · rw [funded, requested]; exact runs.listed
    · rw [funded]
      exact whole.trans (max_eq_right (runs.ahead listed)).le
  | releasing releasing off =>
    exact .releasing (state.trans releasing) off held' (carried fun on_ => absurd on_ off)

namespace ProgSide.LawfulBut

/-- After the boundary, before the falling glides give up pages. -/
theorem boundary {v : ProgSide} (h : v.Lawful) (f : Front) : (v.boundary f).LawfulBut fun p =>
    p ∉ v.dmc.wait ∧ (v.prog p).state = .running ∧ (v.prog p).delay.change = .gliding := by
  have written := ProgSide.turns_dmc f (by decide : allProgs.Nodup) v
  have wait : (v.boundary f).dmc.wait = v.dmc.wait := by rw [ProgSide.boundary, written]
  refine ⟨?_, fun p => ?_, fun p => ?_, fun p l => ?_⟩
  · rw [wait]; exact h.once
  · rw [(v.boundary_panel f).1, wait]; exact h.deficit p
  · obtain ⟨before, -, -, -, turn, idle⟩ := v.boundary_turn f p
    rw [wait]
    by_cases live : (v.prog p).state.live = true
    · rw [turn live]
      exact f.turnProg_lawful _ (h.prog p) live
    · rw [idle live]
      exact (h.prog p).loosen _
  · rw [wait]; exact l.1

/-- The pages that falling glides give up, each programme's at its turn. -/
theorem givePages {v : ProgSide} {glides : ProgId → Prop} (h : v.LawfulBut glides)
    (gliding : ∀ p, glides p → (v.prog p).state = .running ∧ (v.prog p).delay.change = .gliding) : v.givePages.Lawful := by
  have spares (u : ProgSide) {p q : ProgId} (other : q ≠ p) (off : q ∉ u.dmc.wait) : (u.holdingFell p).prog q = u.prog q := by
    unfold ProgSide.holdingFell
    dsimp only
    split
    · have still := Spares.resize u other (pagesFor (u.prog p).delay.holding)
      rw [ProgSide.event_prog, (still.trans (.serve _ fun on => off (still.wait.subset on))).prog]
    · rfl
  have turns (ps : List ProgId) (u : ProgSide) (once : ps.Nodup) (hu : u.LawfulBut fun q => q ∈ ps ∧ glides q)
      (due : ∀ q ∈ ps, glides q → (u.prog q).state = .running ∧ (u.prog q).delay.change = .gliding) :
      (ps.foldl ProgSide.glidePages u).Lawful := by
    induction ps generalizing u with
    | nil => exact hu.congr fun q => by simp
    | cons p ps ih =>
      obtain ⟨apart, once⟩ := List.nodup_cons.1 once
      rw [List.foldl_cons, ProgSide.glidePages]
      split
      · next falls =>
        refine ih _ once ((hu.holdingFell ((ProgState.live_iff _).2 (.inl falls.1))).congr fun q => ?_) fun q hq l => ?_
        · constructor
          · exact fun ⟨⟨mem, l⟩, other⟩ => ⟨(List.mem_cons.1 mem).resolve_left other, l⟩
          · exact fun ⟨mem, l⟩ => ⟨⟨.tail p mem, l⟩, fun e => apart (e ▸ mem)⟩
        · rw [spares u (fun e : q = p => apart (e ▸ hq)) (hu.off q ⟨.tail p hq, l⟩)]
          exact due q (.tail p hq) l
      · next rests =>
        refine ih u once (hu.congr fun q => ?_) fun q hq => due q (.tail p hq)
        constructor
        · refine fun ⟨mem, l⟩ => ⟨(List.mem_cons.1 mem).resolve_left fun e => ?_, l⟩
          subst e
          exact rests (due q List.mem_cons_self l)
        · exact fun ⟨mem, l⟩ => ⟨.tail p mem, l⟩
  exact turns allProgs v (by decide) (h.congr fun q => by simp [mem_allProgs]) fun q _ => gliding q

/-! ## Definition and reset (R59, R74) -/

theorem define {v : ProgSide} (h : v.Lawful) {p : ProgId} (undefined : (v.prog p).state = .undefined) {x : Prog} (new : x.New) :
    (v.define p x).Lawful := by
  have off := (h.prog p).off (by rw [undefined]; decide) (by rw [undefined]; decide)
  generalize stored : (ProgSide.modProg { v with progs := v.progs.set p x } p fun y => { y with state := .waiting }) = w
  have recast : Recast p v w := stored ▸ (Recast.replaced v x rfl).trans (.modProg _ _)
  have record : w.prog p = { x with state := .waiting } := by
    rw [← stored, ProgSide.modProg_prog_self, v.replaced_self v.dmc]
  have free : w.dmc = v.dmc := by rw [← stored]; rfl
  have others := (h.forget p).recast recast
  have pending : (w.prog p).delay.pending = none := by rw [record]; exact new.pending
  have requested : 48 ≤ (w.prog p).delay.requested ∧ (w.prog p).delay.requested ≤ 96000 := by rw [record]; exact new.requested
  have started (delay : Nat) (bounds : 48 ≤ delay ∧ delay ≤ (w.prog p).delay.requested)
      (enough : (w.prog p).members.length * pagesFor delay ≤ w.dmc.free.length) :=
    ProgSide.startProg_lawful (v := w) (p := p) pending bounds requested.2 enough
  refine .event ?_
  rw [ProgSide.fundNew_eq]
  simp only [stored, v.replaced_self v.dmc p x]
  rw [show x.delay.requested = (w.prog p).delay.requested by rw [record], show x.members = (w.prog p).members by rw [record],
    show v.dmc.free = w.dmc.free by rw [free]]
  generalize (w.prog p).delay.requested = request at requested started
  split
  · next full =>
    have listed : request < request ↔ p ∈ (w.startProg p request).dmc.wait :=
      iff_of_false (lt_irrefl _) (by rw [((Recast.startProg (p := p) w request)).wait, free]; exact off)
    refine (others.recast (.startProg w request)).close ?_ fun l => l.elim
    rw [← propext listed]
    exact started request ⟨requested.1, le_rfl⟩ full
  · next short =>
    split
    · next some_ =>
      obtain ⟨least, most⟩ := fundedBy_bounds some_ requested
      have fits := mul_pagesFor_fundedBy_le (channels := (w.prog p).members.length) request some_
      have below : fundedBy (pagesWithin w.dmc.free.length (w.prog p).members.length) request < request :=
        lt_of_le_of_ne most fun e => short (e ▸ fits)
      obtain ⟨joined, on⟩ := (others.recast (.startProg w (fundedBy _ request))).joinWait
      refine joined.close ?_ fun l => l.elim
      rw [← propext (iff_of_true below on), ProgSide.joinWait_prog]
      exact started _ ⟨least, most⟩ fits
    · obtain ⟨joined, on⟩ := others.joinWait
      refine joined.close ?_ fun l => l.elim
      rw [ProgSide.joinWait_prog]
      exact .waiting (by rw [record]) on (by rw [record]; exact new.requested) pending

end ProgSide.LawfulBut

theorem ProgSide.AtReset.lawful {v : ProgSide} (h : v.AtReset) : v.Lawful :=
  ⟨by rw [h.wait]; exact List.nodup_nil, fun p => by rw [h.deficit, h.wait]; simp,
    fun p => by rw [h.prog, h.wait]; exact .undefined rfl List.not_mem_nil, fun _ l => l.elim⟩

theorem ProgSide.Act.lawful {v w : ProgSide} (h : v.Act w) (hv : v.Lawful) : w.Lawful := by
  cases h with
  | kept h => exact hv.kept h
  | newRequest p => exact hv.newRequest p
  | undefineWaiting p => exact hv.undefineWaiting p
  | beginRelease p running => exact hv.beginRelease running
  | glideEnd p => exact hv.glideEnd p
  | jumpFaded p => exact hv.jumpFaded p
  | fillEnd p => exact hv.fillEnd p
  | fadeInEnd p => exact hv.fadeInEnd p
  | releaseEnd p => exact hv.releaseEnd p
  | boundary f =>
    refine (hv.boundary f).givePages fun p ⟨_, running, gliding⟩ => ?_
    obtain ⟨before, -, -, -, turn, -⟩ := v.boundary_turn f p
    rw [turn ((ProgState.live_iff _).2 (.inl running)), Front.turnProg_rest]
    exact ⟨running, (f.carryProg_change _).trans gliding⟩

theorem ProgSide.Turns.lawful {v w : ProgSide} (h : v.Turns w) (hv : v.Lawful) : w.Lawful := by
  induction h with
  | refl => exact hv
  | tail _ last ih =>
    cases last with
    | act act => exact act.lawful ih
    | define p x undefined new => exact ih.define undefined new
    | reset h => exact h.lawful

/-! ## The statement's own words -/

theorem State.RequestsBounded.lawful {s : State} (requests : s.RequestsBounded) (laws : s.DelayMemoryLaws) : s.progSide.Lawful := by
  obtain ⟨live, once, listed, ahead, deficit⟩ := laws
  refine ⟨once, deficit, fun p => ?_, fun _ l => l.elim⟩
  obtain ⟨requested, pending, waits, free, reached⟩ := requests p
  have held (alive : (s.prog p).state.live = true) : (s.prog p).delay.Held ∧ (s.prog p).RingsFor False := by
    obtain ⟨rings, least, most, least', most', settled⟩ := live p alive
    exact ⟨⟨⟨least, most⟩, ⟨least', most'⟩, settled⟩, .of_holds rings _⟩
  change (s.prog p).Lawful (p ∈ s.dmc.wait) False
  cases state : (s.prog p).state with
  | undefined => exact .undefined state (mt (listed p).1 (by simp [state]))
  | waiting => exact .waiting state ((listed p).2 (.inl state)) (requested (.inl state)) (waits state)
  | running =>
    obtain ⟨delay, rings⟩ := held (by rw [state]; rfl)
    exact .running state ⟨delay, requested (.inr state), pending, free state, reached state, (listed p).trans (by simp [state]),
      fun on => ahead p on state⟩ rings
  | releasing =>
    obtain ⟨delay, rings⟩ := held (by rw [state]; rfl)
    exact .releasing state (mt (listed p).1 (by simp [state])) delay rings

theorem State.delayMemoryLaws_of_lawful {s : State} (h : s.progSide.Lawful) : s.DelayMemoryLaws := by
  refine ⟨fun p alive => ?_, h.once, fun p => ?_, fun p on running => ((h.prog p).whenRunning running).1.ahead on, h.deficit⟩
  · obtain ⟨held, rings⟩ := (h.prog p).whenLive alive
    exact ⟨rings.holds, held.funded.1, held.funded.2, held.current.1, held.current.2, held.settled⟩
  · have mine := h.prog p
    change (s.prog p).Lawful (p ∈ s.dmc.wait) False at mine
    cases mine with
    | undefined state off => exact iff_of_false off (by simp [state])
    | waiting state on => exact iff_of_true on (.inl state)
    | running state delay => exact delay.listed.trans (by simp [state])
    | releasing state off => exact iff_of_false off (by simp [state])

/-- Settles O59: every step is a chain of turns, and each turn keeps the laws programme by programme: a programme worked on comes to
its new place on the list with its alarm, and the pages it gives up go to those that wait. -/
theorem stepKeepsTheDelayMemoryLaws : Obligations.StepKeepsTheDelayMemoryLaws := by
  intro s t h requests pages _ laws
  obtain ⟨turns, -⟩ := step_moves h (s.pagesConserved_iff.1 pages).2
  exact State.delayMemoryLaws_of_lawful (turns.lawful (requests.lawful laws))

end Sys2Proof.Machine

/-! A turn in the service of the page wait list, and the funding of a new programme (R73 to R76, R79, R99). -/
namespace Sys2Proof.Machine

/-! ## The change method (R87) -/

theorem DelayRec.chooseGlide_funded (r : DelayRec) (target : Nat) :
    ({ r with funded := target } : DelayRec).chooseGlide = r.GlidesTo target := by
  unfold DelayRec.chooseGlide DelayRec.GlidesTo
  dsimp only
  cases r.method with
  | glide => rfl
  | jump => rfl
  | auto =>
    have distance : |(64 * target : Int) - r.current| = (((64 * target : Nat) : Int) - r.current).natAbs := by
      rw [Int.natCast_natAbs]; push_cast; rfl
    rw [decide_eq_decide, distance]
    omega

/-! ## Leaving the list (R76, R79) -/

@[simp] theorem ProgSide.leaveIfFull_prog (v : ProgSide) (p q : ProgId) : (v.leaveIfFull p).prog q = v.prog q := by
  unfold ProgSide.leaveIfFull
  split
  · exact v.leaveWait_prog p q
  · rfl

@[simp] theorem ProgSide.leaveIfFull_free (v : ProgSide) (p : ProgId) : (v.leaveIfFull p).dmc.free = v.dmc.free := by
  unfold ProgSide.leaveIfFull
  split
  · rw [(v.leaveWait_fields p).1]
  · rfl

/-- A programme on the list leaves it, its DELAY_DEFICIT cleared, when it is funded in full. -/
theorem ProgSide.leaveIfFull_full {v : ProgSide} {p : ProgId} (on : p ∈ v.dmc.wait)
    (full : (v.prog p).delay.funded = (v.prog p).delay.requested) :
    (v.leaveIfFull p).dmc.wait = v.dmc.wait.filter (fun e => !(e == p))
      ∧ (v.leaveIfFull p).panel.wch.isRaised (.delayDeficit p) = false := by
  rw [ProgSide.leaveIfFull, if_pos full, (v.leaveWait_fields p).1]
  exact ⟨rfl, (v.leaveWait_off p).2 on⟩

theorem ProgSide.leaveIfFull_below {v : ProgSide} {p : ProgId} (below : (v.prog p).delay.funded ≠ (v.prog p).delay.requested) :
    v.leaveIfFull p = v := if_neg below

/-! ## A raise taken (R99) -/

theorem Prog.glideJudged_kept (x : Prog) :
    x.RingsKept x.glideJudged ∧ x.glideJudged.delay.funded = x.delay.funded ∧ x.glideJudged.delay.requested = x.delay.requested := by
  unfold Prog.glideJudged
  split
  · split
    · exact ⟨⟨rfl, rfl⟩, rfl, rfl⟩
    · exact ⟨⟨rfl, rfl⟩, rfl, rfl⟩
  · split
    · exact ⟨⟨rfl, (x.moveDelay_ringsKept _).rings⟩, rfl, rfl⟩
    · exact ⟨⟨rfl, (x.moveDelay_ringsKept _).rings⟩, rfl, rfl⟩

theorem DelayRec.beginChange_kept (r : DelayRec) :
    r.beginChange.funded = r.funded ∧ r.beginChange.requested = r.requested ∧ r.beginChange.current = r.current := by
  unfold DelayRec.beginChange
  split
  · exact ⟨rfl, rfl, rfl⟩
  · exact ⟨rfl, rfl, rfl⟩

/-- A raise taken moves no ring and neither the target nor the request. -/
theorem Prog.raised_kept (x : Prog) :
    x.RingsKept x.raised ∧ x.raised.delay.funded = x.delay.funded ∧ x.raised.delay.requested = x.delay.requested := by
  obtain ⟨begun, same, -⟩ := x.delay.beginChange_kept
  unfold Prog.raised
  split
  · split
    · exact ⟨⟨rfl, rfl⟩, rfl, rfl⟩
    · exact ⟨⟨rfl, rfl⟩, begun, same⟩
  · exact x.glideJudged_kept
  · exact ⟨⟨rfl, rfl⟩, rfl, rfl⟩
  · exact ⟨⟨rfl, (x.moveDelay_ringsKept _).rings⟩, rfl, rfl⟩
  · exact ⟨⟨rfl, rfl⟩, rfl, rfl⟩

theorem DelayRec.not_arrived_of_below {r : DelayRec} (below : r.whole < r.funded) : r.arrived = false := by
  have apart : r.current ≠ 64 * r.funded := by
    unfold DelayRec.whole at below
    omega
  simpa [DelayRec.arrived] using apart

/-- Toward a target above the delay a glide goes on, where it may. -/
theorem Prog.glideJudged_on {x : Prog} (below : x.delay.whole < x.delay.funded) (glides : x.delay.chooseGlide = true) :
    x.glideJudged = x := by
  rw [Prog.glideJudged, if_pos glides, if_neg (by rw [DelayRec.not_arrived_of_below below]; exact Bool.false_ne_true)]

/-- Toward a target above the delay a glide that may not go on is stopped at its whole part, and a jump begins. -/
theorem Prog.glideJudged_stopped {x : Prog} (below : x.delay.whole < x.delay.funded) (jumps : x.delay.chooseGlide = false) :
    x.glideJudged = { x.moveDelay (64 * x.delay.whole) with
      delay := ({ x.delay with current := 64 * x.delay.whole } : DelayRec).beginJump } := by
  rw [Prog.glideJudged, if_neg (by rw [jumps]; exact Bool.false_ne_true), if_neg below.ne]

theorem Prog.raised_steady {x : Prog} (below : x.delay.whole < x.delay.funded) (steady : x.delay.change = .steady) :
    x.raised = { x with delay := x.delay.beginChange } := by
  rw [Prog.raised, steady]
  exact if_neg (by rw [DelayRec.not_arrived_of_below below]; exact Bool.false_ne_true)

theorem Prog.raised_gliding {x : Prog} (gliding : x.delay.change = .gliding) : x.raised = x.glideJudged := by
  rw [Prog.raised, gliding]

/-- A STEADY or GLIDING programme that may glide to a raised target does so from where it is. -/
theorem Prog.raised_glides {x : Prog} (below : x.delay.whole < x.delay.funded) (glides : x.delay.chooseGlide = true)
    (change : x.delay.change = .steady ∨ x.delay.change = .gliding) :
    x.raised.delay.change = .gliding ∧ x.raised.delay.current = x.delay.current := by
  rcases change with steady | gliding
  · rw [Prog.raised_steady below steady]
    dsimp only
    rw [DelayRec.beginChange, if_pos glides]
    exact ⟨rfl, rfl⟩
  · rw [Prog.raised_gliding gliding, Prog.glideJudged_on below glides]
    exact ⟨gliding, rfl⟩

/-- One that may not begins a jump, from its whole delay. -/
theorem Prog.raised_jumps {x : Prog} (below : x.delay.whole < x.delay.funded) (jumps : x.delay.chooseGlide = false)
    (change : x.delay.change = .steady ∧ x.delay.current = 64 * x.delay.whole ∨ x.delay.change = .gliding) :
    x.raised.delay.change = .fadeOut ∧ x.raised.delay.fadePos = 480 ∧ x.raised.delay.current = 64 * x.delay.whole := by
  rcases change with ⟨steady, settled⟩ | gliding
  · rw [Prog.raised_steady below steady]
    dsimp only
    rw [DelayRec.beginChange, if_neg (by rw [jumps]; exact Bool.false_ne_true)]
    exact ⟨rfl, rfl, settled⟩
  · rw [Prog.raised_gliding gliding, Prog.glideJudged_stopped below jumps]
    exact ⟨rfl, rfl, rfl⟩

theorem Prog.raised_fadeOut {x : Prog} (change : x.delay.change = .fadeOut) : x.raised = x := by
  rw [Prog.raised, change]

/-- A filling programme fills as many frames more as its target has been raised by. -/
theorem Prog.raised_filling {x : Prog} (change : x.delay.change = .filling) : x.raised = { x.moveDelay (64 * x.delay.funded) with
    delay := { x.delay with current := 64 * x.delay.funded, fill := x.delay.fill + (x.delay.funded - x.delay.whole) } } := by
  rw [Prog.raised, change]

theorem Prog.raised_fadeIn {x : Prog} (change : x.delay.change = .fadeIn) :
    x.raised = { x with delay := { x.delay with ahead := true } } := by
  rw [Prog.raised, change]

/-- A judgement is no matter of the delay memory, and toward a target above the delay none of the panel. -/
theorem ProgSide.judgeGlide_below {v : ProgSide} {p : ProgId} (below : (v.prog p).delay.whole < (v.prog p).delay.funded) :
    (v.judgeGlide p).dmc = v.dmc ∧ (v.judgeGlide p).panel = v.panel := by
  have stopped : (v.modProg p (Prog.moveDelay (64 * (v.prog p).delay.whole))).prog p = (v.prog p).moveDelay (64 * (v.prog p).delay.whole) :=
    v.modProg_prog_self p _
  have apart : ((v.prog p).moveDelay (64 * (v.prog p).delay.whole)).delay.arrived = false := by
    simpa [DelayRec.arrived, Prog.moveDelay] using below.ne
  unfold ProgSide.judgeGlide
  dsimp only
  split
  · rw [if_neg (by rw [DelayRec.not_arrived_of_below below]; exact Bool.false_ne_true)]
    exact ⟨rfl, rfl⟩
  · rw [stopped, if_neg (by rw [apart]; exact Bool.false_ne_true)]
    exact ⟨rfl, rfl⟩

theorem ProgSide.takeRaise_below {v : ProgSide} {p : ProgId} (below : (v.prog p).delay.whole < (v.prog p).delay.funded) :
    (v.takeRaise p).dmc = v.dmc ∧ (v.takeRaise p).panel = v.panel := by
  unfold ProgSide.takeRaise
  dsimp only
  split
  · split
    · exact ⟨rfl, rfl⟩
    · exact ⟨rfl, rfl⟩
  · exact ProgSide.judgeGlide_below below
  · exact ⟨rfl, rfl⟩
  · exact ⟨rfl, rfl⟩
  · exact ⟨rfl, rfl⟩

/-! ## A raise (R73, R76) -/

/-- A raise above the delay splices the rings and leaves the panel. -/
theorem ProgSide.raiseTo_below {v : ProgSide} {p : ProgId} {target : Nat} (below : (v.prog p).delay.whole < target) :
    (v.raiseTo p target).dmc = (v.dmc.resizeMembers (pagesFor target) (v.prog p).newest (v.prog p).members).1
      ∧ (v.raiseTo p target).panel = v.panel := by
  have record := ProgSide.resize_prog_self (v.modDelay p fun r => { r with funded := target }) p (pagesFor target)
  have ahead := ProgSide.takeRaise_below (v := (v.modDelay p fun r => { r with funded := target }).resize p (pagesFor target)) (p := p)
    (by rw [record, ProgSide.modDelay_prog_self]; exact below)
  rw [ProgSide.raiseTo]
  refine ⟨ahead.1.trans ?_, ahead.2⟩
  rw [ProgSide.resize_dmc, ProgSide.modDelay_prog_self]
  rfl

/-- What a member keeps when rings are brought to another length. -/
theorem Dmc.resizeMembers_map {α : Type} (f : Member → α) (same : ∀ m ring, f { m with ring := ring } = f m) (k : Nat) (newest : Int)
    (d : Dmc) (ms : List Member) : (d.resizeMembers k newest ms).2.map f = ms.map f := by
  have kept := congrArg (List.map f) (Dmc.resizeMembers_members d k newest ms)
  rw [List.map_map, List.map_map] at kept
  have drops : f ∘ (fun m : Member => { m with ring := none }) = f := funext fun m => same m none
  rwa [drops] at kept

/-! ## The turn of a RUNNING programme (R73, R76, R99) -/

/-- A RUNNING programme whose rings hold these pages is raised when more pages a channel could be had. -/
theorem ProgSide.serveWaiter_holds {v : ProgSide} {p : ProgId} {q : Nat} (running : (v.prog p).state = .running)
    (members : (v.prog p).members ≠ []) (holds : ∀ m ∈ (v.prog p).members, m.Holds q) : v.serveWaiter p =
      (let pages := pagesWithin ((v.prog p).members.length * q + v.dmc.free.length) (v.prog p).members.length
       if q + 1 ≤ pages then (v.raiseTo p (fundedBy pages (v.prog p).delay.requested)).leaveIfFull p else v) := by
  rw [ProgSide.serveWaiter_running running, Prog.pagesPerChannel_holds members holds]

/-- The pages of a raise: each ring of those for the target, from the free list's head. -/
theorem ProgSide.raiseTo_pages {v : ProgSide} {p : ProgId} {q target : Nat} (below : (v.prog p).delay.whole < target)
    (holds : ∀ m ∈ (v.prog p).members, m.Holds q) (more : q ≤ pagesFor target)
    (enough : (v.prog p).members.length * pagesFor target ≤ (v.prog p).members.length * q + v.dmc.free.length) :
    (∀ m ∈ ((v.raiseTo p target).prog p).members, m.Holds (pagesFor target))
      ∧ (v.raiseTo p target).dmc.free = v.dmc.free.drop ((v.prog p).members.length * (pagesFor target - q)) := by
  obtain ⟨dmc, -⟩ := v.raiseTo_below below
  obtain ⟨kept, -, -⟩ := (v.raisedRecord p target).raised_kept
  rw [← ProgSide.raiseTo_prog] at kept
  refine ⟨Member.holds_of_rings kept.rings ?_, by rw [dmc, Dmc.resizeMembers_grows more _ _ holds]⟩
  exact (Dmc.resizeMembers_holds _ (pagesFor_pos _) holds enough).1

/-- What a raise makes of each change (R99). -/
theorem ProgSide.raiseTo_delay {v : ProgSide} {p : ProgId} {target : Nat} (below : (v.prog p).delay.whole < target)
    (settled : (v.prog p).delay.change ≠ .gliding → (v.prog p).delay.current = 64 * (v.prog p).delay.whole) :
    let x := v.prog p
    let y := (v.raiseTo p target).prog p
    (x.delay.GlidesTo target = true → x.delay.change = .steady ∨ x.delay.change = .gliding →
        y.delay.change = .gliding ∧ y.delay.current = x.delay.current)
      ∧ (x.delay.GlidesTo target = false → x.delay.change = .steady ∨ x.delay.change = .gliding →
        y.delay.change = .fadeOut ∧ y.delay.fadePos = 480 ∧ y.delay.current = 64 * x.delay.whole)
      ∧ (x.delay.change = .fadeOut → y.delay = { x.delay with funded := target })
      ∧ (x.delay.change = .filling →
        y.delay = { x.delay with funded := target, current := 64 * target, fill := x.delay.fill + (target - x.delay.whole) }
          ∧ y.members.map (fun m => (m.spec, m.tap))
              = x.members.map fun m => (m.spec, m.tap + 64 * ((target : Int) - x.delay.whole)))
      ∧ (x.delay.change = .fadeIn → y.delay = { x.delay with funded := target, ahead := true }) := by
  dsimp only
  rw [v.raiseTo_prog p target]
  have chosen : (v.raisedRecord p target).delay.chooseGlide = (v.prog p).delay.GlidesTo target := DelayRec.chooseGlide_funded _ _
  refine ⟨fun near change => ?_, fun far change => ?_, fun fadeOut => ?_, fun filling => ?_, fun fadeIn => ?_⟩
  · exact Prog.raised_glides (x := v.raisedRecord p target) below (chosen.trans near) change
  · refine Prog.raised_jumps (x := v.raisedRecord p target) below (chosen.trans far) ?_
    exact change.imp_left fun steady : (v.prog p).delay.change = .steady => ⟨steady, settled (by rw [steady]; decide)⟩
  · rw [Prog.raised_fadeOut (x := v.raisedRecord p target) fadeOut]
    rfl
  · rw [Prog.raised_filling (x := v.raisedRecord p target) filling]
    refine ⟨rfl, ?_⟩
    have current := settled (by rw [filling]; decide)
    have moved : (((64 * target : Nat) : Int) - (v.prog p).delay.current) = 64 * ((target : Int) - (v.prog p).delay.whole) := by
      rw [current]; push_cast; ring
    show ((v.dmc.resizeMembers (pagesFor target) (v.prog p).newest (v.prog p).members).2.map _).map _ = _
    rw [List.map_map]
    refine (Dmc.resizeMembers_map _ (fun _ _ => rfl) _ _ _ _).trans (List.map_congr_left fun m _ => ?_)
    exact congrArg (fun d => (m.spec, m.tap + d)) moved
  · rw [Prog.raised_fadeIn (x := v.raisedRecord p target) fadeIn]
    rfl

/-- A turn raises, and the programme leaves the list when it is then funded in full. -/
theorem ProgSide.raiseTo_leaves {v : ProgSide} {p : ProgId} {target : Nat} (on : p ∈ v.dmc.wait)
    (below : (v.prog p).delay.whole < target) :
    let w := (v.raiseTo p target).leaveIfFull p
    (target = (v.prog p).delay.requested → w.dmc.wait = v.dmc.wait.filter (fun e => !(e == p))
        ∧ w.panel.wch.isRaised (.delayDeficit p) = false)
      ∧ (target ≠ (v.prog p).delay.requested → w.dmc.wait = v.dmc.wait ∧ w.panel.wch = v.panel.wch) := by
  obtain ⟨-, funded, requested⟩ := (v.raisedRecord p target).raised_kept
  rw [← ProgSide.raiseTo_prog] at funded requested
  have wait := (ProgSide.Recast.raiseTo (p := p) v target).wait
  refine ⟨fun full => ?_, fun partly => ?_⟩
  · rw [← wait] at on ⊢
    exact ProgSide.leaveIfFull_full on (funded.trans (full.trans requested.symm))
  · have apart : ((v.raiseTo p target).prog p).delay.funded ≠ ((v.raiseTo p target).prog p).delay.requested := by
      rw [funded, requested]; exact partly
    rw [ProgSide.leaveIfFull_below apart, wait, (v.raiseTo_below below).2]
    exact ⟨rfl, rfl⟩

/-! ## The turn of a WAITING programme (R74, R76, R84) -/

/-- The rings that a programme starts with: the free list's first pages, member by member, each ring at its beginning. -/
theorem ProgSide.startProg_rings {v : ProgSide} {p : ProgId} {delay : Nat}
    (enough : (v.prog p).members.length * pagesFor delay ≤ v.dmc.free.length) :
    (((v.startProg p delay).prog p).members.map fun m => (m.ring.map Ring.chain).getD []).flatten
        = v.dmc.free.take ((v.prog p).members.length * pagesFor delay)
      ∧ ∀ m ∈ ((v.startProg p delay).prog p).members, ∃ ring, m.ring = some ring ∧ ring.rest.length + 1 = pagesFor delay
          ∧ ring.writeOffset = 0 ∧ ring.historyStart = 0 := by
  obtain ⟨starts, taken⟩ := Dmc.createRings_rings (pagesFor_pos delay) enough
  rw [v.startProg_prog_self p delay]
  dsimp only
  refine ⟨?_, fun m hm => ?_⟩
  · rw [List.map_map, ← taken, List.flatMap_def]
    rfl
  · obtain ⟨n, hn, rfl⟩ := List.mem_map.1 hm
    obtain ⟨pages, length, ring, eq, chain, offset, history⟩ := starts n hn
    exact ⟨ring, eq, by rw [← length, ← chain]; rfl, offset, history⟩

/-- A programme starts with every tap at the delay less its lane's latency. -/
theorem ProgSide.startProg_taps (v : ProgSide) (p : ProgId) (delay : Nat) :
    ((v.startProg p delay).prog p).members.map (fun m => (m.spec, m.tap))
      = (v.prog p).members.map fun m => (m.spec, 64 * ((delay : Int) - (v.latencies[m.spec.lane] : Nat))) := by
  rw [v.startProg_prog_self p delay]
  have specs := congrArg (List.map fun o => (o.1, 64 * ((delay : Int) - (v.latencies[o.1.lane] : Nat))))
    (ProgSide.OutsKept.createRings (pagesFor delay) v.dmc (v.prog p).members)
  rw [List.map_map, List.map_map] at specs
  dsimp only
  rw [List.map_map]
  refine Eq.trans (List.map_congr_left fun m _ => ?_) specs
  simp only [Function.comp, Member.clearMeter]
  push_cast
  rw [mul_sub]

theorem ProgSide.startProg_dmc (v : ProgSide) (p : ProgId) (delay : Nat) :
    (v.startProg p delay).dmc = { v.dmc with free := v.dmc.free.drop ((v.prog p).members.length * pagesFor delay) } :=
  Dmc.createRings_free _ _ _

/-- A programme started leaves the list when it is then funded in full. -/
theorem ProgSide.startProg_leaves {v : ProgSide} {p : ProgId} {target : Nat} (on : p ∈ v.dmc.wait) :
    let w := (v.startProg p target).leaveIfFull p
    (target = (v.prog p).delay.requested → w.dmc.wait = v.dmc.wait.filter (fun e => !(e == p))
        ∧ w.panel.wch.isRaised (.delayDeficit p) = false)
      ∧ (target ≠ (v.prog p).delay.requested → w.dmc.wait = v.dmc.wait ∧ w.panel.wch = v.panel.wch) := by
  have delay := congrArg Prog.delay (v.startProg_prog_self p target)
  have wait : (v.startProg p target).dmc.wait = v.dmc.wait := by rw [v.startProg_dmc p target]
  refine ⟨fun full => ?_, fun partly => ?_⟩
  · rw [← wait] at on ⊢
    exact ProgSide.leaveIfFull_full on (by rw [delay]; exact full)
  · rw [ProgSide.leaveIfFull_below (by rw [delay]; exact partly), wait]
    exact ⟨rfl, rfl⟩

/-! ## A new programme not funded in full (R74, R79) -/

/-- A programme off the list joins it at its end, its DELAY_DEFICIT raised. -/
theorem ProgSide.joinWait_fields {v : ProgSide} {p : ProgId} (off : p ∉ v.dmc.wait) :
    (v.joinWait p).dmc = { v.dmc with wait := v.dmc.wait ++ [p] } ∧ (v.joinWait p).panel = v.panel.raise (.delayDeficit p) := by
  rw [ProgSide.joinWait, if_neg off]
  exact ⟨rfl, rfl⟩

/-- A request that the free pages do not fund is funded to just the pages that they give. -/
theorem pagesFor_fundedBy_of_short {free n request : Nat} (some_ : 1 ≤ pagesWithin free n) (short : free < n * pagesFor request) :
    pagesFor (fundedBy (pagesWithin free n) request) = pagesWithin free n := by
  have least : pagesWithin free n ≤ request / 1024 := by
    refine (min_le_right _ _).trans (Nat.lt_succ_iff.1 ?_)
    exact Nat.div_lt_of_lt_mul short
  rw [fundedBy_eq, pagesFor]
  omega

/-! ## The turns put together -/

/-- Settles O36: each turn of the service, by the programme's state, is a raise or a start, the list left when it is then funded in full;
and a new programme that the free pages do not fund starts on what they give, or waits, and joins the list. -/
theorem pageServiceRaisesAndStartsOldestFirst : Obligations.PageServiceRaisesAndStartsOldestFirst := by
  unfold Obligations.PageServiceRaisesAndStartsOldestFirst
  refine ⟨fun _ => rfl, ?_, ?_, ?_⟩
  · intro v p q d x n most target w running on holds members whole reached below needed settled
    have turn : w = if q + 1 ≤ most then (v.raiseTo p target).leaveIfFull p else v :=
      ProgSide.serveWaiter_holds running members holds
    refine ⟨fun few => turn.trans (if_neg (by omega)), fun more => ?_⟩
    rw [if_pos (show q + 1 ≤ most from more)] at turn
    intro r near
    have raise : x.delay.funded < target := lt_fundedBy (by rw [pagesFor, ← needed]; exact more) below
    have enough : n * pagesFor target ≤ n * q + v.dmc.free.length := mul_pagesFor_fundedBy_le _ (show 1 ≤ most by omega)
    have least : q ≤ pagesFor target := needed.trans_le (pagesFor_mono raise.le)
    have ahead : x.delay.whole < target := whole.trans_lt (reached.trans_lt raise)
    have still : x.delay.change ≠ .gliding → x.delay.current = 64 * x.delay.whole := fun other => (settled other).trans (by
      rw [DelayRec.whole, whole])
    obtain ⟨-, funded, requested⟩ := (v.raisedRecord p target).raised_kept
    rw [← ProgSide.raiseTo_prog] at funded requested
    obtain ⟨rings, free⟩ := ProgSide.raiseTo_pages ahead holds least enough
    obtain ⟨glides, jumps, fadeOut, filling, fadeIn⟩ := ProgSide.raiseTo_delay ahead still
    obtain ⟨full, partly⟩ := ProgSide.raiseTo_leaves on ahead
    have record (e : ProgId) : w.prog e = (v.raiseTo p target).prog e := by rw [turn, ProgSide.leaveIfFull_prog]
    have mine : r = ((v.raiseTo p target).prog p).delay := congrArg Prog.delay (record p)
    rw [show x.delay.whole = d from whole] at jumps filling
    rw [record, mine, turn, ProgSide.leaveIfFull_free]
    exact ⟨funded, requested, raise, rings, free, full, partly,
      fun e other => (ProgSide.leaveIfFull_prog _ p e).trans ((ProgSide.Recast.raiseTo v target).others e other),
      glides, jumps, fadeOut, filling, fadeIn⟩
  · intro v p x n most target w waiting on members
    have turn : w = if 1 ≤ most then (v.startProg p target).leaveIfFull p else v := ProgSide.serveWaiter_waiting waiting
    refine ⟨fun none => turn.trans (if_neg (by omega)), fun some_ => ?_⟩
    rw [if_pos some_] at turn
    have record (e : ProgId) : w.prog e = (v.startProg p target).prog e := by rw [turn, ProgSide.leaveIfFull_prog]
    have started := v.startProg_prog_self p target
    obtain ⟨chains, rings⟩ := ProgSide.startProg_rings (v := v) (p := p) (delay := target) (mul_pagesFor_fundedBy_le _ some_)
    obtain ⟨full, partly⟩ := ProgSide.startProg_leaves (v := v) (p := p) (target := target) on
    rw [record, turn, ProgSide.leaveIfFull_free, v.startProg_dmc p target]
    exact ⟨by rw [started], by rw [started], by rw [started], v.startProg_taps p target, chains, rings, rfl, by rw [started]; rfl, full,
      partly, fun e other => (ProgSide.leaveIfFull_prog _ p e).trans ((ProgSide.Recast.startProg v target).others e other)⟩
  · intro v p x n most w members off short
    have turn : w = if 1 ≤ most then (v.startProg p (fundedBy most x.delay.requested)).joinWait p
        else (v.modProg p fun x => { x with state := .waiting }).joinWait p := if_neg (Nat.not_le.2 short)
    by_cases some_ : 1 ≤ most
    · rw [if_pos some_] at turn
      have dmc := v.startProg_dmc p (fundedBy most x.delay.requested)
      have started := v.startProg_prog_self p (fundedBy most x.delay.requested)
      obtain ⟨joined, alarm⟩ := ProgSide.joinWait_fields (v := v.startProg p (fundedBy most x.delay.requested)) (p := p) (by
        rw [dmc]; exact off)
      rw [turn, joined, alarm, ProgSide.joinWait_prog, started, dmc]
      refine ⟨rfl, Panel.raise_isRaised _ _, fun none => absurd none (by omega), fun _ => ⟨rfl, rfl, ?_, rfl, rfl⟩⟩
      exact congrArg (fun k => v.dmc.free.drop (n * k)) (pagesFor_fundedBy_of_short some_ short)
    · rw [if_neg some_] at turn
      obtain ⟨joined, alarm⟩ := ProgSide.joinWait_fields (v := v.modProg p fun x => { x with state := .waiting }) (p := p) off
      rw [turn, joined, alarm, ProgSide.joinWait_prog, ProgSide.modProg_prog_self]
      exact ⟨rfl, Panel.raise_isRaised _ _, fun _ => ⟨rfl, rfl, rfl⟩, fun more => absurd more some_⟩

end Sys2Proof.Machine

/-! A requested delay acted on (R72, R73, R76, R87, R94, R101): what the funding makes of the list, the panel and the free pages, and
how the programme then goes on toward its target. -/
namespace Sys2Proof.Machine

/-! ## The panel's clock -/

theorem Panel.Report.now {v w : Panel} (h : v.Report w) : w.now = v.now := by
  cases h with
  | offer n => exact (v.offer_kept n).now
  | raise id => exact (v.raise_kept id).now
  | clear id => exact (v.clear_kept id).now
  | acknowledge id => exact (v.acknowledge_kept id).now
  | observe o vs => exact v.observe_now o vs
  | restartWatch id r => exact (v.clear_kept (.watch id)).now

theorem Panel.Reports.now {v w : Panel} (h : v.Reports w) : w.now = v.now := by
  induction h with
  | refl => rfl
  | tail _ last ih => exact last.now.trans ih

/-! ## A funding with no other programme waiting (R72, R73, R80) -/

section
variable {v : ProgSide} {p : ProgId} {request : Nat}

/-- The wait list and its alarm after a request funded in full, no other programme waiting. -/
theorem ProgSide.fund_full_alone (full : v.Funds p request) (alone : ∀ q ∈ v.dmc.wait, q = p) : (v.fund p request).dmc.wait = []
    ∧ (v.fund p request).panel = if p ∈ v.dmc.wait then v.panel.clear (.delayDeficit p) else v.panel := by
  obtain ⟨left, alarm⟩ := (v.funded p request).leaveWait_fields p
  have wait := (ProgSide.Recast.funded (p := p) v request).wait
  rw [ProgSide.fund_full full]
  refine ⟨?_, by rw [alarm, wait]; rfl⟩
  rw [left]
  refine List.filter_eq_nil_iff.2 fun q hq => ?_
  rw [wait] at hq
  simp [alone q hq]

/-- The wait list and its alarm after a request funded in part, no other programme waiting. -/
theorem ProgSide.fund_partial_alone (short : ¬v.Funds p request) (once : v.dmc.wait.Nodup) (alone : ∀ q ∈ v.dmc.wait, q = p) :
    (v.fund p request).dmc.wait = [p]
      ∧ (v.fund p request).panel = if p ∈ v.dmc.wait then v.panel else v.panel.raise (.delayDeficit p) := by
  have wait := (ProgSide.Recast.funded (p := p) v request).wait
  rw [ProgSide.fund_partial short]
  by_cases on : p ∈ v.dmc.wait
  · rw [if_pos on, ProgSide.joinWait, if_pos (by rw [wait]; exact on), wait]
    refine ⟨?_, rfl⟩
    exact List.perm_singleton.1 ((List.perm_ext_iff_of_nodup once (List.nodup_singleton p)).2 fun q =>
      ⟨fun hq => List.mem_singleton.2 (alone q hq), fun hq => List.mem_singleton.1 hq ▸ on⟩)
  · obtain ⟨joined, alarm⟩ := ProgSide.joinWait_fields (v := v.funded p request) (p := p) (by rw [wait]; exact on)
    have none : v.dmc.wait = [] := List.eq_nil_iff_forall_not_mem.2 fun q hq => on (alone q hq ▸ hq)
    rw [if_neg on, joined, alarm, wait, none]
    exact ⟨rfl, rfl⟩

theorem ProgSide.funded_dmc (p : ProgId) (request : Nat) (v : ProgSide) : (v.funded p request).dmc = (v.dmc.resizeMembers
    (pagesFor (max (v.prog p).delay.whole (v.fundTarget p request))) (v.prog p).newest (v.prog p).members).1 := by
  rw [ProgSide.funded, ProgSide.resize_dmc, ProgSide.modDelay_prog_self]
  rfl

theorem ProgSide.fund_free (v : ProgSide) (p : ProgId) (request : Nat) : (v.fund p request).dmc.free = (v.funded p request).dmc.free := by
  by_cases full : v.Funds p request
  · rw [ProgSide.fund_full full, ((v.funded p request).leaveWait_fields p).1]
  · rw [ProgSide.fund_partial full, ProgSide.joinWait]
    split <;> rfl

theorem ProgSide.fund_others (v : ProgSide) {p q : ProgId} (request : Nat) (other : q ≠ p) : (v.fund p request).prog q = v.prog q := by
  rw [← (ProgSide.Recast.funded v request).others q other]
  by_cases full : v.Funds p request
  · rw [ProgSide.fund_full full, ProgSide.leaveWait_prog]
  · rw [ProgSide.fund_partial full, ProgSide.joinWait_prog]

/-- With no other programme waiting no service follows a funding. -/
theorem ProgSide.serveAfter_alone (h : v.Lawful) (running : (v.prog p).state = .running) (bounds : 48 ≤ request ∧ request ≤ 96000)
    (alone : ∀ q ∈ v.dmc.wait, q = p) : (v.fund p request).serveAfter p (v.prog p).pagesPerChannel = v.fund p request := by
  by_cases full : v.Funds p request
  · rw [ProgSide.serveAfter, ProgSide.serve_none (ProgSide.fund_full_alone full alone).1, ite_self]
  · exact ProgSide.serveAfter_partial h running bounds full

theorem ProgSide.reach_eq {k : Nat} (holds : ∀ m ∈ (v.prog p).members, m.Holds k) :
    v.reach p = (v.prog p).members.length * k + v.dmc.free.length := by
  unfold ProgSide.reach
  by_cases none : (v.prog p).members = []
  · simp [none]
  · rw [Prog.pagesPerChannel_holds none holds]

/-- The pages of a funding: what the rings do not hold then is free. -/
theorem ProgSide.fund_pages (h : v.Lawful) (running : (v.prog p).state = .running) (bounds : 48 ≤ request ∧ request ≤ 96000) :
    (v.fund p request).dmc.free.length
      + (v.prog p).members.length * pagesFor (max (v.prog p).delay.whole (v.fundTarget p request)) = v.reach p := by
  obtain ⟨-, rings⟩ := (h.prog p).whenRunning running
  obtain ⟨-, -, -, -, fits⟩ := ProgSide.fundTarget_spec bounds rings.holds
  rw [ProgSide.fund_free, ProgSide.funded_dmc, ProgSide.reach_eq rings.holds, Nat.add_comm _ v.dmc.free.length]
  exact (Dmc.resizeMembers_holds _ (pagesFor_pos _) rings.holds fits).2

/-- A request funded as one event, no other programme waiting: that event is the funding, and the pool is then observed. -/
theorem ProgSide.fundEvent_alone (h : v.Lawful) (running : (v.prog p).state = .running) (bounds : 48 ≤ request ∧ request ≤ 96000)
    (alone : ∀ q ∈ v.dmc.wait, q = p) : (v.fundEvent p request).dmc = (v.fund p request).dmc
      ∧ (∀ q, (v.fundEvent p request).prog q = (v.fund p request).prog q)
      ∧ (v.fundEvent p request).panel = (if (v.fundEvent p request).dmc.free.length = v.dmc.free.length then (v.fund p request).panel
          else (v.fund p request).panel.observe .pool (freePages (v.fundEvent p request).dmc.free.length)) := by
  have same := ProgSide.serveAfter_alone h running bounds alone
  have dmc : (v.fundEvent p request).dmc = (v.fund p request).dmc := by rw [ProgSide.fundEvent, ProgSide.event_dmc, same]
  refine ⟨dmc, fun q => ?_, ?_⟩
  · rw [ProgSide.fundEvent, ProgSide.event_prog, same]
  · rw [dmc, ProgSide.fundEvent, ProgSide.event_panel, same]

end

/-! ## Toward the target (R87, R92, R94, R101) -/

/-- The delay from which a programme goes on toward its target: a glide that may not go on is stopped at its whole part. -/
def DelayRec.stopped (r : DelayRec) : Nat := if r.change = .gliding ∧ r.chooseGlide = false then 64 * r.whole else r.current

/-- A delay that goes on toward its target. -/
def DelayRec.pursued (r : DelayRec) : DelayRec :=
  if r.stopped = 64 * r.funded then { r with current := r.stopped, change := .steady }
  else if r.chooseGlide = true then
    { r with current := r.stopped, change := .gliding, kind := if r.change = .gliding then r.kind else .glide }
  else { r with current := r.stopped, change := .fadeOut, kind := .jump, fadePos := 480 }

/-- The record of a programme whose delay goes on toward its target, every tap with it. -/
def Prog.pursued (x : Prog) : Prog :=
  { x with
    members := x.members.map fun m => { m with tap := m.tap + ((x.delay.stopped : Int) - x.delay.current) }
    delay := x.delay.pursued }

/-- The DONE notice of a delay that is then the target. -/
def ProgSide.pursuedPanel (p : ProgId) (v : ProgSide) : Panel :=
  let r := (v.prog p).delay
  if r.stopped = 64 * r.funded then
    v.panel.offer (.doneDelay p r.funded r.requested r.funded (r.requested - r.funded)
      (if r.change = .gliding then .glide else .none) v.panel.now)
  else v.panel

/-- STEADY or GLIDING, a programme goes on toward the target just funded. -/
def ProgSide.pursue (p : ProgId) (v : ProgSide) : ProgSide :=
  if (v.prog p).delay.change = .gliding then v.judgeGlide p
  else if (v.prog p).delay.arrived = true then v.noticeDone p .none
  else v.modDelay p DelayRec.beginChange

/-! ## What going on does -/

theorem DelayRec.arrived_iff {r : DelayRec} : r.arrived = true ↔ r.current = 64 * r.funded := by simp [DelayRec.arrived]

theorem Prog.moveDelay_current (x : Prog) : x.moveDelay x.delay.current = x := by
  simp [Prog.moveDelay]

theorem DelayRec.stopped_steady {r : DelayRec} (steady : r.change = .steady) : r.stopped = r.current := by
  simp [DelayRec.stopped, steady]

theorem DelayRec.stopped_glides {r : DelayRec} (glides : r.chooseGlide = true) : r.stopped = r.current := by
  simp [DelayRec.stopped, glides]

theorem DelayRec.stopped_jumps {r : DelayRec} (gliding : r.change = .gliding) (jumps : r.chooseGlide = false) :
    r.stopped = 64 * r.whole := if_pos ⟨gliding, jumps⟩

/-- A record whose delay goes on is the record with the delay moved to where it stops. -/
theorem Prog.pursued_eq (x : Prog) : x.pursued = { x.moveDelay x.delay.stopped with delay := x.delay.pursued } := rfl

theorem Prog.pursued_stays {x : Prog} (stays : x.delay.stopped = x.delay.current) : x.pursued = { x with delay := x.delay.pursued } := by
  rw [Prog.pursued_eq, stays, Prog.moveDelay_current]

/-- A glide judged goes on toward its target. -/
theorem Prog.glideJudged_pursued {x : Prog} (gliding : x.delay.change = .gliding) : x.glideJudged = x.pursued := by
  unfold Prog.glideJudged
  split
  · next glides =>
    have stays := DelayRec.stopped_glides glides
    rw [Prog.pursued_stays stays, DelayRec.pursued, stays]
    split
    · next arrived => rw [if_pos (DelayRec.arrived_iff.1 arrived)]
    · next apart =>
      rw [if_neg (mt DelayRec.arrived_iff.2 apart), ← gliding]
  · next far =>
    have stops := DelayRec.stopped_jumps gliding (by simpa using far)
    have there : 64 * x.delay.whole = 64 * x.delay.funded ↔ x.delay.whole = x.delay.funded := by omega
    rw [Prog.pursued_eq, DelayRec.pursued, stops]
    simp only [there, if_neg far]
    split
    · rfl
    · rfl

theorem ProgSide.pursue_prog {v : ProgSide} {p : ProgId}
    (change : (v.prog p).delay.change = .steady ∨ (v.prog p).delay.change = .gliding) : (v.pursue p).prog p = (v.prog p).pursued := by
  unfold ProgSide.pursue
  rcases change with steady | gliding
  · have stays := DelayRec.stopped_steady steady
    rw [if_neg (by rw [steady]; decide), Prog.pursued_stays stays, DelayRec.pursued, stays]
    split
    · next arrived =>
      rw [if_pos (DelayRec.arrived_iff.1 arrived), ← steady]
      rfl
    · next apart =>
      rw [if_neg (mt DelayRec.arrived_iff.2 apart), ProgSide.modDelay_prog_self, DelayRec.beginChange]
      split
      · rw [if_neg (by rw [steady]; decide)]
      · rfl
  · rw [if_pos gliding, ProgSide.judgeGlide_prog, Prog.glideJudged_pursued gliding]

theorem ProgSide.noticeDone_panel {v : ProgSide} {p : ProgId} {kind : DoneKind} {target : Nat} (whole : (v.prog p).delay.whole = target)
    (funded : (v.prog p).delay.funded = target) : (v.noticeDone p kind).panel = v.panel.offer
      (.doneDelay p target (v.prog p).delay.requested target ((v.prog p).delay.requested - target) kind v.panel.now) := by
  rw [ProgSide.noticeDone, whole, funded]
  rfl

theorem ProgSide.completeGlide_panel {v : ProgSide} {p : ProgId} {target : Nat} (whole : (v.prog p).delay.whole = target)
    (funded : (v.prog p).delay.funded = target) : (v.completeGlide p).panel = v.panel.offer
      (.doneDelay p target (v.prog p).delay.requested target ((v.prog p).delay.requested - target) .glide v.panel.now) := by
  have record := v.modDelay_prog_self p fun r => { r with change := .steady }
  rw [ProgSide.completeGlide, ProgSide.noticeDone_panel (target := target) (by rw [record]; exact whole) (by rw [record]; exact funded),
    record]
  rfl

theorem ProgSide.pursue_panel {v : ProgSide} {p : ProgId}
    (change : (v.prog p).delay.change = .steady ∨ (v.prog p).delay.change = .gliding) : (v.pursue p).panel = v.pursuedPanel p := by
  have whole {d : Nat} (there : (v.prog p).delay.current = 64 * d) : (v.prog p).delay.whole = d := by
    rw [DelayRec.whole, there, Nat.mul_div_cancel_left _ (by decide)]
  unfold ProgSide.pursue ProgSide.pursuedPanel
  dsimp only
  rcases change with steady | gliding
  · have notGliding : (v.prog p).delay.change ≠ .gliding := by rw [steady]; decide
    rw [if_neg notGliding, if_neg notGliding, DelayRec.stopped_steady steady]
    split
    · next arrived =>
      have there := DelayRec.arrived_iff.1 arrived
      rw [if_pos there, ProgSide.noticeDone_panel (whole there) rfl]
    · next apart => rw [if_neg (mt DelayRec.arrived_iff.2 apart)]; rfl
  · rw [if_pos gliding, if_pos gliding, ProgSide.judgeGlide]
    dsimp only
    split
    · next glides =>
      rw [DelayRec.stopped_glides glides]
      split
      · next arrived =>
        have there := DelayRec.arrived_iff.1 arrived
        rw [if_pos there, ProgSide.completeGlide_panel (whole there) rfl]
      · next apart => rw [if_neg (mt DelayRec.arrived_iff.2 apart)]
    · next far =>
      have stopped : (v.modProg p (Prog.moveDelay (64 * (v.prog p).delay.whole))).prog p
          = (v.prog p).moveDelay (64 * (v.prog p).delay.whole) := v.modProg_prog_self p _
      rw [DelayRec.stopped_jumps gliding (by simpa using far)]
      split
      · next arrived =>
        have there : 64 * (v.prog p).delay.whole = 64 * (v.prog p).delay.funded := by
          rw [stopped] at arrived
          exact DelayRec.arrived_iff.1 arrived
        rw [if_pos there, ProgSide.completeGlide_panel (target := (v.prog p).delay.funded) ?_ (by rw [stopped]; rfl), stopped]
        · rfl
        · rw [stopped, DelayRec.whole]
          show 64 * (v.prog p).delay.whole / 64 = _
          omega
      · next apart =>
        have away : 64 * (v.prog p).delay.whole ≠ 64 * (v.prog p).delay.funded := fun there => apart (by
          rw [stopped]
          exact DelayRec.arrived_iff.2 there)
        rw [if_neg away]
        rfl

theorem ProgSide.pursue_recast (v : ProgSide) (p : ProgId) : Recast p v (v.pursue p) := by
  unfold ProgSide.pursue
  split
  · exact .judgeGlide v
  · split
    · exact .noticeDone v p _
    · exact .modDelay v _

theorem ProgSide.pursue_dmc (v : ProgSide) (p : ProgId) : (v.pursue p).dmc = v.dmc := by
  unfold ProgSide.pursue ProgSide.judgeGlide
  dsimp only
  split_ifs <;> rfl

/-! ## A request acted on (R86, R87, R94) -/

/-- With rings of the right length there is no page to be given up. -/
theorem ProgSide.holdingFell_idle {v : ProgSide} (h : v.Lawful) {p : ProgId} (live : (v.prog p).state.live = true) :
    v.holdingFell p = v := by
  obtain ⟨-, rings⟩ := (h.prog p).whenLive live
  refine if_neg ?_
  by_cases none : (v.prog p).members = []
  · simp [Prog.pagesPerChannel, none]
  · rw [Prog.pagesPerChannel_holds none rings.holds]
    exact lt_irrefl _

section
variable {v : ProgSide} {p : ProgId} {request : Nat}

theorem ProgSide.actSteady_eq (h : v.Lawful) (running : (v.prog p).state = .running) (steady : (v.prog p).delay.change = .steady)
    (bounds : 48 ≤ request ∧ request ≤ 96000) : v.actSteady p request = (v.fundEvent p request).pursue p := by
  have change : ((v.fundEvent p request).prog p).delay.change = .steady := by rw [(h.fundEvent running bounds).2.1]; exact steady
  exact (if_neg (by rw [change]; decide)).symm

theorem ProgSide.actGliding_eq (h : v.Lawful) (running : (v.prog p).state = .running) (gliding : (v.prog p).delay.change = .gliding)
    (bounds : 48 ≤ request ∧ request ≤ 96000) : v.actGliding p request = (v.fundEvent p request).pursue p := by
  obtain ⟨lawful, record, -⟩ := h.fundEvent running bounds
  have state : ((v.fundEvent p request).prog p).state = .running := by rw [record]; exact running
  have change : ((v.fundEvent p request).prog p).delay.change = .gliding := by rw [record]; exact gliding
  have moved := Prog.glideJudged_moved ((lawful.prog p).whenRunning state).1.toHeld change
  rw [← ProgSide.judgeGlide_prog] at moved
  have judged := lawful.moved (.judgeGlide _) state moved
  rw [ProgSide.actGliding, ProgSide.holdingFell_idle judged ((ProgState.live_iff _).2 (.inl (moved.state.trans state))), ProgSide.pursue,
    if_pos change]

/-- The record after a request acted on. -/
theorem ProgSide.pursue_record (h : v.Lawful) (running : (v.prog p).state = .running)
    (change : (v.prog p).delay.change = .steady ∨ (v.prog p).delay.change = .gliding) (bounds : 48 ≤ request ∧ request ≤ 96000) :
    ((v.fundEvent p request).pursue p).prog p = (v.fundedRecord p request).pursued := by
  obtain ⟨-, record, -⟩ := h.fundEvent running bounds
  rw [ProgSide.pursue_prog (by rw [record]; exact change), record]

/-- Each ring holds the pages of the larger of the delay before and the target. -/
theorem ProgSide.fundedRecord_rings (h : v.Lawful) (running : (v.prog p).state = .running) (bounds : 48 ≤ request ∧ request ≤ 96000) :
    ∀ m ∈ (v.fundedRecord p request).pursued.members, m.Holds (pagesFor (max (v.prog p).delay.whole (v.fundTarget p request))) := by
  obtain ⟨-, rings⟩ := (h.prog p).whenRunning running
  obtain ⟨-, -, -, -, fits⟩ := ProgSide.fundTarget_spec bounds rings.holds
  refine Member.holds_of_rings ?_ (Dmc.resizeMembers_holds (v.prog p).newest (pagesFor_pos _) rings.holds fits).1
  exact ((v.fundedRecord p request).moveDelay_ringsKept _).rings

/-- The panel before the DONE notice, no other programme waiting. -/
theorem ProgSide.fundEvent_panel (h : v.Lawful) (running : (v.prog p).state = .running) (bounds : 48 ≤ request ∧ request ≤ 96000)
    (alone : ∀ q ∈ v.dmc.wait, q = p) {alarm : Panel} (alarm_eq : (v.fund p request).panel = alarm) :
    (v.fundEvent p request).panel = (if (v.fundEvent p request).dmc.free.length = v.dmc.free.length then alarm
      else alarm.observe .pool fun | .freePages => some ((v.fundEvent p request).dmc.free.length : Int) | _ => none) := by
  rw [← alarm_eq]
  exact (ProgSide.fundEvent_alone h running bounds alone).2.2

/-- The list, the free pages and the other programmes after a funding, no other programme waiting. -/
theorem ProgSide.fundEvent_list (h : v.Lawful) (running : (v.prog p).state = .running) (bounds : 48 ≤ request ∧ request ≤ 96000)
    (alone : ∀ q ∈ v.dmc.wait, q = p) :
    (v.fundEvent p request).dmc.wait = (if (v.prog p).members.length * pagesFor (max (v.prog p).delay.whole request) ≤ v.reach p then []
        else [p])
      ∧ (v.fundEvent p request).dmc.free.length
          + (v.prog p).members.length * pagesFor (max (v.prog p).delay.whole (v.fundTarget p request)) = v.reach p
      ∧ ∀ q, q ≠ p → (v.fundEvent p request).prog q = v.prog q := by
  obtain ⟨dmc, progs, -⟩ := ProgSide.fundEvent_alone h running bounds alone
  rw [dmc]
  refine ⟨?_, ProgSide.fund_pages h running bounds, fun q other => (progs q).trans (v.fund_others request other)⟩
  split
  · next full => exact (ProgSide.fund_full_alone full alone).1
  · next short => exact (ProgSide.fund_partial_alone short h.once alone).1

/-- The alarm of the list after a funding, no other programme waiting. -/
theorem ProgSide.fund_alarm (h : v.Lawful) (alone : ∀ q ∈ v.dmc.wait, q = p) : (v.fund p request).panel =
    if (v.prog p).members.length * pagesFor (max (v.prog p).delay.whole request) ≤ v.reach p then
      if p ∈ v.dmc.wait then v.panel.clear (.delayDeficit p) else v.panel
    else if p ∈ v.dmc.wait then v.panel else v.panel.raise (.delayDeficit p) := by
  split
  · next full => exact (ProgSide.fund_full_alone full alone).2
  · next short => exact (ProgSide.fund_partial_alone short h.once alone).2

/-- The members after a request acted on, but for their rings. -/
theorem ProgSide.fundedRecord_members (p : ProgId) (request : Nat) (v : ProgSide) :
    (v.fundedRecord p request).pursued.members.map (fun m => { m with ring := none }) = (v.prog p).members.map fun m => { m with
      tap := m.tap + (((v.fundedRecord p request).delay.stopped : Int) - (v.prog p).delay.current), ring := none } := by
  rw [Prog.pursued, List.map_map]
  exact Dmc.resizeMembers_map _ (fun _ _ => rfl) _ _ _ _

/-- A request funded as one event of the delay memory, and the programme gone on toward its target: that is to act on it. -/
theorem ProgSide.actedOn {s u : State} (h : v.Lawful) (running : (v.prog p).state = .running)
    (change : (v.prog p).delay.change = .steady ∨ (v.prog p).delay.change = .gliding) (bounds : 48 ≤ request ∧ request ≤ 96000)
    (before : ∀ q, q ≠ p → v.prog q = s.prog q) (memory : v.dmc = s.dmc) (now : v.panel.now = s.refu.clock)
    (after : u = { s with
      progs := ((v.fundEvent p request).pursue p).progs, dmc := ((v.fundEvent p request).pursue p).dmc
      wch := ((v.fundEvent p request).pursue p).panel.wch, lnk := ((v.fundEvent p request).pursue p).panel.lnk }) :
    ActedOn s v.panel u p (v.prog p) request := by
  obtain ⟨lawful, record, listed⟩ := h.fundEvent running bounds
  have prog (q : ProgId) : u.prog q = ((v.fundEvent p request).pursue p).prog q := by rw [after]; rfl
  have mine : u.prog p = (v.fundedRecord p request).pursued := (prog p).trans (ProgSide.pursue_record h running change bounds)
  have dmc : u.dmc = (v.fundEvent p request).dmc := by rw [after]; exact ProgSide.pursue_dmc _ _
  have panel : ((v.fundEvent p request).pursue p).panel = (v.fundEvent p request).pursuedPanel p :=
    ProgSide.pursue_panel (by rw [record]; exact change)
  have wch : u.wch = ((v.fundEvent p request).pursuedPanel p).wch := by rw [after, ← panel]
  have lnk : u.lnk = ((v.fundEvent p request).pursuedPanel p).lnk := by rw [after, ← panel]
  have deficit : u.wch.isRaised (.delayDeficit p) = true ↔ ¬v.Funds p request := by
    rw [wch, ← panel, ← listed, ← lawful.deficit p, ← (ProgSide.pursue_recast _ p).deficit p]
    rfl
  have clock : (v.fundEvent p request).panel.now = s.refu.clock := (ProgSide.Served.fundEvent v p request).panel.now.trans now
  unfold ActedOn
  intro n d reach full target near stopped funded done alarm
  rw [mine, dmc]
  have reach_eq : v.reach p = reach := by rw [ProgSide.reach, memory]
  have full_iff : full ↔ v.Funds p request := by rw [ProgSide.Funds, reach_eq]; rfl
  have target_eq : v.fundTarget p request = target := by rw [ProgSide.fundTarget, reach_eq]; rfl
  have glides : (v.fundedRecord p request).delay.chooseGlide = near := by
    rw [ProgSide.fundedRecord, target_eq]
    exact DelayRec.chooseGlide_funded { (v.prog p).delay with requested := request } target
  have stops : (v.fundedRecord p request).delay.stopped = stopped := by rw [DelayRec.stopped, glides]; rfl
  have pursued : (v.fundedRecord p request).pursued.delay = if stopped = 64 * target then { funded with change := .steady }
      else if near = true then
        { funded with change := .gliding, kind := if (v.prog p).delay.change = .gliding then (v.prog p).delay.kind else .glide }
      else { funded with change := .fadeOut, kind := .jump, fadePos := 480 } := by
    show (v.fundedRecord p request).delay.pursued = _
    rw [DelayRec.pursued, stops, glides, ProgSide.fundedRecord, target_eq]
  have noticed : (v.fundEvent p request).pursuedPanel p = done (v.fundEvent p request).panel := by
    rw [ProgSide.pursuedPanel, record, stops, clock, ProgSide.fundedRecord, target_eq]
  refine ⟨rfl, stops ▸ v.fundedRecord_members p request, target_eq ▸ ProgSide.fundedRecord_rings h running bounds, fun there => ?_,
    fun away glide => ?_, fun away jump => ?_, fun all => ?_, fun part => ?_,
    ⟨(v.fundEvent p request).panel, clock, ?_, ?_, fun alone => ?_⟩, fun alone => ?_, ?_⟩
  · rw [pursued, if_pos there]
  · rw [pursued, if_neg away, if_pos glide]
    split
    · next gliding => rw [← gliding]
    · rfl
  · rw [pursued, if_neg away, if_neg (by rw [jump]; exact Bool.false_ne_true)]
  · exact ⟨mt listed.1 (not_not.2 (full_iff.1 all)), Bool.eq_false_iff.2 (mt deficit.1 (not_not.2 (full_iff.1 all)))⟩
  · exact ⟨listed.2 (mt full_iff.2 part), deficit.2 (mt full_iff.2 part)⟩
  · rw [wch, noticed]
  · rw [lnk, noticed]
  · have alarmed := ProgSide.fund_alarm (request := request) h (memory ▸ alone)
    rw [reach_eq] at alarmed
    rw [ProgSide.fundEvent_panel h running bounds (memory ▸ alone) alarmed, memory]
    rfl
  · obtain ⟨wait, free, others⟩ := ProgSide.fundEvent_list h running bounds (request := request) (memory ▸ alone)
    rw [reach_eq] at wait free
    rw [target_eq] at free
    refine ⟨wait, free, fun q other => ?_⟩
    rw [prog, (ProgSide.pursue_recast _ p).others q other, others q other, before q other]
  · rw [after]
    exact ⟨rfl, rfl, rfl, rfl, rfl⟩

end

/-! ## The requested delay and its clamp (R85) -/

theorem requestedDelay_eq (video : Nat) (trim : Int) : requestedDelay video trim = (max 48 (min 96000 ((video : Int) + trim))).toNat := by
  rw [requestedDelay, clampInt_eq _ _ _ (by decide), min_comm]
  rfl

theorem DelayRec.requestClamped_iff {r : DelayRec} :
    r.requestClamped = true ↔ (r.video : Int) + r.trim < 48 ∨ 96000 < (r.video : Int) + r.trim := by
  rw [DelayRec.requestClamped, requestedDelay_eq, decide_eq_true_iff]
  omega

theorem takenStatus_iff {clamped : Bool} {P : Prop} [Decidable P] (h : clamped = true ↔ P) :
    takenStatus clamped = if P then .clamped else .ok := if_congr h rfl rfl

/-! ## A record stored (R86, R88) -/

/-- The second delay record has the first's course; its settings may be others. -/
structure DelayRec.Resettled (r r' : DelayRec) : Prop where
  requested : r'.requested = r.requested
  pending : r'.pending = r.pending
  funded : r'.funded = r.funded
  current : r'.current = r.current
  change : r'.change = r.change

theorem DelayRec.Resettled.delayKept {x : Prog} {r : DelayRec} (h : x.delay.Resettled r) : x.DelayKept { x with delay := r } :=
  ⟨⟨rfl, rfl⟩, h.requested, h.pending, h.funded, h.current, h.change⟩

theorem ProgSide.modDelay_modDelay (v : ProgSide) (p : ProgId) (f g : DelayRec → DelayRec) :
    (v.modDelay p f).modDelay p g = v.modDelay p fun r => g (f r) := by
  have record := v.modDelay_prog_self p f
  have twice (a b : Prog) : (v.progs.set p a).set p b = v.progs.set p b := by ext; simp
  show ({ v with progs := (v.progs.set p _).set p _ } : ProgSide) = { v with progs := v.progs.set p _ }
  rw [twice]
  show ({ v with progs := v.progs.set p { (v.modDelay p f).prog p with delay := g ((v.modDelay p f).prog p).delay } } : ProgSide) = _
  rw [record]
  rfl

theorem ProgSide.modDelay_congr {v : ProgSide} {p : ProgId} {f g : DelayRec → DelayRec} (h : f (v.prog p).delay = g (v.prog p).delay) :
    v.modDelay p f = v.modDelay p g :=
  congrArg (fun r => ({ v with progs := v.progs.set p { v.prog p with delay := r } } : ProgSide)) h

theorem State.onProgs_congr {s : State} {f g : ProgSide → ProgSide} (h : f s.progSide = g s.progSide) : s.onProgs f = s.onProgs g :=
  congrArg (fun v : ProgSide => ({ s with progs := v.progs, dmc := v.dmc, wch := v.panel.wch, lnk := v.panel.lnk } : State)) h

theorem State.onProgs_modDelay (s : State) (p : ProgId) (f : DelayRec → DelayRec) :
    s.onProgs (fun v => v.modDelay p f) = s.setProg p { s.prog p with delay := f (s.prog p).delay } := rfl

/-- A record stored, and its requested delay taken up. -/
def ProgSide.storeRequest (p : ProgId) (f : DelayRec → DelayRec) (v : ProgSide) : ProgSide := (v.modDelay p f).newRequest p

theorem ProgSide.storeRequest_served (v : ProgSide) (p : ProgId) (f : DelayRec → DelayRec) : v.Served (v.storeRequest p f) :=
  (ProgSide.Served.modDelay v p f).trans (.newRequest _ p)

/-- A pursuit of a target moves neither the settings nor the requests. -/
theorem DelayRec.pursued_kept (r : DelayRec) : r.pursued.video = r.video ∧ r.pursued.trim = r.trim ∧ r.pursued.method = r.method
    ∧ r.pursued.glideLimit = r.glideLimit ∧ r.pursued.requested = r.requested ∧ r.pursued.pending = r.pending := by
  unfold DelayRec.pursued
  split_ifs <;> exact ⟨rfl, rfl, rfl, rfl, rfl, rfl⟩

section
variable {s : State} {p : ProgId} {f : DelayRec → DelayRec} {r : DelayRec} {request : Nat}

/-- A programme that does not run stores the requested delay. -/
theorem State.storeRequest_idle (idle : (s.prog p).state ≠ .running) (stored : f (s.prog p).delay = r)
    (wanted : requestedDelay r.video r.trim = request) :
    s.onProgs (ProgSide.storeRequest p f) = s.setProg p { s.prog p with delay := { r with requested := request } } := by
  subst stored wanted
  refine (State.onProgs_congr ?_).trans
    (s.onProgs_modDelay p fun r => { f r with requested := requestedDelay (f r).video (f r).trim })
  rw [ProgSide.storeRequest, ProgSide.newRequest, ProgSide.modDelay_prog_self]
  exact (if_neg idle).trans ((ProgSide.modDelay_modDelay _ p f _).trans (ProgSide.modDelay_congr rfl))

/-- One whose jump is in flight holds it as the pending target. -/
theorem State.storeRequest_jumps (running : (s.prog p).state = .running)
    (change : r.change = .fadeOut ∨ r.change = .filling ∨ r.change = .fadeIn) (stored : f (s.prog p).delay = r)
    (wanted : requestedDelay r.video r.trim = request) :
    s.onProgs (ProgSide.storeRequest p f) = s.setProg p { s.prog p with delay := { r with pending := some request } } := by
  subst stored wanted
  refine (State.onProgs_congr ?_).trans
    (s.onProgs_modDelay p fun r => { f r with pending := some (requestedDelay (f r).video (f r).trim) })
  refine Eq.trans ?_ ((ProgSide.modDelay_modDelay s.progSide p f fun r => { r with
    pending := some (requestedDelay (f (s.prog p).delay).video (f (s.prog p).delay).trim) }).trans (ProgSide.modDelay_congr rfl))
  have record := s.progSide.modDelay_prog_self p f
  rw [ProgSide.storeRequest, ProgSide.newRequest, record]
  refine (if_pos running).trans ?_
  split
  · next steady => exact absurd (show (f (s.prog p).delay).change = .steady from steady) (by rcases change with c | c | c <;> simp [c])
  · next gliding => exact absurd (show (f (s.prog p).delay).change = .gliding from gliding) (by rcases change with c | c | c <;> simp [c])
  · rfl

/-- Stored settings leave the laws of the delay memory. -/
theorem ProgSide.LawfulBut.resettle {v : ProgSide} (h : v.Lawful) (stored : (v.prog p).delay.Resettled (f (v.prog p).delay)) :
    (v.modDelay p f).Lawful := h.kept (.modProg v p stored.delayKept)

theorem ProgSide.newRequest_acts {v : ProgSide} (h : v.Lawful) (running : (v.prog p).state = .running)
    (change : (v.prog p).delay.change = .steady ∨ (v.prog p).delay.change = .gliding) :
    v.newRequest p = (v.fundEvent p (requestedDelay (v.prog p).delay.video (v.prog p).delay.trim)).pursue p := by
  have bounds := requestedDelay_bounds (v.prog p).delay.video (v.prog p).delay.trim
  refine (if_pos running).trans ?_
  rcases change with steady | gliding
  · rw [steady]
    exact ProgSide.actSteady_eq h running steady bounds
  · rw [gliding]
    exact ProgSide.actGliding_eq h running gliding bounds

/-- A requested delay taken up in STEADY or GLIDING is acted on. -/
theorem ProgSide.newRequest_acted {u : State} {v : ProgSide} (h : v.Lawful) (running : (v.prog p).state = .running)
    (change : (v.prog p).delay.change = .steady ∨ (v.prog p).delay.change = .gliding)
    (wanted : requestedDelay (v.prog p).delay.video (v.prog p).delay.trim = request)
    (before : ∀ q, q ≠ p → v.prog q = s.prog q) (memory : v.dmc = s.dmc) (now : v.panel.now = s.refu.clock)
    (after : u = { s with
      progs := (v.newRequest p).progs, dmc := (v.newRequest p).dmc, wch := (v.newRequest p).panel.wch
      lnk := (v.newRequest p).panel.lnk }) :
    ActedOn s v.panel u p (v.prog p) request ∧ (u.prog p).state = .running
      ∧ (u.prog p).delay.video = (v.prog p).delay.video ∧ (u.prog p).delay.trim = (v.prog p).delay.trim
      ∧ (u.prog p).delay.method = (v.prog p).delay.method ∧ (u.prog p).delay.glideLimit = (v.prog p).delay.glideLimit
      ∧ (u.prog p).delay.requested = request ∧ (u.prog p).delay.pending = none := by
  have bounds : 48 ≤ request ∧ request ≤ 96000 := wanted ▸ requestedDelay_bounds _ _
  have free : (v.prog p).delay.pending = none := ((h.prog p).whenRunning running).1.free change
  have acts := ProgSide.newRequest_acts h running change
  rw [wanted] at acts
  rw [acts] at after
  have mine : u.prog p = (v.fundedRecord p request).pursued := by
    rw [← ProgSide.pursue_record h running change bounds, after]
    rfl
  obtain ⟨video, trim, method, limit, requested, pending⟩ := (v.fundedRecord p request).delay.pursued_kept
  rw [mine]
  exact ⟨ProgSide.actedOn h running change bounds before memory now after, running, video, trim, method, limit, requested,
    pending.trans free⟩

/-- A STEADY or GLIDING one has it acted on. -/
theorem State.storeRequest_acts (running : (s.prog p).state = .running)
    (change : (s.prog p).delay.change = .steady ∨ (s.prog p).delay.change = .gliding) (requests : s.RequestsBounded)
    (laws : s.DelayMemoryLaws) (resettled : (s.prog p).delay.Resettled r) (stored : f (s.prog p).delay = r)
    (wanted : requestedDelay r.video r.trim = request) :
    let u := s.onProgs (ProgSide.storeRequest p f)
    ActedOn s s.panel u p { s.prog p with delay := r } request ∧ (u.prog p).state = .running
      ∧ (u.prog p).delay.video = r.video ∧ (u.prog p).delay.trim = r.trim ∧ (u.prog p).delay.method = r.method
      ∧ (u.prog p).delay.glideLimit = r.glideLimit ∧ (u.prog p).delay.requested = request ∧ (u.prog p).delay.pending = none := by
  subst stored
  have record := s.progSide.modDelay_prog_self p f
  have acted := ProgSide.newRequest_acted (s := s) (u := s.onProgs (ProgSide.storeRequest p f)) (p := p) (request := request)
    ((requests.lawful laws).resettle resettled)
  rw [record] at acted
  refine acted running ?_ wanted (fun q other => s.progSide.replaced_other _ _ other) rfl rfl rfl
  exact resettled.change.symm ▸ change

end

/-! ## The answers (R86, R88) -/

theorem delayReply_acted {x : Prog} {request : Nat} (running : x.state = .running) (requested : x.delay.requested = request)
    (free : x.delay.pending = none) : delayReply x =
      { video := x.delay.video, trim := x.delay.trim, requested := request, change := x.delay.change, funded := some x.delay.funded,
        pending := none } := by
  rw [delayReply, DelayRec.latest, free, running, requested]
  rfl

theorem ProgState.refusesSetting_defined {st : ProgState} (h : st = .waiting ∨ st = .running) : st.refusesSetting = none := by
  rcases h with rfl | rfl <;> rfl

/-- VIDEO_LATENCY on a defined programme, answered in the state that its request taken up leaves. -/
theorem exec_videoLatency {s : State} {tag : Byte} {body : List Byte} {p : ProgId} {latency : Nat} (takes : s.Takes 0x31 tag body)
    (read : bodyVideoLatency body = some (p.val, latency)) (defined : (s.prog p).state = .waiting ∨ (s.prog p).state = .running)
    {u : State} (left : s.onProgs (ProgSide.storeRequest p fun r => { r with video := min latency 96000 }) = u)
    {status : Status} (taken : takenStatus (decide (96000 < latency) || (u.prog p).delay.requestClamped) = status)
    {figures : DelayReply} (reply : delayReply (u.prog p) = figures) :
    exec .videoLatency s = .next (u.reply 0x31 tag status (.videoLatency figures)) := by
  subst left taken reply
  have restart := State.onProgs_restart (s.progSide.storeRequest_served p fun r => { r with video := min latency 96000 })
  refine State.carry_body takes (ofKind := (· == 0x31)) rfl read
    ((onProg_admitted (progOf_val p) (ProgState.refusesSetting_defined defined) (videoLatencyAnswer latency)).trans ?_)
    (restart.trans takes.restart)
  simp only [videoLatencyAnswer, Nat.min_comm]
  rfl

/-- What V + trim and its clamp make of the status of a VIDEO_LATENCY. -/
theorem takenStatus_videoLatency {latency : Nat} {r : DelayRec} (video : r.video = min latency 96000) :
    takenStatus (decide (96000 < latency) || r.requestClamped) =
      if 96000 < latency ∨ ((min latency 96000 : Nat) : Int) + r.trim < 48 ∨ 96000 < ((min latency 96000 : Nat) : Int) + r.trim
      then .clamped else .ok :=
  takenStatus_iff (by rw [Bool.or_eq_true, decide_eq_true_iff, DelayRec.requestClamped_iff, video])

theorem delayReply_waiting {x : Prog} (waiting : x.state = .waiting) (free : x.delay.pending = none) : delayReply x =
    { video := x.delay.video, trim := x.delay.trim, requested := x.delay.requested, change := x.delay.change, funded := none,
      pending := none } := by
  rw [delayReply, DelayRec.latest, free, waiting]
  rfl

theorem delayReply_pending {x : Prog} {request : Nat} (held : x.delay.pending = some request) : delayReply x =
    { video := x.delay.video, trim := x.delay.trim, requested := request, change := x.delay.change, funded := none,
      pending := some request } := by
  rw [delayReply, DelayRec.latest, held, if_neg (by simp)]
  rfl

/-- The state that a DELAY_SET leaves. -/
def ProgSide.delaySet (p : ProgId) (b : DelaySetBody) (v : ProgSide) : ProgSide :=
  if b.trim.isSome then v.storeRequest p (DelayRec.store b) else v.modDelay p (DelayRec.store b)

theorem ProgSide.delaySet_served (v : ProgSide) (p : ProgId) (b : DelaySetBody) : v.Served (v.delaySet p b) := by
  unfold ProgSide.delaySet
  split
  · exact v.storeRequest_served p _
  · exact .modDelay v p _

/-- DELAY_SET on a defined programme, answered in the state that it leaves. -/
theorem exec_delaySet {s : State} {tag : Byte} {body : List Byte} {b : DelaySetBody} {p : ProgId} (takes : s.Takes 0x30 tag body)
    (read : bodyDelaySet body = some b) (prog : b.prog = p.val) (defined : (s.prog p).state = .waiting ∨ (s.prog p).state = .running)
    {u : State} (left : s.onProgs (ProgSide.delaySet p b) = u) {status : Status}
    (taken : takenStatus (settingClamped b.trim (-48000) 48000 || decide (4800 < b.glideLimit.getD 0)
      || (b.trim.isSome && (u.prog p).delay.requestClamped)) = status)
    {figures : DelayReply} (reply : delayReply (u.prog p) = figures) {method : ChangeMethod} (m : (u.prog p).delay.method = method)
    {limit : Nat} (l : (u.prog p).delay.glideLimit = limit) :
    exec .delaySet s = .next (u.reply 0x30 tag status (.delaySet figures method limit)) := by
  subst left taken reply m l
  have restart := State.onProgs_restart (s.progSide.delaySet_served p b)
  exact State.carry_body takes (ofKind := (· == 0x30)) rfl read
    ((congrArg (onProg ProgState.refusesSetting · (delaySetAnswer b) s) prog).trans
      (onProg_admitted (progOf_val p) (ProgState.refusesSetting_defined defined) (delaySetAnswer b)))
    (restart.trans takes.restart)

/-- A DELAY_SET's stored record, as its request says. -/
theorem DelayRec.store_eq (b : DelaySetBody) (r : DelayRec) : r.store b = { r with
    method := b.method.getD r.method
    glideLimit := (b.glideLimit.map fun n => min n 4800).getD r.glideLimit
    trim := (b.trim.map fun t => max (-48000) (min 48000 t)).getD r.trim } := by
  have limit : (min 4800 : Nat → Nat) = fun n => min n 4800 := funext fun n => Nat.min_comm _ _
  have trim : (fun t : Int => clampInt t (-48000) 48000) = fun t => max (-48000) (min 48000 t) := funext fun t => by
    rw [clampInt_eq _ _ _ (by decide), min_comm]
  rw [DelayRec.store, clampSetting, limit, trim]

/-- A glide limit clamped. -/
theorem glideLimit_clamped_iff (limit : Option Nat) : 4800 < limit.getD 0 ↔ ∃ n, limit = some n ∧ 4800 < n := by
  cases limit <;> simp

/-- What the fields of a DELAY_SET with a trim make of its status. -/
theorem takenStatus_delaySet {b : DelaySetBody} {trim : Int} (some_ : b.trim = some trim) {r : DelayRec} {kept : Int}
    (kept_eq : kept = max (-48000) (min 48000 trim)) (stored : r.trim = kept)
    [Decidable (trim ≠ kept ∨ (∃ n, b.glideLimit = some n ∧ 4800 < n) ∨ (r.video : Int) + kept < 48 ∨ 96000 < (r.video : Int) + kept)] :
    takenStatus (settingClamped b.trim (-48000) 48000 || decide (4800 < b.glideLimit.getD 0) || (b.trim.isSome && r.requestClamped)) =
      if trim ≠ kept ∨ (∃ n, b.glideLimit = some n ∧ 4800 < n) ∨ (r.video : Int) + kept < 48 ∨ 96000 < (r.video : Int) + kept
      then .clamped else .ok := by
  refine takenStatus_iff ?_
  rw [some_, Bool.or_eq_true, Bool.or_eq_true, decide_eq_true_iff, glideLimit_clamped_iff, Bool.and_eq_true, DelayRec.requestClamped_iff,
    stored]
  have range : settingClamped (some trim) (-48000) 48000 = true ↔ trim ≠ kept := by
    simp only [settingClamped, Option.any_some, Bool.or_eq_true, decide_eq_true_iff, kept_eq]
    omega
  rw [range]
  simp only [Option.isSome_some, true_and, or_assoc]

section
variable {s : State} {tag : Byte} {body : List Byte} {p : ProgId}

/-! ## VIDEO_LATENCY (R86) -/

/-- VIDEO_LATENCY on a programme that waits. -/
theorem exec_videoLatency_waiting {latency : Nat} (takes : s.Takes 0x31 tag body) (read : bodyVideoLatency body = some (p.val, latency))
    (waiting : (s.prog p).state = .waiting) (requests : s.RequestsBounded) :
    let x := s.prog p
    let video := min latency 96000
    let request := (max 48 (min 96000 ((video : Int) + x.delay.trim))).toNat
    exec .videoLatency s = .next ((s.setProg p { x with delay := { x.delay with video := video, requested := request } }).reply 0x31 tag
      (if 96000 < latency ∨ (video : Int) + x.delay.trim < 48 ∨ 96000 < (video : Int) + x.delay.trim then .clamped else .ok)
      (.videoLatency { video := video, trim := x.delay.trim, requested := request, change := x.delay.change, funded := none,
                       pending := none })) := by
  intro x video request
  have idle : (s.prog p).state ≠ .running := by rw [waiting]; decide
  have free : (s.prog p).delay.pending = none := (requests p).2.2.1 waiting
  refine exec_videoLatency takes read (.inl waiting)
    (State.storeRequest_idle idle rfl (requestedDelay_eq _ _)) ?_ ?_
  · rw [State.setProg_prog_self]
    exact takenStatus_videoLatency rfl
  · rw [State.setProg_prog_self]
    exact delayReply_waiting waiting free

/-- VIDEO_LATENCY on a programme whose jump is in flight. -/
theorem exec_videoLatency_jumping {latency : Nat} (takes : s.Takes 0x31 tag body) (read : bodyVideoLatency body = some (p.val, latency))
    (running : (s.prog p).state = .running)
    (change : (s.prog p).delay.change = .fadeOut ∨ (s.prog p).delay.change = .filling ∨ (s.prog p).delay.change = .fadeIn) :
    let x := s.prog p
    let video := min latency 96000
    let request := (max 48 (min 96000 ((video : Int) + x.delay.trim))).toNat
    exec .videoLatency s = .next ((s.setProg p { x with delay := { x.delay with video := video, pending := some request } }).reply 0x31 tag
      (if 96000 < latency ∨ (video : Int) + x.delay.trim < 48 ∨ 96000 < (video : Int) + x.delay.trim then .clamped else .ok)
      (.videoLatency { video := video, trim := x.delay.trim, requested := request, change := x.delay.change, funded := none,
                       pending := some request })) := by
  intro x video request
  refine exec_videoLatency takes read (.inr running)
    (State.storeRequest_jumps (r := { x.delay with video := video }) running change rfl (requestedDelay_eq _ _)) ?_ ?_
  · rw [State.setProg_prog_self]
    exact takenStatus_videoLatency rfl
  · rw [State.setProg_prog_self]
    exact delayReply_pending rfl

/-- VIDEO_LATENCY on a STEADY or GLIDING programme. -/
theorem exec_videoLatency_acting {latency : Nat} (takes : s.Takes 0x31 tag body) (read : bodyVideoLatency body = some (p.val, latency))
    (running : (s.prog p).state = .running) (change : (s.prog p).delay.change = .steady ∨ (s.prog p).delay.change = .gliding)
    (requests : s.RequestsBounded) (laws : s.DelayMemoryLaws) :
    let x := s.prog p
    let video := min latency 96000
    let request := (max 48 (min 96000 ((video : Int) + x.delay.trim))).toNat
    ∃ u : State, ActedOn s s.panel u p { x with delay := { x.delay with video := video } } request
      ∧ exec .videoLatency s = .next (u.reply 0x31 tag
        (if 96000 < latency ∨ (video : Int) + x.delay.trim < 48 ∨ 96000 < (video : Int) + x.delay.trim then .clamped else .ok)
        (.videoLatency { video := video, trim := x.delay.trim, requested := request, change := (u.prog p).delay.change,
                         funded := some (u.prog p).delay.funded, pending := none })) := by
  intro x video request
  obtain ⟨acted, state, videoKept, trim, -, -, requested, free⟩ := State.storeRequest_acts (r := { x.delay with video := video })
    (f := fun r => { r with video := video }) running change requests laws ⟨rfl, rfl, rfl, rfl, rfl⟩ rfl (requestedDelay_eq _ _)
  refine ⟨_, acted, exec_videoLatency takes read (.inr running) rfl ?_ ?_⟩
  · rw [takenStatus_videoLatency videoKept, trim]
  · rw [delayReply_acted state requested free, videoKept, trim]

/-! ## DELAY_SET (R88) -/

variable {b : DelaySetBody}

/-- A DELAY_SET without a trim stores and moves nothing. -/
theorem exec_delaySet_untrimmed (takes : s.Takes 0x30 tag body) (read : bodyDelaySet body = some b) (prog : b.prog = p.val)
    (none : b.trim = none) (defined : (s.prog p).state = .waiting ∨ (s.prog p).state = .running) :
    let x := s.prog p
    let method := b.method.getD x.delay.method
    let limit := (b.glideLimit.map fun n => min n 4800).getD x.delay.glideLimit
    exec .delaySet s = .next ((s.setProg p { x with delay := { x.delay with method := method, glideLimit := limit } }).reply 0x30 tag
      (takenStatus (decide (4800 < b.glideLimit.getD 0)))
      (.delaySet (delayReply x) method limit)) := by
  intro x method limit
  have left : s.onProgs (ProgSide.delaySet p b)
      = s.setProg p { x with delay := { x.delay with method := method, glideLimit := limit } } := by
    have stores : s.progSide.delaySet p b = s.progSide.modDelay p (DelayRec.store b) := if_neg (by rw [none]; decide)
    refine (State.onProgs_congr stores).trans ((s.onProgs_modDelay p (DelayRec.store b)).trans ?_)
    rw [DelayRec.store_eq, none]
    rfl
  refine exec_delaySet takes read prog defined left ?_ ?_ ?_ ?_
  · rw [none]
    simp [settingClamped]
  · rw [State.setProg_prog_self]
    rfl
  · rw [State.setProg_prog_self]
  · rw [State.setProg_prog_self]

/-- The delay record that a DELAY_SET with a trim stores. -/
def DelayRec.trimmed (b : DelaySetBody) (trim : Int) (r : DelayRec) : DelayRec :=
  { r with
    method := b.method.getD r.method, glideLimit := (b.glideLimit.map fun n => min n 4800).getD r.glideLimit
    trim := max (-48000) (min 48000 trim) }

theorem DelayRec.store_trimmed {trim : Int} (some_ : b.trim = some trim) (r : DelayRec) : r.store b = r.trimmed b trim := by
  rw [DelayRec.store_eq, some_]
  rfl

theorem State.delaySet_trimmed (s : State) (p : ProgId) {trim : Int} (some_ : b.trim = some trim) :
    s.onProgs (ProgSide.delaySet p b) = s.onProgs (ProgSide.storeRequest p (DelayRec.store b)) :=
  State.onProgs_congr (if_pos (by rw [some_]; rfl))

/-- The requested delay that a DELAY_SET's trim gives. -/
def DelayRec.trimRequest (trim : Int) (r : DelayRec) : Nat :=
  (max 48 (min 96000 ((r.video : Int) + max (-48000) (min 48000 trim)))).toNat

/-- The status of a DELAY_SET with a trim. -/
def DelayRec.trimStatus (b : DelaySetBody) (trim : Int) (r : DelayRec) : Status :=
  takenStatus (settingClamped b.trim (-48000) 48000 || decide (4800 < b.glideLimit.getD 0) || (b.trim.isSome
    && (r.trimmed b trim).requestClamped))

/-- A DELAY_SET with a trim on a programme that waits. -/
theorem exec_delaySet_waiting {trim : Int} (takes : s.Takes 0x30 tag body) (read : bodyDelaySet body = some b) (prog : b.prog = p.val)
    (some_ : b.trim = some trim) (waiting : (s.prog p).state = .waiting) (requests : s.RequestsBounded) :
    let x := s.prog p
    let r := x.delay.trimmed b trim
    let request := x.delay.trimRequest trim
    exec .delaySet s = .next ((s.setProg p { x with delay := { r with requested := request } }).reply 0x30 tag (x.delay.trimStatus b trim)
      (.delaySet { video := x.delay.video, trim := r.trim, requested := request, change := x.delay.change, funded := none,
                   pending := none } r.method r.glideLimit)) := by
  intro x r request
  have idle : (s.prog p).state ≠ .running := by rw [waiting]; decide
  have free : (s.prog p).delay.pending = none := (requests p).2.2.1 waiting
  refine exec_delaySet takes read prog (.inl waiting) ((s.delaySet_trimmed p some_).trans
    (State.storeRequest_idle (r := r) idle (DelayRec.store_trimmed some_ _) (requestedDelay_eq _ _))) ?_ ?_ ?_ ?_
  · rw [State.setProg_prog_self]
    rfl
  · rw [State.setProg_prog_self]
    exact delayReply_waiting waiting free
  · rw [State.setProg_prog_self]
  · rw [State.setProg_prog_self]

/-- A DELAY_SET with a trim on a programme whose jump is in flight. -/
theorem exec_delaySet_jumping {trim : Int} (takes : s.Takes 0x30 tag body) (read : bodyDelaySet body = some b) (prog : b.prog = p.val)
    (some_ : b.trim = some trim) (running : (s.prog p).state = .running)
    (change : (s.prog p).delay.change = .fadeOut ∨ (s.prog p).delay.change = .filling ∨ (s.prog p).delay.change = .fadeIn) :
    let x := s.prog p
    let r := x.delay.trimmed b trim
    let request := x.delay.trimRequest trim
    exec .delaySet s = .next ((s.setProg p { x with delay := { r with pending := some request } }).reply 0x30 tag
      (x.delay.trimStatus b trim) (.delaySet { video := x.delay.video, trim := r.trim, requested := request, change := x.delay.change,
                                               funded := none, pending := some request } r.method r.glideLimit)) := by
  intro x r request
  refine exec_delaySet takes read prog (.inr running) ((s.delaySet_trimmed p some_).trans
    (State.storeRequest_jumps (r := r) running change (DelayRec.store_trimmed some_ _) (requestedDelay_eq _ _))) ?_ ?_ ?_ ?_
  · rw [State.setProg_prog_self]
    rfl
  · rw [State.setProg_prog_self]
    exact delayReply_pending rfl
  · rw [State.setProg_prog_self]
  · rw [State.setProg_prog_self]

/-- A DELAY_SET with a trim on a STEADY or GLIDING programme. -/
theorem exec_delaySet_acting {trim : Int} (takes : s.Takes 0x30 tag body) (read : bodyDelaySet body = some b) (prog : b.prog = p.val)
    (some_ : b.trim = some trim) (running : (s.prog p).state = .running)
    (change : (s.prog p).delay.change = .steady ∨ (s.prog p).delay.change = .gliding) (requests : s.RequestsBounded)
    (laws : s.DelayMemoryLaws) :
    let x := s.prog p
    let r := x.delay.trimmed b trim
    let request := x.delay.trimRequest trim
    ∃ u : State, ActedOn s s.panel u p { x with delay := r } request
      ∧ exec .delaySet s = .next (u.reply 0x30 tag (x.delay.trimStatus b trim) (.delaySet
        { video := x.delay.video, trim := r.trim, requested := request, change := (u.prog p).delay.change,
          funded := some (u.prog p).delay.funded, pending := none } r.method r.glideLimit)) := by
  intro x r request
  obtain ⟨acted, state, video, trimKept, method, limit, requested, free⟩ := State.storeRequest_acts (r := r) (f := DelayRec.store b) running
    change requests laws ⟨rfl, rfl, rfl, rfl, rfl⟩ (DelayRec.store_trimmed some_ _) (requestedDelay_eq _ _)
  refine ⟨_, acted, exec_delaySet takes read prog (.inr running) (s.delaySet_trimmed p some_) ?_ ?_ method limit⟩
  · rw [DelayRec.requestClamped, video, trimKept]
    rfl
  · rw [delayReply_acted state requested free, video, trimKept]
    rfl

end

/-- Settles O35: each request is answered in the state that its record, stored and taken up, leaves; a STEADY or GLIDING programme acts
on it by one funding and then goes on toward the target. -/
theorem delayRequestsMoveTheRequestedDelay : Obligations.DelayRequestsMoveTheRequestedDelay := by
  unfold Obligations.DelayRequestsMoveTheRequestedDelay
  constructor
  · intro s tag body p latency takes read
    exact ⟨exec_videoLatency_waiting takes read, exec_videoLatency_jumping takes read, exec_videoLatency_acting takes read⟩
  · intro s tag body b p takes read prog x method limit
    refine ⟨fun none defined => ?_, fun trim some_ => ?_⟩
    · have clamped := takenStatus_iff ((decide_eq_true_iff (p := 4800 < b.glideLimit.getD 0)).trans (glideLimit_clamped_iff b.glideLimit))
      have answered := exec_delaySet_untrimmed takes read prog none defined
      rw [clamped] at answered
      exact answered
    · intro kept sum request stored status
      have same : x.delay.trimStatus b trim = status := takenStatus_delaySet some_ rfl rfl
      rw [← same]
      exact ⟨exec_delaySet_waiting takes read prog some_, exec_delaySet_jumping takes read prog some_,
        exec_delaySet_acting takes read prog some_⟩

end Sys2Proof.Machine

/-! The delay memory read back (R61, R64 to R68): what copies and written samples read as. -/
namespace Sys2Proof.Machine

/-! ## Copies -/

/-- Cells kept by their address read as before, the others as unlisted. -/
theorem Memory.read_filter (keep : Nat → Bool) (m : Memory) (a : Nat) :
    Memory.read (m.filter fun c => keep c.1) a = if keep a = true then m.read a else Memory.unlisted := by
  induction m with
  | nil => exact (ite_self _).symm
  | cons cell rest ih =>
    obtain ⟨k, b⟩ := cell
    have cells : ((k, b) :: rest).filter (fun c : Host.Cell => keep c.1)
        = if keep k = true then (k, b) :: rest.filter (fun c : Host.Cell => keep c.1) else rest.filter fun c : Host.Cell => keep c.1 :=
      List.filter_cons
    rw [cells, Memory.read.eq_2 a k b rest]
    by_cases kept : keep k = true
    · rw [if_pos kept, Memory.read.eq_2, ih]
      split
      · next here => rw [if_pos (here ▸ kept)]
      · rfl
    · rw [if_neg kept, ih]
      by_cases here : k = a
      · rw [if_neg (here ▸ kept), if_neg (here ▸ kept)]
      · rw [if_neg here]

theorem Memory.read_writeCells_other {cs : Memory} {a : Nat} (other : ∀ c ∈ cs, c.1 ≠ a) (m : Memory) :
    (m.writeCells cs).read a = m.read a := by
  induction cs generalizing m with
  | nil => rfl
  | cons cell cs ih =>
    obtain ⟨first, others⟩ := List.forall_mem_cons.1 other
    rw [Memory.writeCells, ih others, Memory.read_write_other first.symm]

/-- Where a memory lists nothing, it reads as the cells written to it. -/
theorem Memory.read_writeCells {m cs : Memory} (hm : m.wf) (rising : cs.Pairwise fun x y => x.1 < y.1) {a : Nat}
    (empty : m.read a = Memory.unlisted) : (m.writeCells cs).read a = cs.read a := by
  induction cs generalizing m with
  | nil => exact empty
  | cons cell cs ih =>
    obtain ⟨k, b⟩ := cell
    obtain ⟨above, rising⟩ := List.pairwise_cons.1 rising
    rw [Memory.writeCells, Memory.read.eq_2 a k b cs]
    split
    · next here =>
      subst here
      rw [Memory.read_writeCells_other (fun c hc => (above c hc).ne'), Memory.read_write hm, if_pos rfl]
    · next other =>
      refine ih (Memory.write_wf hm k b) rising ?_
      rw [Memory.read_write_other (Ne.symm other), empty]

/-- Cells moved to other addresses in order. -/
theorem Memory.read_shift {cs : Memory} {src : Nat} (least : ∀ c ∈ cs, src ≤ c.1) (dst i : Nat) :
    Memory.read (cs.map fun c => (c.1 - src + dst, c.2)) (dst + i) = cs.read (src + i) := by
  induction cs with
  | nil => rfl
  | cons cell cs ih =>
    obtain ⟨k, b⟩ := cell
    obtain ⟨first, others⟩ := List.forall_mem_cons.1 least
    dsimp only at first
    have same : k - src + dst = dst + i ↔ k = src + i := by omega
    rw [List.map_cons, Memory.read.eq_2, Memory.read.eq_2 _ k b cs, ih others]
    simp only [same]

/-- A copied range reads as the range it was copied from. -/
theorem Memory.read_copy {m : Memory} (hm : m.wf) (src dst : Nat) {n i : Nat} (h : i < n) :
    (m.copy src dst n).read (dst + i) = m.read (src + i) := by
  have emptied := Memory.read_filter (fun a => !(decide (dst ≤ a) && decide (a < dst + n))) m (dst + i)
  rw [if_neg (by simp [h])] at emptied
  have taken := Memory.read_filter (fun a => decide (src ≤ a) && decide (a < src + n)) m (src + i)
  rw [if_pos (by simp [h])] at taken
  have least : ∀ c ∈ m.filter (fun c => decide (src ≤ c.1) && decide (c.1 < src + n)), src ≤ c.1 := fun c hc => by
    have range := (List.mem_filter.1 hc).2
    simp only [Bool.and_eq_true, decide_eq_true_iff] at range
    exact range.1
  rw [Memory.copy, Memory.read_writeCells (Memory.filter_wf hm _) ?_ emptied, Memory.read_shift least, taken]
  refine List.pairwise_map.2 (((Memory.filter_wf hm _).1).imp_of_mem fun {x y} hx hy less => ?_)
  have := least x hx
  have := least y hy
  dsimp only
  omega

/-- Outside the range copied to nothing changes. -/
theorem Memory.read_copy_other (m : Memory) (src : Nat) {dst n a : Nat} (h : a < dst ∨ dst + n ≤ a) :
    (m.copy src dst n).read a = m.read a := by
  have kept := Memory.read_filter (fun a => !(decide (dst ≤ a) && decide (a < dst + n))) m a
  rw [if_pos (by simp only [Bool.not_eq_true', Bool.and_eq_false_iff, decide_eq_false_iff_not]; omega)] at kept
  rw [Memory.copy, Memory.read_writeCells_other ?_, kept]
  intro c hc
  obtain ⟨e, he, rfl⟩ := List.mem_map.1 hc
  have range := (List.mem_filter.1 he).2
  simp only [Bool.and_eq_true, decide_eq_true_iff] at range
  dsimp only
  omega

/-! ## Samples (R61) -/

/-- Words of the same bytes hold the same sample. -/
theorem readSample_congr {m n : Memory} {page other : PageId} {x y : Fin 1024}
    (bytes : ∀ k, k < 4 → m.read (positionAddress page x + k) = n.read (positionAddress other y + k)) :
    readSample m page x = readSample n other y := by
  have first := bytes 0 (by decide)
  rw [Nat.add_zero, Nat.add_zero] at first
  simp only [readSample, first, bytes 1 (by decide), bytes 2 (by decide)]

/-- The tail move brings a page's samples from an offset on to the same positions of the other page. -/
theorem readSample_copyTail {m : Memory} (hm : m.wf) (source target : PageId) {offset x : Fin 1024} (tail : offset ≤ x) :
    readSample (copyTail m source target offset) target x = readSample m source x := by
  have behind : offset.val ≤ x.val := tail
  have within := x.isLt
  refine readSample_congr fun k hk => ?_
  have copied := Memory.read_copy hm (positionAddress source offset) (positionAddress target offset)
    (n := 4 * (1024 - offset.val)) (i := 4 * (x.val - offset.val) + k) (by omega)
  have place (page : PageId) : positionAddress page offset + (4 * (x.val - offset.val) + k) = positionAddress page x + k := by
    simp only [positionAddress]
    omega
  rwa [place, place] at copied

theorem readSample_copyTail_other (m : Memory) (source : PageId) {target page : PageId} {offset x : Fin 1024}
    (other : page ≠ target ∨ x < offset) : readSample (copyTail m source target offset) page x = readSample m page x := by
  have apart : page.val ≠ target.val ∨ x.val < offset.val := other.imp_left fun ne e => ne (Fin.ext e)
  have within := x.isLt
  have within' := offset.isLt
  refine readSample_congr fun k hk => Memory.read_copy_other m _ ?_
  simp only [positionAddress]
  omega

/-- A sample of 24 bits reads back as it was written. -/
theorem readSample_writeSample {m : Memory} (hm : m.wf) (page : PageId) (x : Fin 1024) {sample : Int} (least : -(2 ^ 23) ≤ sample)
    (most : sample < 2 ^ 23) : readSample (writeSample m page x sample) page x = sample := by
  have bytes (k : Nat) (hk : k < 4) := Memory.read_writeBytes hm (positionAddress page x)
    [(BitVec.ofInt 24 sample).extractLsb' 16 8, (BitVec.ofInt 24 sample).extractLsb' 8 8, (BitVec.ofInt 24 sample).extractLsb' 0 8, 0]
    k hk
  have word (w : BitVec 24) : w.extractLsb' 16 8 ++ w.extractLsb' 8 8 ++ w.extractLsb' 0 8 = w := by
    rw [BitVec.extractLsb'_append_extractLsb'_eq_extractLsb' (start₂ := 16) (start₁ := 8) rfl,
      BitVec.extractLsb'_append_extractLsb'_eq_extractLsb' (start₂ := 8) (start₁ := 0) rfl]
    exact BitVec.extractLsb'_eq_self
  have first := bytes 0 (by decide)
  rw [Nat.add_zero] at first
  simp only [readSample, writeSample]
  rw [first, bytes 1 (by decide), bytes 2 (by decide)]
  simp only [List.getElem_cons_zero, List.getElem_cons_succ]
  rw [word]
  exact BitVec.toInt_ofInt_eq_self (by decide) least most

/-- A sample is not read at another place. -/
theorem readSample_writeSample_elsewhere {page other : PageId} {x y : Fin 1024} (apart : page ≠ other ∨ x ≠ y) (m : Memory)
    (sample : Int) : readSample (writeSample m other y sample) page x = readSample m page x := by
  have apart : page.val ≠ other.val ∨ x.val ≠ y.val := apart.imp (fun ne e => ne (Fin.ext e)) fun ne e => ne (Fin.ext e)
  have within := x.isLt
  have within' := y.isLt
  refine readSample_congr fun k hk => Memory.read_writeBytes_other ?_ m
  simp only [positionAddress, List.length_cons, List.length_nil]
  omega

/-! ## Positions of a chain (R64) -/

/-- The sample at a position of the chain, counted from the start of the write page. -/
def Ring.sampleAt (dram : Memory) (c : Nat) (r : Ring) : Int :=
  readSample dram (r.chain.getD (c / 1024) r.writePage) ⟨c % 1024, Nat.mod_lt _ (by decide)⟩

/-- The position of the frame at a distance. -/
def Ring.index (distance : Nat) (r : Ring) : Nat := (r.writeOffset.val + r.capacity - 1 - distance) % r.capacity

/-- A frame that was ever written is the sample at its position. -/
theorem Ring.frameAt_eq (dram : Memory) (newest : Int) (distance : Nat) (r : Ring) : r.frameAt dram newest distance =
    if newest - distance < 0 ∨ newest - distance < r.historyStart then 0 else r.sampleAt dram (r.index distance) := rfl

theorem Ring.capacity_eq (r : Ring) : r.capacity = 1024 * (r.rest.length + 1) := rfl

/-- The frames of the write page already written in this round are before the write point. -/
theorem Ring.index_recent {r : Ring} {distance : Nat} (recent : distance < r.writeOffset.val) :
    r.index distance = r.writeOffset.val - 1 - distance := by
  have within := r.writeOffset.isLt
  rw [Ring.index, r.capacity_eq, show r.writeOffset.val + 1024 * (r.rest.length + 1) - 1 - distance
    = r.writeOffset.val - 1 - distance + 1024 * (r.rest.length + 1) by omega, Nat.add_mod_right, Nat.mod_eq_of_lt (by omega)]

/-- The others are from the write point on. -/
theorem Ring.index_older {r : Ring} {distance : Nat} (older : r.writeOffset.val ≤ distance) (reached : distance < r.capacity) :
    r.index distance = r.capacity + r.writeOffset.val - 1 - distance := by
  rw [Ring.index, Nat.mod_eq_of_lt (by omega)]
  omega

theorem readSample_place {x y : Fin 1024} (same : x.val = y.val) (dram : Memory) (page : PageId) :
    readSample dram page x = readSample dram page y := by rw [Fin.ext same]

theorem Ring.sampleAt_page {dram : Memory} {c : Nat} {r : Ring} {page : PageId} (there : r.chain[c / 1024]? = some page) :
    r.sampleAt dram c = readSample dram page ⟨c % 1024, Nat.mod_lt _ (by decide)⟩ := by
  rw [Ring.sampleAt, List.getD_eq_getElem?_getD, there]
  rfl

/-- Every position of the chain has its page. -/
theorem Ring.page_of_lt {r : Ring} {c : Nat} (h : c < r.capacity) : ∃ page, r.chain[c / 1024]? = some page := by
  rw [r.capacity_eq] at h
  exact ⟨_, List.getElem?_eq_getElem (show c / 1024 < r.chain.length by rw [Ring.chain, List.length_cons]; omega)⟩

/-- The write page is at the chain's start alone. -/
theorem Ring.ne_writePage {r : Ring} (once : r.chain.Nodup) {c : Nat} {page : PageId} (there : r.chain[c / 1024]? = some page)
    (later : 1024 ≤ c) : page ≠ r.writePage := by
  obtain ⟨k, index⟩ : ∃ k, c / 1024 = k + 1 := ⟨c / 1024 - 1, by omega⟩
  rw [index, Ring.chain, List.getElem?_cons_succ] at there
  exact fun e => (List.nodup_cons.1 once).1 (e ▸ List.mem_of_getElem? there)

theorem Ring.sampleAt_first {dram : Memory} {c : Nat} {r : Ring} (first : c < 1024) :
    r.sampleAt dram c = readSample dram r.writePage ⟨c, first⟩ := by
  rw [Ring.sampleAt_page (page := r.writePage) (by rw [Nat.div_eq_of_lt first]; rfl)]
  simp only [Nat.mod_eq_of_lt first]

/-! ## The write point (R65) -/

/-- At a page's end the write point comes to the next page of the chain. -/
theorem Ring.advance_end {r : Ring} (last : ¬r.writeOffset.val + 1 < 1024) :
    r.advance.chain = r.rest ++ [r.writePage] ∧ r.advance.writeOffset = 0 := by
  rw [Ring.advance, if_neg last]
  split
  · next none => exact ⟨by rw [Ring.chain, none]; rfl, rfl⟩
  · next next others rest => exact ⟨by rw [Ring.chain, rest]; rfl, rfl⟩

theorem Ring.advance_within {r : Ring} (more : r.writeOffset.val + 1 < 1024) :
    r.advance.chain = r.chain ∧ r.advance.writeOffset.val = r.writeOffset.val + 1 := by
  rw [Ring.advance, if_pos more]
  refine ⟨rfl, ?_⟩
  show (r.writeOffset + 1 : Fin 1024).val = _
  rw [Fin.val_add]
  exact Nat.mod_eq_of_lt more

/-- Once the write point has moved on, the frame at distance 0 is the one at the position it left. -/
theorem Ring.advance_newest (dram : Memory) (r : Ring) :
    r.advance.sampleAt dram (r.advance.index 0) = readSample dram r.writePage r.writeOffset := by
  have within := r.writeOffset.isLt
  by_cases more : r.writeOffset.val + 1 < 1024
  · obtain ⟨chain, offset⟩ := Ring.advance_within more
    have index : r.advance.index 0 = r.writeOffset.val := by
      rw [Ring.index_recent (by omega), offset]
      omega
    rw [index, Ring.sampleAt_page (page := r.writePage) (by rw [chain, Nat.div_eq_of_lt within]; rfl)]
    simp only [Nat.mod_eq_of_lt within]
  · obtain ⟨chain, offset⟩ := Ring.advance_end more
    have index : r.advance.index 0 = 1024 * r.rest.length + 1023 := by
      have capacity := r.advance_capacity.trans r.capacity_eq
      rw [Ring.index_older (by rw [offset]; exact Nat.zero_le _) (by omega), offset, capacity]
      rw [Fin.val_zero]
      omega
    have here : r.writeOffset.val = 1023 := by omega
    rw [index, Ring.sampleAt_page (page := r.writePage) (by
      rw [chain, show (1024 * r.rest.length + 1023) / 1024 = r.rest.length by omega]
      simp)]
    exact readSample_place (by dsimp only; omega) dram _

/-- Every other frame is one further back where it was. -/
theorem Ring.advance_older {r : Ring} {d : Nat} (reached : d + 1 < r.capacity) (dram : Memory) :
    r.advance.sampleAt dram (r.advance.index (d + 1)) = r.sampleAt dram (r.index d) := by
  have within := r.writeOffset.isLt
  have capacity := r.advance_capacity
  have pages := r.capacity_eq
  by_cases more : r.writeOffset.val + 1 < 1024
  · obtain ⟨chain, offset⟩ := Ring.advance_within more
    have index : r.advance.index (d + 1) = r.index d := by
      rw [Ring.index, Ring.index, capacity, offset, show r.writeOffset.val + 1 + r.capacity - 1 - (d + 1)
        = r.writeOffset.val + r.capacity - 1 - d by omega]
    have below : r.index d < r.capacity := Nat.mod_lt _ (by omega)
    obtain ⟨page, there⟩ := Ring.page_of_lt below
    rw [index, Ring.sampleAt_page there, Ring.sampleAt_page (r := r.advance) (chain ▸ there)]
  · obtain ⟨chain, offset⟩ := Ring.advance_end more
    have offset : r.advance.writeOffset.val = 0 := by rw [offset]; rfl
    have index : r.advance.index (d + 1) = r.capacity - 1 - (d + 1) := by
      rw [Ring.index_older (by omega) (by omega), capacity, offset]
      omega
    by_cases recent : d < r.writeOffset.val
    · have left : r.index d = 1022 - d := by rw [Ring.index_recent recent]; omega
      have first : 1022 - d < 1024 := by omega
      rw [left, Ring.sampleAt_first first, index, Ring.sampleAt_page (page := r.writePage) (by
        rw [chain, show (r.capacity - 1 - (d + 1)) / 1024 = r.rest.length by omega]
        simp)]
      exact readSample_place (by dsimp only; omega) dram _
    · have left : r.index d = r.capacity - 1 - (d + 1) + 1024 := by rw [Ring.index_older (by omega) (by omega)]; omega
      generalize place : r.capacity - 1 - (d + 1) = c at left index
      obtain ⟨page, there⟩ := Ring.page_of_lt (r := r) (c := c + 1024) (by omega)
      have shifted : r.advance.chain[c / 1024]? = some page := by
        rw [Nat.add_div_right c (by decide), Ring.chain, List.getElem?_cons_succ] at there
        rw [chain, List.getElem?_append_left (List.getElem?_eq_some_iff.1 there).1, there]
      rw [left, index, Ring.sampleAt_page there, Ring.sampleAt_page shifted]
      simp only [Nat.add_mod_right]

/-! ## The write (R61, R65, R66) -/

/-- A sample written at the write point leaves every frame within reach. -/
theorem Ring.sampleAt_writeSample {r : Ring} (once : r.chain.Nodup) {c : Nat} (reached : c < r.capacity) (apart : c ≠ r.writeOffset.val)
    (dram : Memory) (sample : Int) : r.sampleAt (writeSample dram r.writePage r.writeOffset sample) c = r.sampleAt dram c := by
  obtain ⟨page, there⟩ := Ring.page_of_lt reached
  rw [Ring.sampleAt_page there, Ring.sampleAt_page there]
  refine readSample_writeSample_elsewhere ?_ dram sample
  by_cases first : c < 1024
  · exact .inr fun e => apart (by rw [← e]; exact (Nat.mod_eq_of_lt first).symm)
  · exact .inl (Ring.ne_writePage once there (by omega))

/-- The frames within reach do not lie at the write point. -/
theorem Ring.index_ne_writeOffset {r : Ring} {d : Nat} (reached : d + 1 < r.capacity) : r.index d ≠ r.writeOffset.val := by
  by_cases recent : d < r.writeOffset.val
  · rw [Ring.index_recent recent]
    omega
  · rw [Ring.index_older (by omega) (by omega)]
    omega

theorem Ring.index_lt (r : Ring) (d : Nat) : r.index d < r.capacity :=
  Nat.mod_lt _ (by rw [r.capacity_eq]; omega)

/-! ## A longer ring and a shorter one (R67, R68) -/

/-- The longer ring has j pages more than the shorter, next to the write page; both have one write point. -/
structure Ring.Longer (j : Nat) (short long : Ring) : Prop where
  some_ : 1 ≤ j
  page : long.writePage = short.writePage
  offset : long.writeOffset = short.writeOffset
  length : long.rest.length = short.rest.length + j
  later : long.rest.drop j = short.rest

namespace Ring.Longer

variable {j : Nat} {short long : Ring}

theorem capacity (h : Longer j short long) : long.capacity = short.capacity + 1024 * j := by
  rw [Ring.capacity_eq, Ring.capacity_eq, h.length]
  omega

/-- The frames already written in this round have the same positions. -/
theorem index_recent (h : Longer j short long) {distance : Nat} (recent : distance < short.writeOffset.val) :
    long.index distance = short.index distance := by
  rw [Ring.index_recent recent, Ring.index_recent (by rw [h.offset]; exact recent), h.offset]

/-- The others lie j pages further in the longer ring. -/
theorem index_older (h : Longer j short long) {distance : Nat} (older : short.writeOffset.val ≤ distance)
    (reached : distance < short.capacity) : long.index distance = short.index distance + 1024 * j := by
  have more := h.capacity
  rw [Ring.index_older older reached, Ring.index_older (by rw [h.offset]; exact older) (by omega), h.offset, more]
  omega

/-- The page that the tail of the write page lies on in the longer ring. -/
theorem tail_page (h : Longer j short long) {c : Nat} (first : c < 1024) {last : PageId}
    (last_eq : (long.rest.take j).getLast? = some last) : long.chain[(c + 1024 * j) / 1024]? = some last := by
  have some_ := h.some_
  have length := h.length
  rw [show (c + 1024 * j) / 1024 = j - 1 + 1 by omega, Ring.chain, List.getElem?_cons_succ, ← last_eq, List.getLast?_eq_getElem?,
    List.length_take, Nat.min_eq_left (by omega), List.getElem?_take_of_lt (by omega)]

/-- Every later page lies j pages further in the longer ring. -/
theorem later_page (h : Longer j short long) {c : Nat} (later : 1024 ≤ c) :
    long.chain[(c + 1024 * j) / 1024]? = short.chain[c / 1024]? := by
  obtain ⟨k, index⟩ : ∃ k, c / 1024 = k + 1 := ⟨c / 1024 - 1, by omega⟩
  rw [show (c + 1024 * j) / 1024 = j + k + 1 by omega, index, Ring.chain, Ring.chain, List.getElem?_cons_succ, List.getElem?_cons_succ,
    ← h.later, List.getElem?_drop]

/-- Two memories of which the one has the tail of the write page where the other has it on the last page between: both rings read alike
at every distance within the shorter one's reach. -/
theorem sampleAt_eq (h : Longer j short long) {m n : Memory} {last : PageId} (last_eq : (long.rest.take j).getLast? = some last)
    (before : ∀ x : Fin 1024, x < short.writeOffset → readSample n short.writePage x = readSample m short.writePage x)
    (tail : ∀ x : Fin 1024, short.writeOffset ≤ x → readSample n last x = readSample m short.writePage x)
    (others : ∀ page ∈ short.rest, n.AgreeOn m page) {distance : Nat} (reached : distance < short.capacity) :
    long.sampleAt n (long.index distance) = short.sampleAt m (short.index distance) := by
  have within := short.writeOffset.isLt
  by_cases recent : distance < short.writeOffset.val
  · have place := Ring.index_recent recent
    have first : short.index distance < 1024 := by omega
    rw [h.index_recent recent, Ring.sampleAt_first first, Ring.sampleAt_first first, h.page]
    exact before _ (show short.index distance < short.writeOffset.val by omega)
  · have older := Ring.index_older (Nat.not_lt.1 recent) reached
    have below := short.index_lt distance
    rw [h.index_older (Nat.not_lt.1 recent) reached]
    generalize short.index distance = c at older below
    by_cases first : c < 1024
    · rw [Ring.sampleAt_page (h.tail_page first last_eq), Ring.sampleAt_first first, ← tail _ (show short.writeOffset.val ≤ c by omega)]
      exact readSample_place (by dsimp only; omega) n last
    · obtain ⟨page, there⟩ := Ring.page_of_lt below
      have mem : page ∈ short.rest := by
        obtain ⟨k, index⟩ : ∃ k, c / 1024 = k + 1 := ⟨c / 1024 - 1, by omega⟩
        rw [index, Ring.chain, List.getElem?_cons_succ] at there
        exact List.mem_of_getElem? there
      rw [Ring.sampleAt_page ((h.later_page (Nat.not_lt.1 first)).trans there), Ring.sampleAt_page there, ← others page mem]
      exact readSample_place (by dsimp only; omega) n page

end Ring.Longer

/-! ## Splices and trims (R67, R68) -/

/-- A splice of pages that are free. -/
theorem Dmc.splice_eq {j : Nat} {d : Dmc} {last : PageId} (last_eq : (d.free.take j).getLast? = some last) (newest : Int) (r : Ring) :
    d.splice j newest r = ({ d with free := d.free.drop j, dram := copyTail d.dram r.writePage last r.writeOffset },
      { r with rest := d.free.take j ++ r.rest, historyStart := max r.historyStart (newest - r.reach) }) := by
  rw [Dmc.splice]
  simp only [last_eq]

theorem Dmc.trim_eq {j : Nat} {r : Ring} {last : PageId} (last_eq : (r.rest.take j).getLast? = some last) (d : Dmc) :
    d.trim j r = ({ d with free := d.free ++ r.rest.take j, dram := copyTail d.dram last r.writePage r.writeOffset },
      { r with rest := r.rest.drop j }) := by
  rw [Dmc.trim]
  simp only [last_eq]

theorem exists_getLast_take {α : Type} {j : Nat} {l : List α} (some_ : 1 ≤ j) (enough : j ≤ l.length) :
    ∃ last, (l.take j).getLast? = some last :=
  ⟨_, List.getLast?_eq_some_getLast (by
    intro none
    have length := congrArg List.length none
    rw [List.length_take, List.length_nil] at length
    omega)⟩

/-! ## What is read back (R64 to R68) -/

/-- What the first statement says: a write at the write point, which then moves on. -/
theorem Ring.frameAt_written {dram : Memory} (hm : dram.wf) {r : Ring} (once : r.chain.Nodup) (newest : Int) {sample : Int}
    (least : -(2 ^ 23) ≤ sample) (most : sample < 2 ^ 23) :
    (0 ≤ newest → r.historyStart ≤ newest →
        r.advance.frameAt (writeSample dram r.writePage r.writeOffset sample) newest 0 = sample)
      ∧ ∀ d : Nat, d + 1 < r.capacity →
        r.advance.frameAt (writeSample dram r.writePage r.writeOffset sample) newest (d + 1) = r.frameAt dram (newest - 1) d := by
  refine ⟨fun stamped kept => ?_, fun d reached => ?_⟩
  · rw [Ring.frameAt_eq, r.advance_historyStart, if_neg (by omega), Ring.advance_newest, readSample_writeSample hm _ _ least most]
  · rw [Ring.frameAt_eq, Ring.frameAt_eq, r.advance_historyStart, Ring.advance_older reached,
      Ring.sampleAt_writeSample once (r.index_lt d) (Ring.index_ne_writeOffset reached),
      show newest - ((d + 1 : Nat) : Int) = newest - 1 - (d : Int) by omega]

/-- A splice makes the ring longer. -/
theorem Dmc.splice_longer {j : Nat} {d : Dmc} (some_ : 1 ≤ j) (enough : j ≤ d.free.length) (newest : Int) (r : Ring) :
    Ring.Longer j r (d.splice j newest r).2 := by
  obtain ⟨-, rest, page, offset⟩ := d.splice_fields j newest r
  have length : (d.free.take j).length = j := List.length_take_of_le enough
  refine ⟨some_, page, offset, ?_, ?_⟩
  · rw [rest, List.length_append, length, Nat.add_comm]
  · rw [rest, List.drop_left' length]

/-- A trim makes the ring shorter. -/
theorem Dmc.trim_longer {j : Nat} {r : Ring} (some_ : 1 ≤ j) (enough : j ≤ r.rest.length) (d : Dmc) :
    Ring.Longer j (d.trim j r).2 r := by
  rw [Dmc.trim_ring]
  exact ⟨some_, rfl, rfl, by rw [List.length_drop]; omega, rfl⟩

/-- After a splice every position within the old reach holds the sample that it held. -/
theorem Dmc.splice_sampleAt {j : Nat} {d : Dmc} {r : Ring} (hm : d.dram.wf) (once : (r.chain ++ d.free).Nodup) (some_ : 1 ≤ j)
    (enough : j ≤ d.free.length) (newest : Int) {distance : Nat} (reached : distance < r.capacity) :
    (d.splice j newest r).2.sampleAt (d.splice j newest r).1.dram ((d.splice j newest r).2.index distance)
      = r.sampleAt d.dram (r.index distance) := by
  have longer := Dmc.splice_longer some_ enough newest r
  have rest := (d.splice_fields j newest r).2.1
  obtain ⟨last, last_eq⟩ := exists_getLast_take some_ enough
  have mem : last ∈ d.free := List.mem_of_mem_take (List.mem_of_getLast? last_eq)
  have apart : ∀ page ∈ r.chain, page ≠ last := fun page hp e => (List.nodup_append.1 once).2.2 page hp last mem e
  refine longer.sampleAt_eq (last := last) ?_ ?_ ?_ ?_ reached
  · rw [rest, List.take_left' (List.length_take_of_le enough), last_eq]
  · rw [Dmc.splice_eq last_eq]
    exact fun x below => readSample_copyTail_other _ _ (.inr below)
  · rw [Dmc.splice_eq last_eq]
    exact fun x above => readSample_copyTail hm _ _ above
  · rw [Dmc.splice_eq last_eq]
    exact fun page hp x => readSample_copyTail_other _ _ (.inl (apart page (.tail _ hp)))

/-- After a trim every position within the new reach holds the sample that it held. -/
theorem Dmc.trim_sampleAt {j : Nat} {d : Dmc} {r : Ring} (hm : d.dram.wf) (once : r.chain.Nodup) (some_ : 1 ≤ j)
    (enough : j ≤ r.rest.length) {distance : Nat} (reached : distance < (d.trim j r).2.capacity) :
    (d.trim j r).2.sampleAt (d.trim j r).1.dram ((d.trim j r).2.index distance) = r.sampleAt d.dram (r.index distance) := by
  have longer := Dmc.trim_longer some_ enough d
  obtain ⟨last, last_eq⟩ := exists_getLast_take some_ enough
  have apart : ∀ page ∈ r.rest, page ≠ r.writePage := fun page hp e => (List.nodup_cons.1 once).1 (e ▸ hp)
  refine (longer.sampleAt_eq last_eq ?_ ?_ ?_ reached).symm
  · rw [Dmc.trim_eq last_eq]
    exact fun x below => (readSample_copyTail_other _ _ (.inr below)).symm
  · rw [Dmc.trim_eq last_eq]
    exact fun x above => (readSample_copyTail hm _ _ above).symm
  · rw [Dmc.trim_eq last_eq]
    exact fun page hp x => (readSample_copyTail_other _ _ (.inl (apart page (List.mem_of_mem_drop hp)))).symm

/-- A splice starts the history no later than the old reach. -/
theorem Dmc.splice_historyStart {j : Nat} {d : Dmc} (some_ : 1 ≤ j) (enough : j ≤ d.free.length) (newest : Int) (r : Ring) :
    (d.splice j newest r).2.historyStart = max r.historyStart (newest - r.reach) := by
  obtain ⟨last, last_eq⟩ := exists_getLast_take some_ enough
  rw [Dmc.splice_eq last_eq]

theorem Ring.reach_eq (r : Ring) : (r.reach : Int) = r.capacity - 1 := by
  have := r.capacity_eq
  rw [Ring.reach]
  omega

/-- Settles O32: a frame's place is a position of the chain; the write point's move, a splice and a trim move positions and samples
together, the tail of the write page by the copy. -/
theorem ringsReadBackThroughSplicesAndTrims : Obligations.RingsReadBackThroughSplicesAndTrims := by
  unfold Obligations.RingsReadBackThroughSplicesAndTrims
  refine ⟨fun dram r newest sample hm once least most => ?_, fun d r j newest hm once some_ enough => ?_,
    fun d r j newest hm once some_ enough => ?_⟩
  · obtain ⟨here, older⟩ := Ring.frameAt_written hm once newest least most
    exact ⟨here, older, fun d lost => by rw [Ring.frameAt_eq, if_pos lost]⟩
  · intro q
    obtain ⟨free, rest, page, offset⟩ := d.splice_fields j newest r
    have history := Dmc.splice_historyStart some_ enough newest r
    have reach := r.reach_eq
    refine ⟨free, by rw [Ring.chain, page, rest], offset, d.splice_wait j newest r, fun dist reached => ?_, fun dist beyond => ?_⟩
    · rw [Ring.frameAt_eq, Ring.frameAt_eq, history, Dmc.splice_sampleAt hm once some_ enough newest reached]
      exact if_congr (by omega) rfl rfl
    · rw [Ring.frameAt_eq, history]
      exact if_pos (by omega)
  · intro q
    have ring := Dmc.trim_ring j d r
    refine ⟨Dmc.trim_free j d r, by rw [ring]; rfl, by rw [ring], by rw [ring], Dmc.trim_wait d j r, fun dist reached => ?_⟩
    rw [Ring.frameAt_eq, Ring.frameAt_eq, Dmc.trim_sampleAt hm once some_ enough reached, ring]

end Sys2Proof.Machine
